-- ==== Sys2Proof/Word.lean ====
section
/-!
DEFINITION. The plainest types of the model: bytes, 64-bit words and status codes.
-/

namespace Sys2Proof

/-- A 64-bit word (R11). -/
abbrev Word := BitVec 64

/-- A byte, the smallest addressable unit (R7). -/
abbrev Byte := BitVec 8

/-- A status code of 16 bits (R18), held as a number. -/
abbrev Status := Nat

/-- A module physical address or a virtual address, held as a number (R36, R520). -/
abbrev Addr := Nat

end Sys2Proof
end

