-- ==== Sys2Proof/Syntax.lean ====
section
/-!
DEFINITION. The commands of the block.  The module is driven from outside: accesses of the host to
its registers, symbols and flits on its links, events on its pins and in its units.  Each row of the
table of operations is one constructor; its operands name the object it acts on and carry what the
environment supplies (bytes received, samples, the outcome of a training or of a code's check).
-/

namespace Sys2Proof

/-- What an MCTP message asks of the Handle, its framing taken off (R721, R722): an endpoint identifier
assigned, a sensor read, an event receiver registered, the oldest event taken, an image transferred and
activated under PLDM Type 5, a mailbox request, or a message of another type. -/
inductive MctpBody where
  | setEid (eid : Nat)
  | readSensor (number : Nat)
  | setEventReceiver
  | takeEvent
  | update (image : List Byte)
  | activate
  | request (seq op : Nat) (payload : List Byte)
  | other (kind : Nat)
  deriving DecidableEq, Repr


/-- The commands and events of the block: one constructor for each row of the table of operations. -/
inductive Instr where
  /-- REGISTER_WRITE (R14). A host write to a register field that has no behaviour of its own stores or ignores the value according to its access type, with 64-bit halves staged and committed under R12. -/
  | registerWrite (fn off size : Nat) (write : Bool) (value : Nat)
  /-- BAR0_BAD_ACCESS (R806). An 8-bit, 16-bit or misaligned BAR0 access completes normally, reads zero or is discarded, and is recorded in GLB_ERR. -/
  | bar0BadAccess (fn off size : Nat) (write : Bool)
  /-- BAR2_ACCESS (R810). A host access through BAR2 reaches module physical address base plus offset without translation and with policy NO_ALLOCATE, or reads zero when the address is unbacked. -/
  | bar2Access (log2 off n : Nat) (write : Bool) (data : List Byte) (err : Nat)
  /-- GLB_BAR2_BASE_WRITE (R812). A write to GLB_BAR2_BASE applies to every BAR2 request received after it. -/
  | glbBar2BaseWrite (value fn : Nat)
  /-- ROUND_BOUNDARY (R44). After L + s reference ticks the Round count increments and the per-Round work of the module begins. -/
  | roundBoundary
  /-- ROUND_SYNC (R58). A received ROUND_SYNC symbol gives a follower the count, depth, L and stretch announcement, and steers its oscillator. -/
  | roundSync (port count depth len s2 : Nat) (offset : Int)
  /-- ROUND_LEN (R69). A received ROUND_LEN symbol announces a new L and the Round count at which it takes effect. -/
  | roundLen (port len round : Nat)
  /-- DELAY_REQ_SEND (R57). A follower sends a DELAY_REQ once per Round while measuring, and once every 64 Rounds while locked. -/
  | delayReqSend (t1 : Nat)
  /-- DELAY_REQ (R56). A received DELAY_REQ is answered with a DELAY_RESP carrying t2 and t3. -/
  | delayReq (port id t2 t3 : Nat)
  /-- DELAY_RESP (R56). A received DELAY_RESP completes one one-way delay measurement, and the median of 16 is kept. -/
  | delayResp (port id t2 t3 t4 : Nat)
  /-- FOLLOWER_LOCK (R59). After 16 consecutive Rounds within ±5 ns a follower declares lock, loads the count under R60 and begins sending ROUND_SYNC. -/
  | followerLock
  /-- NO_LOCK_RETRY (R67). A follower not locked 64 Rounds after a lock attempt began sets no_lock and restarts the lock sequence, alternating ports when backup is enabled. -/
  | noLockRetry
  /-- LOSS_OF_LOCK (R62). A follower loses lock when its timing port leaves training or no ROUND_SYNC arrives for 4 Rounds, clearing locked and setting lock_lost. -/
  | lossOfLock
  /-- REFERENCE_LOSS (R65). The master loses ROUND_REF for more than 4 ticks, stops sending ROUND_SYNC and keeps counting on its oscillator. -/
  | referenceLoss
  /-- MASTER_LOCK (R66). After 16 whole Rounds with the reference present, the master aligns its boundary to a reference tick, sets locked and resumes ROUND_SYNC. -/
  | masterLock
  /-- ROUND_COUNT_SET (R61). A write to ROUND_COUNT_SET on an idle master sets the count at the next boundary when the value exceeds the current count plus 1. -/
  | roundCountSet (value : Nat)
  /-- ROLE_CHANGE (R813). A write that changes ROUND_CFG.role switches between master and follower in the cycle of the write and clears locked. -/
  | roleChange (value : Nat)
  /-- ROUND_LEN_WRITE (R69). A write that changes ROUND_CFG.len_ticks on the master schedules the new L at least 16 Rounds ahead, or is refused while a table runs. -/
  | roundLenWrite (value : Nat)
  /-- STRETCH (R74). A received STRETCH symbol is relayed toward the master, which keeps each module's latest request and sets s to the largest. -/
  | stretch (port origin n amount : Nat)
  /-- THERMAL_STRETCH_STEP (R77). Every 64 Rounds at or above the threshold the module raises its thermal request by step_ticks up to max_ticks. -/
  | thermalStretchStep
  /-- THERMAL_STRETCH_WITHDRAW (R77). After 256 consecutive Rounds with every sensor 5 °C below the threshold the module withdraws its thermal request. -/
  | thermalStretchWithdraw
  /-- POWER_STRETCH_STEP (R786). While input power stands at warning level the module requests and raises a power stretch with the steps of R77. -/
  | powerStretchStep
  /-- POWER_STRETCH_WITHDRAW (R786). After 256 Rounds with sensor 68 below its warning threshold by the hysteresis the module withdraws its power request. -/
  | powerStretchWithdraw
  /-- ROUND_STRETCH_REQ (R78). A write to ROUND_STRETCH_REQ makes the module send the larger of Withy's and its own amount as its request. -/
  | roundStretchReq (amount : Nat)
  /-- WEAVE_LOAD (R79). WEAVE_CTRL.load starts loading and checking the table image, replacing any loaded or armed table. -/
  | weaveLoad (value : Nat)
  /-- WEAVE_LOAD_DONE (R80). The table load ends, either loaded or refused with the status and entry index of the first failing check. -/
  | weaveLoadDone
  /-- WEAVE_ARM (R83). WEAVE_CTRL.arm checks lock, start and offsets, then takes WEAVE_START, cycle_len and WEAVE_CYCLES and arms the table. -/
  | weaveArm (value : Nat)
  /-- WEAVE_STOP (R84). WEAVE_CTRL.stop makes the current occurrence the last, or ends an arm whose occurrence 0 has not begun. -/
  | weaveStop (value : Nat)
  /-- WEAVE_STOP_NOW (R84). WEAVE_CTRL.stop_now ends issue at once and drops every due entry not yet accepted. -/
  | weaveStopNow (value : Nat)
  /-- ENTRY_ACCEPT (R92). A waiting Weave entry is accepted when its target unit is free of earlier scheduled work. -/
  | entryAccept (idx occ : Nat)
  /-- FLT_SCHEDULE_OVERRUN (R96). An entry whose slip exceeds its budget raises FLT_SCHEDULE_OVERRUN and issue stops. -/
  | fltScheduleOverrun
  /-- LINK_SLOT_FINISH (R588). A LINK_SLOT finishes when it has carried its credit or its duration ends with no flit of its VC waiting. -/
  | linkSlotFinish (idx occ : Nat)
  /-- CONTEXT_POLL (R115). A serving front polls a context at its interval, every Round when real-time, or for a RING_POLL entry, reading producer and completion indices within the budget. -/
  | contextPoll (ctx failMask : Nat)
  /-- PACKET_FETCH (R118). The front fetches up to 8 slots per ring between consumer and producer index, checks each packet under R127 and writes the consumer index. -/
  | packetFetch (ctx ring : Nat) (fail : Bool)
  /-- FETCH_CONTINUE (R119). A ring still holding unfetched packets is fetched again in the next Round without a new index read. -/
  | fetchContinue (ctx ring : Nat) (fail : Bool)
  /-- PACKET_DISPATCH (R124). A packet is dispatched once it is eligible, its wait and fence hold, the context has room and a completion slot is reserved. -/
  | packetDispatch (ctx ring : Nat)
  /-- NOP (R128). A NOP packet does nothing. -/
  | nop (ctx ring slot : Nat)
  /-- EVENT_SIGNAL (R818). EVENT_SIGNAL adds to or sets an event counter of this or another context after checking the target. -/
  | eventSignal (ctx ring slot : Nat)
  /-- WAIT_MEM (R132). WAIT_MEM compares a 64-bit memory value and completes when the comparison holds, re-evaluated at later polls. -/
  | waitMem (ctx ring : Nat)
  /-- WRITE_IMM (R129). WRITE_IMM writes a 64-bit value to memory. -/
  | writeImm (ctx ring slot : Nat)
  /-- TIMESTAMP (R129). TIMESTAMP writes the Round count at completion to memory. -/
  | timestamp (ctx ring slot : Nat)
  /-- COPY (R816). COPY copies bytes, or packs or expands a Plait tensor on the link-side units. -/
  | copy (ctx ring slot : Nat)
  /-- FILL (R816). FILL fills memory with a 64-bit pattern. -/
  | fill (ctx ring slot : Nat)
  /-- WEAVE_RUN (R171). WEAVE_RUN checks its Stakes and run bound and becomes a waiting weave of its context. -/
  | weaveRun (ctx ring slot : Nat)
  /-- COLLECTIVE (R610). COLLECTIVE is checked at dispatch and posted to its channel's queue. -/
  | collective (ctx ring slot : Nat)
  /-- PREFETCH (R552). PREFETCH runs a prefetch list between the Hamper tier and HBM entry by entry. -/
  | prefetch (ctx ring slot : Nat)
  /-- PLACE (R554). PLACE acts as one PROMOTE or DEMOTE entry over its range with pin or unpin. -/
  | place (ctx ring slot : Nat)
  /-- TLB_INVALIDATE (R530). TLB_INVALIDATE discards cached translations of a context or all contexts over a range and completes when none remain in use. -/
  | tlbInvalidate (ctx ring slot : Nat)
  /-- SFU_TABLE_LOAD (R345). SFU_TABLE_LOAD reads, verifies and checks a signed table image and writes it into a slot of every target Stake. -/
  | sfuTableLoad (ctx ring slot : Nat)
  /-- SFU_BIND (R346). SFU_BIND checks the slot on every target Stake and binds a function number to it. -/
  | sfuBind (ctx ring slot : Nat)
  /-- PLAIT_TABLE_LOAD (R447). PLAIT_TABLE_LOAD checks a table object and ownership and closes the named slot of every selected die. -/
  | plaitTableLoad (ctx ring slot : Nat)
  /-- PLAIT_SLOT_WRITE (R448). When no queued block names the closed slot's generation, the module writes the new table and generation into the slot. -/
  | plaitSlotWrite (key : Nat)
  /-- VID_OPEN (R652). VID_OPEN checks an open record and opens a codec session on a cluster. -/
  | vidOpen (ctx ring slot : Nat)
  /-- VID_DECODE (R664). VID_DECODE queues a decode job to a session's cluster. -/
  | vidDecode (ctx ring slot : Nat)
  /-- VID_ENCODE (R679). VID_ENCODE queues an encode job to a session's cluster. -/
  | vidEncode (ctx ring slot : Nat)
  /-- VID_CLOSE (R656). VID_CLOSE moves a session to CLOSING. -/
  | vidClose (ctx ring slot : Nat)
  /-- SESSION_CLOSED (R656). A closing session becomes CLOSED and its VID_CLOSE completes when every earlier job of the session has completed. -/
  | sessionClosed (session : Nat)
  /-- KV_UNPARK (R414). KV_UNPARK clears the parked flag of one or all batch-table entries. -/
  | kvUnpark (ctx ring slot : Nat)
  /-- PACKET_COMPLETE (R143). A finishing packet updates its signal counter, writes its completion record and index, and sends MSI-X as required. -/
  | packetComplete (ctx ring slot : Nat)
  /-- MSIX_MODERATED_SEND (R144). A moderated MSI-X message is sent at the first boundary at least m Rounds after the previous one. -/
  | msixModeratedSend (ctx : Nat)
  /-- FLUSHED_RECORD_WRITE (R149). A waiting ST_CMD_FLUSHED record is written in ring order once a completion slot is free. -/
  | flushedRecordWrite (ctx : Nat)
  /-- BIND (R146). CTX_CTRL BIND binds a FREE context to a function and partition and moves it to READY. -/
  | bind (ctx fn : Nat)
  /-- ACTIVATE (R146). CTX_CTRL ACTIVATE checks the rings, loads counters, zeroes indices and moves the context to ACTIVE. -/
  | activate (ctx fn : Nat)
  /-- DRAIN (R146). CTX_CTRL DRAIN discards undispatched packets and moves the context to DRAINING. -/
  | drain (ctx fn : Nat)
  /-- DRAIN_DONE (R146). A draining context enters READY when its last dispatched packet completes and every flushed record is written. -/
  | drainDone (ctx : Nat)
  /-- CLEAR_ERROR (R146). CTX_CTRL CLEAR_ERROR returns an ERROR context to ACTIVE, resuming fetch at the consumer index. -/
  | clearError (ctx fn : Nat)
  /-- RELEASE (R146). CTX_CTRL RELEASE returns a READY context other than 0 to FREE. -/
  | release (ctx fn : Nat)
  /-- VF_FLR (R158). A function-level reset of a virtual function causes a partition reset of its partition. -/
  | vfFlr (vf : Nat)
  /-- VF_DISABLE (R159). Clearing VF Enable or lowering NumVFs resets and disables the partition of each virtual function that ceases to exist. -/
  | vfDisable (n : Nat)
  /-- PART_ENABLE (R167). A write to PART_CFG.enable checks overlap and function and enables or disables the partition. -/
  | partEnable (part value fn : Nat)
  /-- PART_CONFIG_WRITE (R168). A write to PART_SKEINS, PART_RES, PART_VID or PART_CFG is checked and, when accepted, changes ownership, zeroing Trays and emptying slots of moved Skeins. -/
  | partConfigWrite (part reg value fn : Nat)
  /-- OVER_BOUND (R179). A weave not freed by boundary t + b sets over_bound and is counted in PART_OVERRUNS. -/
  | overBound (id : Nat)
  /-- CONTEXT_URGENT (R180). A context becomes urgent when its age reaches PART_CFG.urgency. -/
  | contextUrgent (ctx : Nat)
  /-- ENERGY_ATTRIBUTION (R190). At each boundary whose count is a multiple of 1,024 the module attributes measured input energy to contexts and idle. -/
  | energyAttribution (energy : Nat)
  /-- DESCRIPTOR_START (R231). A descriptor starts on its queue when barriers, tile interlocks and its credit wait are satisfied, consuming the waited credits. -/
  | descriptorStart (stake : Nat)
  /-- DESCRIPTOR_COMPLETE (R232). A descriptor completes when its writes are visible, and signals its credit counter. -/
  | descriptorComplete (stake idx : Nat)
  /-- WEAVE_COMPLETE (R236). A weave completes when every Stake has finished its stream, raising its event counter or writing its WEAVE_RUN completion. -/
  | weaveComplete (id : Nat)
  /-- MM (R227). An MM descriptor computes C += A × B into accumulator tiles with preload and epilogue. -/
  | mm (stake idx : Nat)
  /-- MMR (R635). An MMR descriptor computes an MM whose output feeds a posted collective. -/
  | mmr (stake idx : Nat)
  /-- CONV (R306). A CONV descriptor runs direct convolution through the address generators. -/
  | conv (stake idx : Nat)
  /-- WCONV (R312). A WCONV descriptor runs F(2,3) Winograd convolution. -/
  | wconv (stake idx : Nat)
  /-- ATTN (R382). An ATTN descriptor computes attention passes with the online soft maximum over visible key blocks. -/
  | attn (stake idx : Nat)
  /-- NORM (R363). A NORM descriptor computes layer, RMS or group normalisation. -/
  | norm (stake idx : Nat)
  /-- SMAX (R366). An SMAX descriptor computes the row soft maximum. -/
  | smax (stake idx : Nat)
  /-- SFU (R354). An SFU descriptor evaluates a special function elementwise. -/
  | sfu (stake idx : Nat)
  /-- VPROG (R237). A VPROG descriptor loads a vector microprogram from the Tray and runs it from instruction 0. -/
  | vprog (stake idx : Nat)
  /-- MOVE (R228). A MOVE descriptor copies bytes between Tray, accumulator, memory and other Trays. -/
  | move (stake idx : Nat)
  /-- ENCODE (R464). PACK ENCODE codes a plain operand into a compact packed tensor. -/
  | encode (stake idx : Nat)
  /-- DECODE (R464). PACK DECODE expands a packed operand into plain data. -/
  | decode (stake idx : Nat)
  /-- COMPACT (R464). PACK COMPACT copies packed blocks into a compact tensor without expansion. -/
  | compact (stake idx : Nat)
  /-- BUILD (R441). PACK BUILD counts plane symbols and writes a shared table object. -/
  | build (stake idx : Nat)
  /-- CROP (R323). A CROP descriptor cuts boxes from frames and resamples them. -/
  | crop (stake idx : Nat)
  /-- POOL (R318). A POOL descriptor reduces windows by maximum, sum or mean. -/
  | pool (stake idx : Nat)
  /-- SCATTER_ADD (R514). A SCATTER_ADD descriptor adds rows into memory through the memory-side adders. -/
  | scatterAdd (stake idx : Nat)
  /-- STEP_BEGIN (R408). PSEL STEP_BEGIN snapshots the batch table, lays out q_len, appends pages, admits joins and writes the length table. -/
  | stepBegin (stake idx : Nat)
  /-- STEP_END (R415). PSEL STEP_END releases the pages of leaving sequences, increments step and clears step_open. -/
  | stepEnd (stake idx : Nat)
  /-- PSEL_WRITE (R417). PSEL WRITE copies the step's new keys and values into the pages and updates page summaries. -/
  | pselWrite (stake idx : Nat)
  /-- PSEL_SELECT (R420). PSEL SELECT bounds each key block from page summaries and writes the visibility map. -/
  | pselSelect (stake idx : Nat)
  /-- VADD (R240). Vector add. -/
  | vadd (stake : Nat)
  /-- VSUB (R240). Vector subtract. -/
  | vsub (stake : Nat)
  /-- VMUL (R240). Vector multiply. -/
  | vmul (stake : Nat)
  /-- VFMA (R240). Vector fused multiply-add with one rounding. -/
  | vfma (stake : Nat)
  /-- VMAX (R276). Vector maximum. -/
  | vmax (stake : Nat)
  /-- VMIN (R276). Vector minimum. -/
  | vmin (stake : Nat)
  /-- VABS (R240). Vector absolute value. -/
  | vabs (stake : Nat)
  /-- VNEG (R240). Vector negate. -/
  | vneg (stake : Nat)
  /-- VCMPLT (R276). Vector compare less-than to a mask. -/
  | vcmplt (stake : Nat)
  /-- VCMPEQ (R276). Vector compare equal to a mask. -/
  | vcmpeq (stake : Nat)
  /-- VSEL (R240). Vector bitwise select by mask. -/
  | vsel (stake : Nat)
  /-- VAND (R240). Vector bitwise AND. -/
  | vand (stake : Nat)
  /-- VOR (R240). Vector bitwise OR. -/
  | vor (stake : Nat)
  /-- VXOR (R240). Vector bitwise exclusive OR. -/
  | vxor (stake : Nat)
  /-- VIADD (R240). Vector INT32 add modulo 2^32. -/
  | viadd (stake : Nat)
  /-- VSHL (R240). Vector shift left. -/
  | vshl (stake : Nat)
  /-- VSHR (R240). Vector logical shift right. -/
  | vshr (stake : Nat)
  /-- VCVTI (R240). Vector convert INT32 to FP32. -/
  | vcvti (stake : Nat)
  /-- VCVTF (R276). Vector convert FP32 to INT32, saturating. -/
  | vcvtf (stake : Nat)
  /-- VSFU (R344). Vector special function through the SFU. -/
  | vsfu (stake : Nat)
  /-- VEXP2 (R339). Vector 2^x through the exponential path. -/
  | vexp2 (stake : Nat)
  /-- VBCAST (R240). Broadcast a scalar register to every lane. -/
  | vbcast (stake : Nat)
  /-- VIDX (R240). Write each lane's index. -/
  | vidx (stake : Nat)
  /-- VRSUM (R241). Sum the lanes by the fixed tree. -/
  | vrsum (stake : Nat)
  /-- VRMAX (R241). Maximum of the lanes by the fixed tree. -/
  | vrmax (stake : Nat)
  /-- VMOVS (R240). Move one lane into a scalar register. -/
  | vmovs (stake : Nat)
  /-- VLD (R277). Load 128 elements from the Tray, widened exactly. -/
  | vld (stake : Nat)
  /-- VST (R277). Store 128 elements to the Tray, converted with nearest even. -/
  | vst (stake : Nat)
  /-- VLDA (R240). Load an accumulator tile row. -/
  | vlda (stake : Nat)
  /-- VSTA (R240). Store an accumulator tile row. -/
  | vsta (stake : Nat)
  /-- SADDI (R240). Scalar add immediate. -/
  | saddi (stake : Nat)
  /-- SLUI (R240). Scalar load upper immediate. -/
  | slui (stake : Nat)
  /-- SORI (R240). Scalar OR immediate. -/
  | sori (stake : Nat)
  /-- SADD (R240). Scalar add. -/
  | sadd (stake : Nat)
  /-- SMUL (R240). Scalar multiply, low 32 bits. -/
  | smul (stake : Nat)
  /-- BNE (R240). Branch when scalars differ. -/
  | bne (stake : Nat)
  /-- BLT (R240). Branch when signed less. -/
  | blt (stake : Nat)
  /-- JMP (R240). Unconditional branch. -/
  | jmp (stake : Nat)
  /-- END (R240). End the microprogram. -/
  | endProgram (stake : Nat)
  /-- VPROG_INSTRUCTION_LIMIT (R243). A VPROG reaching its 16,777,217th instruction without END stops as a malformed item. -/
  | vprogInstructionLimit (stake : Nat)
  /-- MEM_MAPOUT (R476). A write to MEM_MAPOUT moves the named channel to PENDING. -/
  | memMapout (value fn : Nat)
  /-- CREEL_REQUEST (R498). A read or write to a Coil window reaches its Creel, which serves or allocates a line or forwards to HBM. -/
  | creelRequest (who : Nat × Nat) (addr n : Nat) (write noAlloc : Bool) (data : List Byte) (err : Nat)
  /-- CE_WINDOW_END (R476). A count window of 2^window_log2 Rounds ends and correctable-error counting restarts. -/
  | ceWindowEnd
  /-- PATROL_SCRUB_READ (R488). The controller reads a word for patrol scrub, correcting and reporting errors without passing data. -/
  | patrolScrubRead (ch ca err : Nat) (last : Bool)
  /-- CREEL_WAYCFG (R492). A write to CREEL_WAYCFG converts ways to scratch, starting write-back and zeroing, or returns scratch ways to cache at once. -/
  | creelWaycfg (coil value fn : Nat)
  /-- SCRATCH_READY (R492). A way's write-back and zeroing end, busy clears and its scratch addresses become backed. -/
  | scratchReady (coil : Nat)
  /-- ADD_REQUEST (R503). An arrival-order add request is applied atomically by the memory-side adders after Creel write-back and invalidation. -/
  | addRequest (id : Nat)
  /-- ORDERED_ADD (R508). An ordered add is admitted when its tag equals next_tag, held otherwise, or ended with ST_MEM_ADDER_FORMAT. -/
  | orderedAdd (id : Nat)
  /-- HELD_ADD_ADMIT (R508). A held ordered add is admitted when next_tag reaches its tag. -/
  | heldAddAdmit (id : Nat)
  /-- DONE_MARKER (R509). A done marker is accepted after its turn's adds are applied, advancing next_tag and the epoch. -/
  | doneMarker (id : Nat)
  /-- HAMPER_TIMEOUT (R538). A Hamper request not completed within timeout_us ends with ST_MEM_HAMPER_FAIL and fails its channel. -/
  | hamperTimeout (ch : Nat)
  /-- POOL_ENABLE (R542). A write to POOL_CFG.enable checks the pool and builds or adopts its frame lists. -/
  | poolEnable (pool value fn : Nat)
  /-- PROMOTE (R550). A PROMOTE list entry moves Hamper frames into HBM frames and applies pin or unpin. -/
  | promote (id : Nat)
  /-- DEMOTE (R550). A DEMOTE list entry moves HBM frames into Hamper frames and applies pin or unpin. -/
  | demote (id : Nat)
  /-- LIST_COPY (R550). A COPY list entry copies bytes through translation. -/
  | listCopy (id : Nat)
  /-- MAP (R550). A MAP list entry pops frames of a tier and maps them from the address. -/
  | map (id : Nat)
  /-- UNMAP (R550). An UNMAP list entry clears a frame's leaves, invalidates and pushes the frame. -/
  | unmap (id : Nat)
  /-- PORT_ENABLE (R597). A write to WALE_PORT_CTRL.enable brings a port up from DETECT, or sends LINK_DOWN and takes it down. -/
  | portEnable (port value fn : Nat)
  /-- SIGNAL_DETECT (R595). Signal on all 8 lanes moves a port from DETECT to TRAIN. -/
  | signalDetect (port : Nat)
  /-- TRAINING_DONE (R595). Every lane adapted moves a port from TRAIN to ALIGN. -/
  | trainingDone (port : Nat)
  /-- PAIR_LOCK (R565). Pair lock and deskew on all lanes move a port from ALIGN to IDENT. -/
  | pairLock (port : Nat) (reversed : Bool) (polarity : Nat)
  /-- IDENT (R595). A received IDENT symbol records the peer, and three identical ones move the port to UP with credits initialised. -/
  | ident (port id peerPort part : Nat) (master running : Bool)
  /-- TRAIN_FAIL (R595). A bring-up state exceeding its bound sets train_fail. -/
  | trainFail (port : Nat)
  /-- RETURN_TO_DETECT (R595). 10 ms after a bound is exceeded the port returns to DETECT. -/
  | returnToDetect (port : Nat)
  /-- LINK_DOWN (R597). A received LINK_DOWN takes the port out of UP and reports the peer as DEPARTED. -/
  | linkDown (port reason : Nat)
  /-- LINK_LOSS (R582). 16 RETRY symbols for one seq or 1 µs without pair lock take the port out of UP, reported as LOST. -/
  | linkLoss (port : Nat) (lock : Bool)
  /-- FLIT_RECEIVE (R581). A received flit is checked, accepted in sequence or discarded, and its ack and credit fields are applied. -/
  | flitReceive (port k : Nat) (errs : Nat × Nat) (flit : List Byte)
  /-- FLIT_TRANSMIT (R587). A port sends its next flit in priority order: control, replays, then flits with credit. -/
  | flitTransmit (port : Nat)
  /-- RETRY (R581). A received RETRY makes the transmitter resend from the expected flit. -/
  | retry (port seq : Nat)
  /-- RETRY_TIMER (R581). After 4 µs without the expected flit the receiver sends RETRY again. -/
  | retryTimer (port : Nat)
  /-- CREDIT (R586). A received CREDIT symbol returns credits to up to four VCs. -/
  | credit (port : Nat) (slots : List (Nat × Nat))
  /-- WRITE_MESSAGE (R573). A received WRITE message is translated in its context and written, or discarded and counted. -/
  | writeMessage (port vc : Nat)
  /-- ADD_MESSAGE (R573). A received ADD message is translated and applied through the memory-side adders, ordered when asked. -/
  | addMessage (port vc : Nat)
  /-- LT_START (R600). WALE_LT_CTRL.start starts a test engine or refuses it. -/
  | ltStart (engine value fn : Nat) (sync : Bool)
  /-- LT_STOP (R602). WALE_LT_CTRL.stop stops a test engine. -/
  | ltStop (engine value fn nbits errors : Nat) (lanes : List Nat)
  /-- LT_INJECT (R603). WALE_LT_CTRL.inject inverts one bit of the generated pattern. -/
  | ltInject (engine value fn : Nat)
  /-- LT_DURATION_END (R602). A test engine that has run for duration Rounds ends. -/
  | ltDurationEnd (engine nbits errors : Nat) (lanes : List Nat)
  /-- GROUP_ENABLE (R611). A write to COLL_GROUP_CFG.enable checks the rank table and enables or disables the group. -/
  | groupEnable (group value fn : Nat)
  /-- COLL_STEP_START (R618). A collective step starts after the previous one completes or at an accepted COLL_STEP entry, sending grants and eager data. -/
  | collStepStart (chan : Nat)
  /-- COLL (R637). A received COLL data message is applied to a started step or stored in the early-arrival buffer. -/
  | coll (port vc : Nat)
  /-- COLL_GRANT (R629). A received grant lets the sender send the rest of its transfer beyond the eager window. -/
  | collGrant (port vc : Nat)
  /-- COLL_READY_SEND (R636). A fed operation sends a message once every 4 KiB unit it covers has been marked ready. -/
  | collReadySend (chan : Nat)
  /-- COLL_STEP_COMPLETE (R632). A step completes; after the last one the operation completes and the next queued operation becomes head. -/
  | collStepComplete (chan : Nat)
  /-- COLL_TIMEOUT (R642). A step's wait reaching COLL_CFG.timeout raises FLT_COLL_TIMEOUT or FLT_COLLECTIVE_ORDER. -/
  | collTimeout (chan : Nat)
  /-- FRAME_PARSE_START (R662). The entropy engine begins a frame when fewer than runahead frames are parsed and unreconstructed. -/
  | frameParseStart (cluster : Nat)
  /-- FRAME_PARSE_DONE (R663). The entropy engine finishes a frame's syntax records, detecting damage. -/
  | frameParseDone (cluster : Nat)
  /-- FRAME_RECONSTRUCT_START (R662). The pixel engines begin a frame once its parse is complete. -/
  | frameReconstructStart (cluster : Nat)
  /-- FRAME_RECONSTRUCT_DONE (R665). A frame is reconstructed or encoded, written as a tensor or temporal unit, and its status record written. -/
  | frameReconstructDone (cluster : Nat)
  /-- FAULT_RAISE (R693). A fault raised locally writes a record and stops its scope, or halts the job and originates a FAULT symbol. -/
  | faultRaise (code kind unit part ctx status addr : Nat)
  /-- FAULT (R700). A received FAULT symbol is relayed and, for the armed job, acted on once, halting the job. -/
  | fault (port origin code round : Nat)
  /-- MIRROR_WINDOW_FINISH (R708). A mirror window finishes when every COMMIT has been accepted. -/
  | mirrorWindowFinish (idx occ : Nat)
  /-- MIRROR_DATA (R709). A received MIRROR DATA message is written into bank e mod 2 of the receive region. -/
  | mirrorData (port : Nat)
  /-- MIRROR_DIRECTORY (R709). A received MIRROR DIRECTORY message is written as the bank's directory. -/
  | mirrorDirectory (port : Nat)
  /-- MIRROR_COMMIT (R709). COMMIT received on every named port marks the bank committed with its Round and entry count. -/
  | mirrorCommit (port : Nat)
  /-- RESTORE_START (R715). FLT_RESTORE.start checks a committed bank and sends its objects back as RESTORE messages. -/
  | restoreStart (value fn : Nat)
  /-- RESTORE_DONE (R715). A restore ends when every RESTORE message has been accepted, setting done. -/
  | restoreDone
  /-- MIRROR_RESTORE (R716). A received RESTORE message is written through restore_ctx's translation or discarded. -/
  | mirrorRestore (port : Nat)
  /-- MAILBOX_POLL (R748). Every 100 µs the Handle examines the mailbox header and serves a new request. -/
  | mailboxPoll
  /-- MCTP_MESSAGE (R721). An MCTP message on a sideband or PCI Express path is served as control, PLDM or a vendor-defined mailbox request. -/
  | mctpMessage (path : Nat) (body : MctpBody)
  /-- GET_INFO (R749). GET_INFO returns firmware versions, svn, floor and configuration sequence. -/
  | getInfo
  /-- LOG_READ (R749). LOG_READ returns up to 62 event log entries. -/
  | logRead
  /-- FW_STAGE (R727). FW_STAGE erases the unloaded slot and writes an image into it. -/
  | fwStage
  /-- FW_STAGE_DONE (R727). A staged image is read back and checked, leaving it valid or the slot erased. -/
  | fwStageDone
  /-- FW_ACTIVATE (R728). FW_ACTIVATE names the staged slot in FW_ACTIVE for the next reset. -/
  | fwActivate
  /-- FW_COMMIT (R729). FW_COMMIT raises FW_MIN_SVN to the loaded image's svn. -/
  | fwCommit
  /-- CFG_SET (R735). CFG_SET writes an integrator record to the configuration store. -/
  | cfgSet
  /-- ENROL_KEY (R735). ENROL_KEY enrols an integrator public key under an unused key_id. -/
  | enrolKey
  /-- CHANNEL_RESTORE (R735). CHANNEL_RESTORE returns an HBM channel from OUT or PENDING to GOOD at the next reset. -/
  | channelRestore
  /-- CFG_IMPORT (R736). CFG_IMPORT verifies a signed configuration image for this device and writes it as a new copy. -/
  | cfgImport
  /-- REVOKE_KEY (R737). REVOKE_KEY over a sideband path removes an integrator key_id. -/
  | revokeKey
  /-- ATTEST (R745). ATTEST signs a report of identity and measurements with the next reserved index. -/
  | attest
  /-- MEASURE (R744). MEASURE extends measurement 8 to 15 with a digest. -/
  | measure
  /-- CONFIG_STORE_WRITE (R734). A configuration store write completes when the other copy is written, read back and checked, and takes effect. -/
  | configStoreWrite
  /-- SENSOR_SAMPLE (R738). Every 20 µs the sensor hub samples every sensor and raises levels that reach a threshold. -/
  | sensorSample (samples : List Int)
  /-- SENSOR_LEVEL_FALL (R739). A sensor level falls after 64 consecutive samples below the lower threshold by the hysteresis. -/
  | sensorLevelFall (sensor : Nat)
  /-- TRIP_HOLD (R739). 1 ms after a thermal trip fault the module enters Hold. -/
  | tripHold
  /-- FLT_SUPPLY (R783). Input voltage outside 35 V to 45 V for 100 µs, or current above 320 A for 1 ms, raises FLT_SUPPLY once per excursion. -/
  | fltSupply (millivolts amps10 : Nat)
  /-- SUPPLY_REARM (R784). 64 consecutive samples within limits re-arm FLT_SUPPLY. -/
  | supplyRearm
  /-- OFF (R783). Input below 34 V or above 48 V for 1 ms takes the module Off. -/
  | off (millivolts : Nat)
  /-- POWER_ON (R769). The 40 V input rising through 36 V starts a cold reset and the power-up sequence. -/
  | powerOn
  /-- COLD_RST_N (R751). COLD_RST_N held low for at least 1 ms starts a cold reset. -/
  | coldRstN
  /-- PERST_ASSERT (R754). Assertion of PERST_N starts the entry of a module reset. -/
  | perstAssert
  /-- HOT_RESET (R751). A PCI Express hot reset starts a module reset. -/
  | hotReset
  /-- PF_FLR (R751). An FLR of the physical function starts a module reset. -/
  | pfFlr
  /-- MODULE_RESET_EXIT (R755). Release of the reset start begins the exit: boot ROM, PUF, configuration, firmware, training and default set. -/
  | moduleResetExit (pufOk : Bool) (hbmFail : List Nat) (hamper : List (Nat × Nat))
  /-- RESET_READY (R769). Power-up or module reset exit completes, PWR_STATUS.ready is set and enabled Wale ports enter DETECT. -/
  | resetReady
  /-- HANDLE_WATCHDOG (R751). After 500 ms without service the Handle watchdog starts a Handle restart. -/
  | handleWatchdog
  /-- HANDLE_RESTART (R752). PWR_CTRL.handle_restart restarts the Handle, counting the restart and renewing the attestation reservation. -/
  | handleRestart (value fn : Nat)
  /-- PARTITION_RESET (R753). PWR_PART_RESET abandons the partition's work, frees contexts, frames, groups and sessions, and zeroes its Trays. -/
  | partitionReset (value fn : Nat)
  /-- IDLE_ENTRY (R760). A compute die with all Stakes free and nothing queued for 1,024 fabric cycles gates its arithmetic clock. -/
  | idleEntry (coil : Nat)
  /-- NAP_ENTRY (R760). A Coil unowned for nap_delay ms with nap_en set enters Coil Nap. -/
  | napEntry (coil : Nat)
  /-- NAP_EXIT_DONE (R762). A Coil leaving Nap completes with zeroed Trays and the default set loaded. -/
  | napExitDone (coil : Nat)
  /-- HOLD (R764). PWR_CTRL.hold requests Hold, refused under the conditions of R764. -/
  | hold (value fn : Nat)
  /-- HOLD_ENTERED (R765). Hold entry completes and every die outside the always-on domain is power-gated. -/
  | holdEntered
  /-- WAKE (R766). PWR_CTRL.wake, or a PERST_N pulse, leaves Hold through a module reset with cause HOLD_EXIT. -/
  | wake (value fn : Nat)
  /-- REFERENCE_RETURN (R66). ROUND_REF returns on the master's input after an absence, and the master starts counting whole Rounds with the reference present toward relock. -/
  | referenceReturn
  /-- VF_ENABLE (R154). The host sets VF Enable or raises NumVFs in the SR-IOV capability, and the new virtual functions come into existence. -/
  | vfEnable (n : Nat)
  /-- HANDLE_RESTART_DONE (R752). A Handle restart completes within 50 ms, and the sensor hub writes the log entries it held during the restart in seq order. -/
  | handleRestartDone
  /-- PARTITION_RESET_DONE (R751). A partition reset completes within 1 ms and PWR_PART_RESET.busy clears. -/
  | partitionResetDone (part : Nat)
  /-- INPUT_RECONNECT (R783). After an overvoltage disconnect the 40 V input returns within 36 V to 44 V, and the module starts a cold reset with cause POWER_ON. -/
  | inputReconnect (millivolts : Nat)
  deriving DecidableEq, Repr

end Sys2Proof
end

