-- ==== Sys2Proof/Decode.lean ====
section
/-!
DEFINITION. Commands from words.  The block takes its commands from outside and decodes no instruction
words: the table of operations gives no row any bits, so no word spells a command.  The records that the
block does read from memory (packets, descriptors, Weave entries, list entries, vector instructions) are
read by the meanings of the commands that act on them.
-/

namespace Sys2Proof

/-- The command that a word of the table's bits spells: none, as the table gives no row bits. -/
def decodeTableWord (nbits w : Nat) : Option Instr :=
  match nbits, w with
  | _, _ => none

end Sys2Proof
end

