-- ==== Sys2Proof/Machine/Sparse.lean ====
section
/-!
DEFINITION. Sparse maps: lists of (key, value) pairs with keys strictly rising.  Registers, memory,
Trays, accumulator tiles and every numbered unit whose state is not at its reset value are held in one.
-/

namespace Sys2Proof.Machine

/-- A sparse map with natural numbers as keys. -/
abbrev SMap (α : Type) := List (Nat × α)

/-- The value at a key. -/
def smGet {α : Type} : SMap α → Nat → Option α
  | [], _ => none
  | (a, v) :: m, k => if a = k then some v else smGet m k

/-- The value at a key, or a default. -/
def smGetD {α : Type} (m : SMap α) (k : Nat) (d : α) : α := (smGet m k).getD d

/-- Set the value at a key, keeping the keys rising. -/
def smSet {α : Type} : SMap α → Nat → α → SMap α
  | [], k, v => [(k, v)]
  | (a, w) :: m, k, v =>
    if k < a then (k, v) :: (a, w) :: m
    else if k = a then (k, v) :: m
    else (a, w) :: smSet m k v

/-- Remove a key. -/
def smErase {α : Type} : SMap α → Nat → SMap α
  | [], _ => []
  | (a, w) :: m, k => if a = k then smErase m k else (a, w) :: smErase m k

/-- Set a key to a value, listing nothing where the value is the one an unlisted key reads as. -/
def smPut {α : Type} [DecidableEq α] (d : α) (m : SMap α) (k : Nat) (v : α) : SMap α :=
  if v = d then smErase m k else smSet m k v

/-- The keys of a map. -/
def smKeys {α : Type} (m : SMap α) : List Nat := m.map Prod.fst

/-- The entries whose key satisfies a test. -/
def smFilter {α : Type} (p : Nat → Bool) (m : SMap α) : SMap α := m.filter (fun e => p e.1)

/-- Change every value, listing nothing where the result is the one an unlisted key reads as. -/
def smMapVals {α : Type} [DecidableEq α] (d : α) (f : α → α) (m : SMap α) : SMap α :=
  (m.map (fun e => (e.1, f e.2))).filter (fun e => decide (e.2 ≠ d))

/-- Keys strictly rising, all above a bound. -/
def smAbove {α : Type} : Nat → SMap α → Bool
  | _, [] => true
  | b, (a, _) :: m => decide (b < a) && smAbove a m

/-- Keys strictly rising. -/
def smWf {α : Type} : SMap α → Bool
  | [] => true
  | (a, _) :: m => smAbove a m

end Sys2Proof.Machine
end

