-- ==== Sys2Proof/Machine/Bits.lean ====
section
/-!
DEFINITION. Bit fields, bytes and byte order (R6, R7), signed readings and CRC-32C (R455).
Records are handled as natural numbers, byte 0 holding bits [7:0].
-/

namespace Sys2Proof.Machine

/-- Bits [lo + w - 1 : lo] of a number (R6). -/
def bits (n lo w : Nat) : Nat := n / 2 ^ lo % 2 ^ w

/-- Bit i of a number. -/
def bit (n i : Nat) : Bool := n / 2 ^ i % 2 == 1

/-- 1 for true. -/
def b2n (b : Bool) : Nat := if b then 1 else 0

/-- A number with bits [lo + w - 1 : lo] replaced. -/
def putBits (n lo w v : Nat) : Nat :=
  n / 2 ^ (lo + w) * 2 ^ (lo + w) + v % 2 ^ w * 2 ^ lo + n % 2 ^ lo

/-- Two's complement reading of a w-bit number. -/
def toSigned (w n : Nat) : Int :=
  if n % 2 ^ w < 2 ^ (w - 1) then (n % 2 ^ w : Int) else (n % 2 ^ w : Int) - (2 ^ w : Nat)

/-- The w-bit two's complement encoding of an integer. -/
def ofSigned (w : Nat) (i : Int) : Nat := (i % ((2 ^ w : Nat) : Int)).toNat

/-- A number from its bytes, the least significant first (R7). -/
def leNat : List Byte → Nat
  | [] => 0
  | b :: bs => b.toNat + 256 * leNat bs

/-- The n low bytes of a number, the least significant first (R7). -/
def natLe : Nat → Nat → List Byte
  | 0, _ => []
  | n + 1, v => BitVec.ofNat 8 (v % 256) :: natLe n (v / 256)

/-- 0, 1, ... , n - 1 shifted by a start. -/
def upFrom : Nat → Nat → List Nat
  | _, 0 => []
  | a, n + 1 => a :: upFrom (a + 1) n

/-- The numbers below n, rising. -/
def below (n : Nat) : List Nat := upFrom 0 n

/-- Split a list into pieces of at most n elements; the fuel bounds the number of pieces. -/
def piecesF {α : Type} (n : Nat) : Nat → List α → List (List α)
  | 0, _ => []
  | f + 1, l => match l with
    | [] => []
    | _ => l.take n :: piecesF n f (l.drop n)

/-- Split a list into pieces of n elements, the last possibly shorter. -/
def pieces {α : Type} (n : Nat) (l : List α) : List (List α) := piecesF n l.length l

/-- The number of ones among the low w bits. -/
def popcount : Nat → Nat → Nat
  | 0, _ => 0
  | w + 1, n => n % 2 + popcount w (n / 2)

/-- The positions of the ones among the low w bits, rising. -/
def onesOf (w n : Nat) : List Nat := (below w).filter (fun i => bit n i)

/-- Saturating addition to a field of w bits. -/
def satAdd (w a b : Nat) : Nat := min (2 ^ w - 1) (a + b)

/-- Ceiling division. -/
def cdiv (a b : Nat) : Nat := (a + b - 1) / b

/-- The greatest k with 2^k at most n; 0 for 0. -/
def ilog2 (n : Nat) : Nat := Nat.log2 n

/-- Reflected CRC step over the 8 bits of one byte, polynomial 0x82F6_3B78. -/
def crcBits : Nat → Nat → Nat
  | 0, c => c
  | k + 1, c => crcBits k (if c % 2 = 1 then Nat.xor (c / 2) 0x82F63B78 else c / 2)

/-- CRC-32C register after some bytes. -/
def crcRun : Nat → List Byte → Nat
  | c, [] => c
  | c, b :: bs => crcRun (crcBits 8 (Nat.xor c b.toNat)) bs

/-- CRC-32C of a byte string, as R455 sets it out. -/
def crc32c (bs : List Byte) : Nat := Nat.xor (crcRun 0xFFFFFFFF bs) 0xFFFFFFFF

/-- Split an index range at multiples of `step`: the (start, length) pieces of a, a + n. -/
def spansF (step : Nat) : Nat → Nat → Nat → List (Nat × Nat)
  | 0, _, _ => []
  | f + 1, a, n =>
    if n = 0 then [] else
      let k := min n (step - a % step)
      (a, k) :: spansF step f (a + k) (n - k)

/-- Split an address range at multiples of `step`. -/
def spans (step a n : Nat) : List (Nat × Nat) := spansF step (n / step + 2) a n

end Sys2Proof.Machine
end

