-- ==== Sys2Proof/Machine/Fec.lean ====
section
/-!
DEFINITION. Reed–Solomon codes: that of an HBM word (R485), and the forward error correction of a Wale port, its codeword
pairs, pair header and lanes (R563, R564).
-/

namespace Sys2Proof.Machine

/-- Product in GF(2^w) with a field polynomial. -/
def gfProd (w poly a b : Nat) : Nat :=
  let p := (below w).foldl (fun p i => if bit b i then Nat.xor p (a * 2 ^ i) else p) 0
  (below (w - 1)).foldl (fun p i => if bit p (2 * w - 2 - i) then Nat.xor p (poly * 2 ^ (w - 2 - i)) else p) p

/-- A Reed–Solomon code: the bits of a symbol, the field polynomial and the number of check symbols; its generator has
the roots α^0 to α^(checks − 1), with α = 2. -/
structure RsCode where
  w : Nat
  poly : Nat
  checks : Nat
  deriving DecidableEq, Repr

/-- RS(544,514) of IEEE 802.3, to which R563 refers: GF(2^10) with x^10 + x^3 + 1 (PRESUMED: the spec does not print the
polynomial; log entry 40). -/
def waleCode : RsCode := ⟨10, 0x409, 30⟩

/-- RS(36,32) over GF(2^8) with x^8 + x^4 + x^3 + x^2 + 1 and roots α^0 to α^3 (R485). -/
def hbmCode : RsCode := ⟨8, 0x11D, 4⟩

/-- Product in the field of a code. -/
def RsCode.mul (k : RsCode) (a b : Nat) : Nat := gfProd k.w k.poly a b

/-- The roots of a code's generator. -/
def RsCode.roots (k : RsCode) : List Nat := (below (k.checks - 1)).foldl (fun l _ => l ++ [k.mul 2 (l.getLastD 1)]) [1]

/-- The coefficients of a polynomial times (x − r), the leading one first. -/
def RsCode.times (k : RsCode) (g : List Nat) (r : Nat) : List Nat :=
  ((g ++ [0]).zip (0 :: g)).map (fun (x : Nat × Nat) => Nat.xor x.1 (k.mul r x.2))

/-- The generator of a code without its leading coefficient 1. -/
def RsCode.generator (k : RsCode) : List Nat := (k.roots.foldl k.times [1]).tail

/-- The check symbols of some message symbols, the first being the highest power. -/
def RsCode.parity (k : RsCode) (msg : List Nat) : List Nat :=
  let g := k.generator
  msg.foldl (fun reg m =>
    let f := Nat.xor m (reg.headD 0)
    ((reg.tail ++ [0]).zip g).map (fun (x : Nat × Nat) => Nat.xor x.1 (k.mul f x.2))) (g.map (fun _ => 0))

/-- A codeword: the message symbols, then the check symbols. -/
def RsCode.codeword (k : RsCode) (msg : List Nat) : List Nat := msg ++ k.parity msg

/-- The value of a word at a root: 0 at each of them for a codeword. -/
def RsCode.syndrome (k : RsCode) (word : List Nat) (r : Nat) : Nat := word.foldl (fun a m => Nat.xor (k.mul a r) m) 0

/-- The four check symbols of a 256-bit HBM word, its lowest byte first (R485). -/
def hbmChecks (word : Nat) : List Nat := hbmCode.parity ((below 32).map (fun i => bits word (8 * i) 8))

/-- Symbols of an HBM word that are corrected (R485). -/
abbrev hbmLimit : Nat := 2

/-- Symbol errors that a codeword corrects (R563). -/
abbrev rsLimit : Nat := 15

/-- CRC-8 with polynomial 0x07 over the 32 bits of a pair count, its most significant bit first, from 0 (R564; the
order and the start are the model's choice, log entry 40). -/
def crc8 (n : Nat) : Nat :=
  (below 32).foldl (fun c i =>
    let top := bit c 7 != bit n (31 - i)
    if top then Nat.xor (c * 2 % 256) 7 else c * 2 % 256) 0

/-- The 10,280 message bits of a pair: its header and its five flits (R564). -/
def pairMessage (count : Nat) (flits : List (List Byte)) : Nat :=
  count % 2 ^ 32 + crc8 (count % 2 ^ 32) * 2 ^ 32 + leNat flits.flatten * 2 ^ 40

/-- The 1,088 symbols of a pair: two codewords, interleaved symbol by symbol (R563). -/
def pairSymbols (m : Nat) : List Nat :=
  let half := fun h => waleCode.codeword ((below 514).map (fun i => bits m (10 * (2 * i + h)) 10))
  ((half 0).zip (half 1)).flatMap (fun x => [x.1, x.2])

/-- The symbols of a pair on each of the 8 lanes (R563). -/
def pairLanes (count : Nat) (flits : List (List Byte)) : List (List Nat) :=
  let y := pairSymbols (pairMessage count flits)
  (below 8).map (fun l => (y.zip (below y.length)).filterMap (fun x => if x.2 % 8 = l then some x.1 else none))

end Sys2Proof.Machine
end

