-- ==== Sys2Proof/Config.lean ====
section
/-!
DEFINITION. What an implementation fixes and what the spec leaves open: constants without a body, so
that no proof can rest on a value of them.
-/

namespace Sys2Proof.Config

/-- A free value: where the spec leaves a value open the step applies this to the counter `free` of
the state and advances the counter. -/
opaque freeValue : Nat → BitVec 64

/-- Stepping of the part, reported in GLB_STEPPING (R2, R809). -/
opaque stepping : BitVec 4

/-- Energy coefficient k of the module, measured at manufacturing test (R190, R192). -/
opaque energyCoef : Nat → BitVec 32

/-- What a counter of cycles shows at a reading: field, element, reading (the model keeps no cycles). -/
opaque cycles : Nat → Nat → Nat → BitVec 64

/-- Byte of the default set image that the Handle writes at every module reset (R350), where the spec does not fix it:
the segments and coefficients of the default tables. -/
opaque defaultSetByte : Nat → BitVec 8

/-- What the module makes of a record of its own at an address that reads with an uncorrectable error: the spec does not
say (R490). -/
opaque poisoned : Nat → BitVec 512

/-- Byte of the body of the fixed copy of catalogue table EXP2 (R339), whose coefficients are not in the spec. -/
opaque exp2TableByte : Nat → BitVec 8

/-- Whether a signature over a body verifies under a public key (R330, R345, R725): XMSS with SHAKE256,
n = 32, height 20, whose algorithm the spec names and does not define. -/
opaque xmssVerify : List (BitVec 8) → List (BitVec 8) → List (BitVec 8) → Bool

/-- The public key under which tables with key_id 0 are signed (R331, R345). -/
opaque tableKey : List (BitVec 8)

/-- The public key of the boot ROM (R719, R725, R736). -/
opaque bootKey : List (BitVec 8)

/-- Byte i of the output of SHAKE256 on a byte string, which the spec names and does not define (R731, R740, R741,
R744). -/
opaque shake256 : List (BitVec 8) → Nat → BitVec 8

/-- The key that the Handle reconstructs from its SRAM PUF (R740). -/
opaque pufKey : BitVec 256

/-- Byte i of the XMSS^MT signature of a report body: the key's SK_SEED, SK_PRF and PUB_SEED, the index, the body (R742,
R745). -/
opaque attestSign : List (BitVec 8) → List (BitVec 8) → List (BitVec 8) → Nat → List (BitVec 8) → Nat → BitVec 8

/-- The digest of the boot ROM (R744). -/
opaque bootRom : BitVec 256

/-- What the codec's specification gives for a frame of a stream (R648, R649, R674): its size, depth and
whether it is monochrome; whether it is a random-access point with its headers (an AV1 key frame with a
sequence header, an HEVC IRAP picture with its parameter sets), a key frame or IRAP picture at all, a CRA
picture, or a RASL picture; its damage (0 none, 1 tile or slice data, 2 a frame header or reference list,
3 a sequence header or parameter set) with the 64 × 64 areas that tile or slice damage conceals; whether
its headers select something outside R648; the frames it predicts from, counted back in decode order; the
frames to output after it, counted back with 0 for itself; its place in display order; and the stream
bytes used up to its end. -/
structure FrameInfo where
  width : Nat
  height : Nat
  depth : Nat
  mono : Bool
  access : Bool
  key : Bool
  cra : Bool
  rasl : Bool
  damage : Nat
  areas : List Nat
  unsupported : Bool
  refs : List Nat
  outputs : List Nat
  order : Nat
  used : Nat
  deriving DecidableEq, Repr, Inhabited

/-- Frame j of the newest of a session's streams, in decode order, by the specification of AV1 (0) or
HEVC (1); none after the last frame.  The model does not define the codecs. -/
opaque codecFrame : Nat → List (List (BitVec 8)) → Nat → Option FrameInfo

/-- A decoded sample that is not concealed: codec, streams, frame of the newest stream, the frames decoded
before it, plane, column, row. -/
opaque codecSample : Nat → List (List (BitVec 8)) → Nat → List Nat → Nat → Nat → Nat → BitVec 16

/-- A sample with AV1 film grain: streams, frame of the newest stream, plane, column, row, the sample
without grain and the luma sample there (R669). -/
opaque codecGrain : List (List (BitVec 8)) → Nat → Nat → Nat → Nat → Nat → Nat → BitVec 16

/-- The per-area syntax records of a frame: codec, streams, frame of the newest stream (R662: their form is not in the
spec). -/
opaque syntaxRecords : Nat → List (List (BitVec 8)) → Nat → List (BitVec 8)

/-- Where a frame's records lie in the syntax buffer, given the bytes that are in use from each place and the
frame's own length (R662 does not say). -/
opaque syntaxPlace : List (Nat × Nat) → Nat → Nat

/-- What a decoder reads from and keeps in its work area for a frame: offsets with lengths, offsets with bytes; codec,
streams, frame of the newest stream (R653: the layout of the work area is not in the spec). -/
opaque decodeReads : Nat → List (List (BitVec 8)) → Nat → List (Nat × Nat)
opaque decodeKeeps : Nat → List (List (BitVec 8)) → Nat → List (Nat × List (BitVec 8))

/-- What an encoder keeps in its work area for a frame, given the frames coded before it and its own parameters and
samples (R653). -/
opaque encodeKeeps : List (List Nat) → List Nat → List (Nat × List (BitVec 8))

/-- Byte offset in the work area of a sample of a coded frame: the frames coded up to it, plane, column, row (R653). -/
opaque refPlace : List (List Nat) → Nat → Nat → Nat → Nat

/-- Reconstructed sample of a coded frame, the newest of a list: plane, column, row (R684: the coding decisions are not
in the spec). -/
opaque refSample : List (List Nat) → Nat → Nat → Nat → BitVec 16

/-- The pixel engine that takes a row of areas of a frame (R685, R686 do not say). -/
opaque rowEngine : Nat → Nat

/-- A motion vector for a prediction block: the block's luma position and size, the reference counted back from 0, and
the displacement in eighths of a luma sample. -/
structure Motion where
  x : Nat
  y : Nat
  w : Nat
  h : Nat
  ref : Nat
  dx : Int
  dy : Int
  deriving DecidableEq, Repr, Inhabited

/-- The motion vectors that an encoder's search would try for a frame, given the frames that the session coded before
it, before R687 bounds them. -/
opaque motions : List (List Nat) → List Nat → List Motion

/-- The temporal unit that the encoder makes of a frame, given the frames that the session coded before it, each as its
parameters and samples, and the motion vectors that it considers (R682, R684: the coding decisions are not in the
spec). -/
opaque encodeUnit : List (List Nat) → List Nat → List Motion → List (BitVec 8)

end Sys2Proof.Config
end

