-- ==== Sys2Proof/Machine/RegMap.lean ====
section
/-!
DEFINITION. The register map of BAR0 (R804, R805): every register with its offset, width and the
strides of its array, and every field with its place, access, reset value and reset class, as the
register tables of the chapters give them.  Fields a table calls reserved hold nothing and are not
listed: they read zero and discard writes.  A field whose reset the tables give as `stored`,
`per part`, `default set` or `set under` a rule has 0 here and its value from `fieldReset`.
-/

namespace Sys2Proof.Machine

/-- Access of a register field (R13). -/
inductive Access where
  | ro | rw | rw1c | wo
  deriving DecidableEq, Repr

/-- Reset class of a register field (R16): partition reset, module reset, cold reset, stored. -/
inductive RClass where
  | p | m | c | s
  deriving DecidableEq, Repr

/-- A register of BAR0: its first offset, its width in bytes, and an outer and an inner array
dimension (count and stride).  A register that is no array has counts 1. -/
structure Reg where
  id : Nat
  off : Nat
  bytes : Nat
  n1 : Nat
  s1 : Nat
  n2 : Nat
  s2 : Nat
  deriving DecidableEq, Repr

/-- A field of a register: a number of its own, the register, its lowest bit and width. -/
structure Fld where
  id : Nat
  reg : Nat
  lo : Nat
  width : Nat
  acc : Access
  cls : RClass
  rst : Nat
  deriving DecidableEq, Repr

namespace R

/-- ROUND_CFG (R102). -/
def roundCfgReg : Reg := ⟨0, 0x500000, 4, 1, 0x4000000, 1, 0x4000000⟩
/-- ROUND_CFG bits 0+:1. -/
def roundCfgRole : Fld := ⟨0, 0, 0, 1, .rw, .c, 0⟩
/-- ROUND_CFG bits 4+:4. -/
def roundCfgTimingPort : Fld := ⟨1, 0, 4, 4, .rw, .c, 7⟩
/-- ROUND_CFG bits 8+:4. -/
def roundCfgBackupPort : Fld := ⟨2, 0, 8, 4, .rw, .c, 15⟩
/-- ROUND_CFG bits 12+:1. -/
def roundCfgBackupEn : Fld := ⟨3, 0, 12, 1, .rw, .c, 0⟩
/-- ROUND_CFG bits 16+:16. -/
def roundCfgLenTicks : Fld := ⟨4, 0, 16, 16, .rw, .c, 250⟩
/-- ROUND_STATUS (R103). -/
def roundStatusReg : Reg := ⟨1, 0x500008, 4, 1, 0x4000000, 1, 0x4000000⟩
/-- ROUND_STATUS bits 0+:1. -/
def roundStatusLocked : Fld := ⟨5, 1, 0, 1, .ro, .c, 0⟩
/-- ROUND_STATUS bits 1+:1. -/
def roundStatusOnBackup : Fld := ⟨6, 1, 1, 1, .ro, .c, 0⟩
/-- ROUND_STATUS bits 8+:4. -/
def roundStatusDepth : Fld := ⟨7, 1, 8, 4, .ro, .c, 0⟩
/-- ROUND_STATUS bits 16+:1. -/
def roundStatusCfgRefused : Fld := ⟨8, 1, 16, 1, .rw1c, .c, 0⟩
/-- ROUND_STATUS bits 17+:1. -/
def roundStatusLockLost : Fld := ⟨9, 1, 17, 1, .rw1c, .c, 0⟩
/-- ROUND_STATUS bits 18+:1. -/
def roundStatusDepthExceeded : Fld := ⟨10, 1, 18, 1, .rw1c, .c, 0⟩
/-- ROUND_STATUS bits 19+:1. -/
def roundStatusNoLock : Fld := ⟨11, 1, 19, 1, .rw1c, .c, 0⟩
/-- ROUND_COUNT (R104). -/
def roundCountReg : Reg := ⟨2, 0x500010, 8, 1, 0x4000000, 1, 0x4000000⟩
/-- ROUND_COUNT bits 0+:64. -/
def roundCountCount : Fld := ⟨12, 2, 0, 64, .ro, .c, 0⟩
/-- ROUND_COUNT_SET (R104). -/
def roundCountSetReg : Reg := ⟨3, 0x500018, 8, 1, 0x4000000, 1, 0x4000000⟩
/-- ROUND_COUNT_SET bits 0+:64. -/
def roundCountSetCount : Fld := ⟨13, 3, 0, 64, .wo, .c, 0⟩
/-- ROUND_OFFSET (R104). -/
def roundOffsetReg : Reg := ⟨4, 0x500020, 4, 1, 0x4000000, 1, 0x4000000⟩
/-- ROUND_OFFSET bits 0+:32. -/
def roundOffsetOffset : Fld := ⟨14, 4, 0, 32, .ro, .c, 0⟩
/-- ROUND_DELAY (R104). -/
def roundDelayReg : Reg := ⟨5, 0x500028, 4, 1, 0x4000000, 1, 0x4000000⟩
/-- ROUND_DELAY bits 0+:32. -/
def roundDelayDelay : Fld := ⟨15, 5, 0, 32, .ro, .c, 0⟩
/-- ROUND_STRETCH_CFG (R104). -/
def roundStretchCfgReg : Reg := ⟨6, 0x500030, 4, 1, 0x4000000, 1, 0x4000000⟩
/-- ROUND_STRETCH_CFG bits 0+:1. -/
def roundStretchCfgEnable : Fld := ⟨16, 6, 0, 1, .rw, .m, 1⟩
/-- ROUND_STRETCH_CFG bits 8+:8. -/
def roundStretchCfgThresh : Fld := ⟨17, 6, 8, 8, .rw, .m, 95⟩
/-- ROUND_STRETCH_CFG bits 16+:8. -/
def roundStretchCfgStepTicks : Fld := ⟨18, 6, 16, 8, .rw, .m, 25⟩
/-- ROUND_STRETCH_CFG bits 24+:8. -/
def roundStretchCfgMaxTicks : Fld := ⟨19, 6, 24, 8, .rw, .m, 250⟩
/-- ROUND_STRETCH_REQ (R104). -/
def roundStretchReqReg : Reg := ⟨7, 0x500038, 4, 1, 0x4000000, 1, 0x4000000⟩
/-- ROUND_STRETCH_REQ bits 0+:16. -/
def roundStretchReqAmount : Fld := ⟨20, 7, 0, 16, .rw, .m, 0⟩
/-- ROUND_STRETCH_STATUS (R104). -/
def roundStretchStatusReg : Reg := ⟨8, 0x500040, 4, 1, 0x4000000, 1, 0x4000000⟩
/-- ROUND_STRETCH_STATUS bits 0+:16. -/
def roundStretchStatusApplied : Fld := ⟨21, 8, 0, 16, .ro, .c, 0⟩
/-- ROUND_STRETCH_STATUS bits 16+:16. -/
def roundStretchStatusRequested : Fld := ⟨22, 8, 16, 16, .ro, .m, 0⟩
/-- WEAVE_IMAGE_BASE (R105). -/
def weaveImageBaseReg : Reg := ⟨9, 0x500100, 8, 1, 0x4000000, 1, 0x4000000⟩
/-- WEAVE_IMAGE_BASE bits 0+:48. -/
def weaveImageBaseBase : Fld := ⟨23, 9, 0, 48, .rw, .m, 0⟩
/-- WEAVE_CTRL (R105). -/
def weaveCtrlReg : Reg := ⟨10, 0x500108, 8, 1, 0x4000000, 1, 0x4000000⟩
/-- WEAVE_CTRL bits 0+:17. -/
def weaveCtrlEntries : Fld := ⟨24, 10, 0, 17, .rw, .m, 0⟩
/-- WEAVE_CTRL bits 17+:1. -/
def weaveCtrlLoad : Fld := ⟨25, 10, 17, 1, .wo, .m, 0⟩
/-- WEAVE_CTRL bits 18+:1. -/
def weaveCtrlArm : Fld := ⟨26, 10, 18, 1, .wo, .m, 0⟩
/-- WEAVE_CTRL bits 19+:1. -/
def weaveCtrlStop : Fld := ⟨27, 10, 19, 1, .wo, .m, 0⟩
/-- WEAVE_CTRL bits 20+:1. -/
def weaveCtrlStopNow : Fld := ⟨28, 10, 20, 1, .wo, .m, 0⟩
/-- WEAVE_CTRL bits 32+:25. -/
def weaveCtrlCycleLen : Fld := ⟨29, 10, 32, 25, .rw, .m, 1⟩
/-- WEAVE_START (R105). -/
def weaveStartReg : Reg := ⟨11, 0x500110, 8, 1, 0x4000000, 1, 0x4000000⟩
/-- WEAVE_START bits 0+:64. -/
def weaveStartStart : Fld := ⟨30, 11, 0, 64, .rw, .m, 0⟩
/-- WEAVE_CYCLES (R105). -/
def weaveCyclesReg : Reg := ⟨12, 0x500118, 4, 1, 0x4000000, 1, 0x4000000⟩
/-- WEAVE_CYCLES bits 0+:32. -/
def weaveCyclesCycles : Fld := ⟨31, 12, 0, 32, .rw, .m, 0⟩
/-- WEAVE_STATUS (R105). -/
def weaveStatusReg : Reg := ⟨13, 0x500120, 8, 1, 0x4000000, 1, 0x4000000⟩
/-- WEAVE_STATUS bits 0+:2. -/
def weaveStatusState : Fld := ⟨32, 13, 0, 2, .ro, .m, 0⟩
/-- WEAVE_STATUS bits 2+:1. -/
def weaveStatusDone : Fld := ⟨33, 13, 2, 1, .rw1c, .m, 0⟩
/-- WEAVE_STATUS bits 3+:1. -/
def weaveStatusRefused : Fld := ⟨34, 13, 3, 1, .rw1c, .m, 0⟩
/-- WEAVE_STATUS bits 16+:16. -/
def weaveStatusError : Fld := ⟨35, 13, 16, 16, .ro, .m, 0⟩
/-- WEAVE_STATUS bits 32+:16. -/
def weaveStatusErrorEntry : Fld := ⟨36, 13, 32, 16, .ro, .m, 0⟩
/-- WEAVE_OCCURRENCE (R105). -/
def weaveOccurrenceReg : Reg := ⟨14, 0x500128, 8, 1, 0x4000000, 1, 0x4000000⟩
/-- WEAVE_OCCURRENCE bits 0+:64. -/
def weaveOccurrenceK : Fld := ⟨37, 14, 0, 64, .ro, .m, 0⟩
/-- WEAVE_SLIP_MAX (R105). -/
def weaveSlipMaxReg : Reg := ⟨15, 0x500130, 8, 1, 0x4000000, 1, 0x4000000⟩
/-- WEAVE_SLIP_MAX bits 0+:16. -/
def weaveSlipMaxEntry : Fld := ⟨38, 15, 0, 16, .ro, .m, 0⟩
/-- WEAVE_SLIP_MAX bits 32+:32. -/
def weaveSlipMaxSlip : Fld := ⟨39, 15, 32, 32, .ro, .m, 0⟩
/-- WEAVE_SLIP_TOTAL (R105). -/
def weaveSlipTotalReg : Reg := ⟨16, 0x500138, 8, 1, 0x4000000, 1, 0x4000000⟩
/-- WEAVE_SLIP_TOTAL bits 0+:64. -/
def weaveSlipTotalTotal : Fld := ⟨40, 16, 0, 64, .ro, .m, 0⟩
/-- CMD_POLL_CFG (R160). -/
def cmdPollCfgReg : Reg := ⟨17, 0x100000, 4, 1, 0x4000000, 1, 0x4000000⟩
/-- CMD_POLL_CFG bits 0+:13. -/
def cmdPollCfgBudget : Fld := ⟨41, 17, 0, 13, .rw, .m, 1000⟩
/-- CMD_POLL_DEFERRED (R160). -/
def cmdPollDeferredReg : Reg := ⟨18, 0x100008, 8, 1, 0x4000000, 1, 0x4000000⟩
/-- CMD_POLL_DEFERRED bits 0+:64. -/
def cmdPollDeferredCount : Fld := ⟨42, 18, 0, 64, .ro, .m, 0⟩
/-- CMD_PACKETS (R160). -/
def cmdPacketsReg : Reg := ⟨19, 0x100010, 8, 1, 0x4000000, 1, 0x4000000⟩
/-- CMD_PACKETS bits 0+:64. -/
def cmdPacketsCount : Fld := ⟨43, 19, 0, 64, .ro, .m, 0⟩
/-- CMD_FETCH_ERRORS (R160). -/
def cmdFetchErrorsReg : Reg := ⟨20, 0x100018, 4, 1, 0x4000000, 1, 0x4000000⟩
/-- CMD_FETCH_ERRORS bits 0+:32. -/
def cmdFetchErrorsCount : Fld := ⟨44, 20, 0, 32, .ro, .m, 0⟩
/-- CTX_CTRL (R161). -/
def ctxCtrlReg : Reg := ⟨21, 0x200000, 4, 4096, 0x100, 1, 0x4000000⟩
/-- CTX_CTRL bits 0+:3. -/
def ctxCtrlCmd : Fld := ⟨45, 21, 0, 3, .wo, .p, 0⟩
/-- CTX_STATUS (R161). -/
def ctxStatusReg : Reg := ⟨22, 0x200008, 8, 4096, 0x100, 1, 0x4000000⟩
/-- CTX_STATUS bits 0+:3. -/
def ctxStatusState : Fld := ⟨46, 22, 0, 3, .ro, .p, 0⟩
/-- CTX_STATUS bits 3+:1. -/
def ctxStatusCqFull : Fld := ⟨47, 22, 3, 1, .ro, .p, 0⟩
/-- CTX_STATUS bits 4+:1. -/
def ctxStatusPollDeferred : Fld := ⟨48, 22, 4, 1, .rw1c, .p, 0⟩
/-- CTX_STATUS bits 5+:1. -/
def ctxStatusCmdRefused : Fld := ⟨49, 22, 5, 1, .rw1c, .p, 0⟩
/-- CTX_STATUS bits 6+:1. -/
def ctxStatusWaitBlocked : Fld := ⟨50, 22, 6, 1, .ro, .p, 0⟩
/-- CTX_STATUS bits 16+:7. -/
def ctxStatusDispatched : Fld := ⟨51, 22, 16, 7, .ro, .p, 0⟩
/-- CTX_CFG (R161). -/
def ctxCfgReg : Reg := ⟨23, 0x200010, 8, 4096, 0x100, 1, 0x4000000⟩
/-- CTX_CFG bits 0+:6. -/
def ctxCfgPartition : Fld := ⟨52, 23, 0, 6, .rw, .p, 0⟩
/-- CTX_CFG bits 6+:6. -/
def ctxCfgFunction : Fld := ⟨53, 23, 6, 6, .rw, .p, 0⟩
/-- CTX_CFG bits 12+:1. -/
def ctxCfgFront : Fld := ⟨54, 23, 12, 1, .rw, .p, 0⟩
/-- CTX_CFG bits 13+:1. -/
def ctxCfgRealtime : Fld := ⟨55, 23, 13, 1, .rw, .p, 0⟩
/-- CTX_CFG bits 16+:16. -/
def ctxCfgPollInterval : Fld := ⟨56, 23, 16, 16, .rw, .p, 8⟩
/-- CTX_CFG bits 32+:11. -/
def ctxCfgMsixVector : Fld := ⟨57, 23, 32, 11, .rw, .p, 0⟩
/-- CTX_SEED (R161). -/
def ctxSeedReg : Reg := ⟨24, 0x200018, 8, 4096, 0x100, 1, 0x4000000⟩
/-- CTX_SEED bits 0+:64. -/
def ctxSeedSeed : Fld := ⟨58, 24, 0, 64, .rw, .p, 0⟩
/-- CTX_PT_ROOT (R161). -/
def ctxPtRootReg : Reg := ⟨25, 0x200020, 8, 4096, 0x100, 1, 0x4000000⟩
/-- CTX_PT_ROOT bits 0+:1. -/
def ctxPtRootValid : Fld := ⟨59, 25, 0, 1, .rw, .p, 0⟩
/-- CTX_PT_ROOT bits 12+:36. -/
def ctxPtRootRoot : Fld := ⟨60, 25, 12, 36, .rw, .p, 0⟩
/-- CTX_EVENT_BASE (R161). -/
def ctxEventBaseReg : Reg := ⟨26, 0x200028, 8, 4096, 0x100, 1, 0x4000000⟩
/-- CTX_EVENT_BASE bits 0+:48. -/
def ctxEventBaseBase : Fld := ⟨61, 26, 0, 48, .rw, .p, 0⟩
/-- CTX_EVENT_CFG (R161). -/
def ctxEventCfgReg : Reg := ⟨27, 0x200030, 4, 4096, 0x100, 1, 0x4000000⟩
/-- CTX_EVENT_CFG bits 0+:16. -/
def ctxEventCfgCount : Fld := ⟨62, 27, 0, 16, .rw, .p, 0⟩
/-- CTX_CQ_BASE (R161). -/
def ctxCqBaseReg : Reg := ⟨28, 0x200038, 8, 4096, 0x100, 1, 0x4000000⟩
/-- CTX_CQ_BASE bits 0+:48. -/
def ctxCqBaseBase : Fld := ⟨63, 28, 0, 48, .rw, .p, 0⟩
/-- CTX_CQ_CFG (R161). -/
def ctxCqCfgReg : Reg := ⟨29, 0x200040, 4, 4096, 0x100, 1, 0x4000000⟩
/-- CTX_CQ_CFG bits 0+:5. -/
def ctxCqCfgLog2Size : Fld := ⟨64, 29, 0, 5, .rw, .p, 7⟩
/-- CTX_CQ_CFG bits 8+:8. -/
def ctxCqCfgModerate : Fld := ⟨65, 29, 8, 8, .rw, .p, 0⟩
/-- CTX_CQ_CFG bits 16+:1. -/
def ctxCqCfgEnable : Fld := ⟨66, 29, 16, 1, .rw, .p, 0⟩
/-- CTX_CQ_IDX_ADDR (R161). -/
def ctxCqIdxAddrReg : Reg := ⟨30, 0x200048, 8, 4096, 0x100, 1, 0x4000000⟩
/-- CTX_CQ_IDX_ADDR bits 0+:48. -/
def ctxCqIdxAddrAddr : Fld := ⟨67, 30, 0, 48, .rw, .p, 0⟩
/-- CTX_LAST_ERROR (R161). -/
def ctxLastErrorReg : Reg := ⟨31, 0x200050, 8, 4096, 0x100, 1, 0x4000000⟩
/-- CTX_LAST_ERROR bits 0+:16. -/
def ctxLastErrorStatus : Fld := ⟨68, 31, 0, 16, .ro, .p, 0⟩
/-- CTX_LAST_ERROR bits 16+:2. -/
def ctxLastErrorRing : Fld := ⟨69, 31, 16, 2, .ro, .p, 0⟩
/-- CTX_LAST_ERROR bits 18+:1. -/
def ctxLastErrorCq : Fld := ⟨70, 31, 18, 1, .ro, .p, 0⟩
/-- CTX_LAST_ERROR bits 32+:32. -/
def ctxLastErrorSlot : Fld := ⟨71, 31, 32, 32, .ro, .p, 0⟩
/-- CTX_RINGn_BASE (R161). -/
def ctxRingBaseReg : Reg := ⟨32, 0x200060, 8, 4096, 0x100, 4, 0x20⟩
/-- CTX_RINGn_BASE bits 0+:48. -/
def ctxRingBaseBase : Fld := ⟨72, 32, 0, 48, .rw, .p, 0⟩
/-- CTX_RINGn_CFG (R161). -/
def ctxRingCfgReg : Reg := ⟨33, 0x200068, 4, 4096, 0x100, 4, 0x20⟩
/-- CTX_RINGn_CFG bits 0+:5. -/
def ctxRingCfgLog2Slots : Fld := ⟨73, 33, 0, 5, .rw, .p, 6⟩
/-- CTX_RINGn_CFG bits 5+:1. -/
def ctxRingCfgEnable : Fld := ⟨74, 33, 5, 1, .rw, .p, 0⟩
/-- CTX_RINGn_IDX_ADDR (R161). -/
def ctxRingIdxAddrReg : Reg := ⟨34, 0x200070, 8, 4096, 0x100, 4, 0x20⟩
/-- CTX_RINGn_IDX_ADDR bits 0+:48. -/
def ctxRingIdxAddrAddr : Fld := ⟨75, 34, 0, 48, .rw, .p, 0⟩
/-- CTX_RINGn_CI (R161). -/
def ctxRingCiReg : Reg := ⟨35, 0x200078, 4, 4096, 0x100, 4, 0x20⟩
/-- CTX_RINGn_CI bits 0+:32. -/
def ctxRingCiCi : Fld := ⟨76, 35, 0, 32, .ro, .p, 0⟩
/-- PART_ENERGY_INPUT (R192). -/
def partEnergyInputReg : Reg := ⟨36, 0x400000, 8, 1, 0x4000000, 1, 0x4000000⟩
/-- PART_ENERGY_INPUT bits 0+:64. -/
def partEnergyInputEnergy : Fld := ⟨77, 36, 0, 64, .ro, .m, 0⟩
/-- PART_ENERGY_IDLE (R192). -/
def partEnergyIdleReg : Reg := ⟨37, 0x400008, 8, 1, 0x4000000, 1, 0x4000000⟩
/-- PART_ENERGY_IDLE bits 0+:64. -/
def partEnergyIdleEnergy : Fld := ⟨78, 37, 0, 64, .ro, .m, 0⟩
/-- PART_ENERGY_COEFk (R192). -/
def partEnergyCoefReg : Reg := ⟨38, 0x400040, 8, 1, 0x4000000, 8, 0x8⟩
/-- PART_ENERGY_COEFk bits 0+:32. -/
def partEnergyCoefCoef : Fld := ⟨79, 38, 0, 32, .ro, .s, 0⟩
/-- PART_CFG (R193). -/
def partCfgReg : Reg := ⟨39, 0x401000, 8, 64, 0x100, 1, 0x4000000⟩
/-- PART_CFG bits 0+:1. -/
def partCfgEnable : Fld := ⟨80, 39, 0, 1, .rw, .m, 0⟩
/-- PART_CFG bits 1+:1. -/
def partCfgRealtime : Fld := ⟨81, 39, 1, 1, .rw, .m, 0⟩
/-- PART_CFG bits 8+:6. -/
def partCfgFunction : Fld := ⟨82, 39, 8, 6, .rw, .m, 0⟩
/-- PART_CFG bits 16+:16. -/
def partCfgMaxRunBound : Fld := ⟨83, 39, 16, 16, .rw, .m, 2000⟩
/-- PART_CFG bits 32+:32. -/
def partCfgUrgency : Fld := ⟨84, 39, 32, 32, .rw, .m, 10000⟩
/-- PART_SKEINS (R193). -/
def partSkeinsReg : Reg := ⟨40, 0x401008, 8, 64, 0x100, 1, 0x4000000⟩
/-- PART_SKEINS bits 0+:64. -/
def partSkeinsSkeins : Fld := ⟨85, 40, 0, 64, .rw, .m, 0⟩
/-- PART_RES (R193). -/
def partResReg : Reg := ⟨41, 0x401010, 8, 64, 0x100, 1, 0x4000000⟩
/-- PART_RES bits 0+:32. -/
def partResCollChannels : Fld := ⟨86, 41, 0, 32, .rw, .m, 0⟩
/-- PART_RES bits 32+:16. -/
def partResPlaitBorderSlots : Fld := ⟨87, 41, 32, 16, .rw, .m, 0⟩
/-- PART_RES bits 48+:8. -/
def partResBwShare : Fld := ⟨88, 41, 48, 8, .rw, .m, 1⟩
/-- PART_RES bits 56+:1. -/
def partResMirror : Fld := ⟨89, 41, 56, 1, .rw, .m, 0⟩
/-- PART_VID (R193). -/
def partVidReg : Reg := ⟨42, 0x401018, 4, 64, 0x100, 1, 0x4000000⟩
/-- PART_VID bits 0+:9. -/
def partVidSessionFirst : Fld := ⟨90, 42, 0, 9, .rw, .m, 0⟩
/-- PART_VID bits 16+:10. -/
def partVidSessionCount : Fld := ⟨91, 42, 16, 10, .rw, .m, 0⟩
/-- PART_STATUS (R193). -/
def partStatusReg : Reg := ⟨43, 0x401020, 8, 64, 0x100, 1, 0x4000000⟩
/-- PART_STATUS bits 0+:1. -/
def partStatusCfgRefused : Fld := ⟨92, 43, 0, 1, .rw1c, .p, 0⟩
/-- PART_STATUS bits 16+:16. -/
def partStatusUrgent : Fld := ⟨93, 43, 16, 16, .ro, .p, 0⟩
/-- PART_DISPATCHES (R193). -/
def partDispatchesReg : Reg := ⟨44, 0x401028, 8, 64, 0x100, 1, 0x4000000⟩
/-- PART_DISPATCHES bits 0+:64. -/
def partDispatchesCount : Fld := ⟨94, 44, 0, 64, .ro, .p, 0⟩
/-- PART_OVERRUNS (R193). -/
def partOverrunsReg : Reg := ⟨45, 0x401030, 4, 64, 0x100, 1, 0x4000000⟩
/-- PART_OVERRUNS bits 0+:32. -/
def partOverrunsCount : Fld := ⟨95, 45, 0, 32, .ro, .p, 0⟩
/-- PART_REG_HBM (R193). -/
def partRegHbmReg : Reg := ⟨46, 0x401040, 8, 64, 0x100, 1, 0x4000000⟩
/-- PART_REG_HBM bits 0+:1. -/
def partRegHbmEnable : Fld := ⟨96, 46, 0, 1, .rw, .m, 0⟩
/-- PART_REG_HBM bits 8+:24. -/
def partRegHbmRate : Fld := ⟨97, 46, 8, 24, .rw, .m, 0⟩
/-- PART_REG_HBM bits 32+:24. -/
def partRegHbmBurst : Fld := ⟨98, 46, 32, 24, .rw, .m, 0⟩
/-- PART_REG_HAMPER (R193). -/
def partRegHamperReg : Reg := ⟨47, 0x401048, 8, 64, 0x100, 1, 0x4000000⟩
/-- PART_REG_HAMPER bits 0+:1. -/
def partRegHamperEnable : Fld := ⟨99, 47, 0, 1, .rw, .m, 0⟩
/-- PART_REG_HAMPER bits 8+:24. -/
def partRegHamperRate : Fld := ⟨100, 47, 8, 24, .rw, .m, 0⟩
/-- PART_REG_HAMPER bits 32+:24. -/
def partRegHamperBurst : Fld := ⟨101, 47, 32, 24, .rw, .m, 0⟩
/-- PART_REG_WALE (R193). -/
def partRegWaleReg : Reg := ⟨48, 0x401050, 8, 64, 0x100, 1, 0x4000000⟩
/-- PART_REG_WALE bits 0+:1. -/
def partRegWaleEnable : Fld := ⟨102, 48, 0, 1, .rw, .m, 0⟩
/-- PART_REG_WALE bits 8+:24. -/
def partRegWaleRate : Fld := ⟨103, 48, 8, 24, .rw, .m, 0⟩
/-- PART_REG_WALE bits 32+:24. -/
def partRegWaleBurst : Fld := ⟨104, 48, 32, 24, .rw, .m, 0⟩
/-- PART_REG_PCIE (R193). -/
def partRegPcieReg : Reg := ⟨49, 0x401058, 8, 64, 0x100, 1, 0x4000000⟩
/-- PART_REG_PCIE bits 0+:1. -/
def partRegPcieEnable : Fld := ⟨105, 49, 0, 1, .rw, .m, 0⟩
/-- PART_REG_PCIE bits 8+:24. -/
def partRegPcieRate : Fld := ⟨106, 49, 8, 24, .rw, .m, 0⟩
/-- PART_REG_PCIE bits 32+:24. -/
def partRegPcieBurst : Fld := ⟨107, 49, 32, 24, .rw, .m, 0⟩
/-- PART_HELDj (R193). -/
def partHeldReg : Reg := ⟨50, 0x401060, 8, 64, 0x100, 4, 0x8⟩
/-- PART_HELDj bits 0+:64. -/
def partHeldCycles : Fld := ⟨108, 50, 0, 64, .ro, .p, 0⟩
/-- PART_CTX_SCHED (R194). -/
def partCtxSchedReg : Reg := ⟨51, 0x480000, 8, 4096, 0x80, 1, 0x4000000⟩
/-- PART_CTX_SCHED bits 0+:8. -/
def partCtxSchedShare : Fld := ⟨109, 51, 0, 8, .rw, .p, 1⟩
/-- PART_CTX_STATE (R194). -/
def partCtxStateReg : Reg := ⟨52, 0x480008, 8, 4096, 0x80, 1, 0x4000000⟩
/-- PART_CTX_STATE bits 0+:1. -/
def partCtxStateUrgent : Fld := ⟨110, 52, 0, 1, .ro, .p, 0⟩
/-- PART_CTX_STATE bits 1+:1. -/
def partCtxStateWaiting : Fld := ⟨111, 52, 1, 1, .ro, .p, 0⟩
/-- PART_CTX_STATE bits 2+:1. -/
def partCtxStateOverBound : Fld := ⟨112, 52, 2, 1, .rw1c, .p, 0⟩
/-- PART_CTX_STATE bits 32+:32. -/
def partCtxStateAge : Fld := ⟨113, 52, 32, 32, .ro, .p, 0⟩
/-- PART_CTX_VTIME (R194). -/
def partCtxVtimeReg : Reg := ⟨53, 0x480010, 8, 4096, 0x80, 1, 0x4000000⟩
/-- PART_CTX_VTIME bits 0+:64. -/
def partCtxVtimeVtime : Fld := ⟨114, 53, 0, 64, .ro, .p, 0⟩
/-- PART_ACCT_STAKE (R194). -/
def partAcctStakeReg : Reg := ⟨54, 0x480018, 8, 4096, 0x80, 1, 0x4000000⟩
/-- PART_ACCT_STAKE bits 0+:64. -/
def partAcctStakeCount : Fld := ⟨115, 54, 0, 64, .ro, .p, 0⟩
/-- PART_ACCT_HBM (R194). -/
def partAcctHbmReg : Reg := ⟨55, 0x480020, 8, 4096, 0x80, 1, 0x4000000⟩
/-- PART_ACCT_HBM bits 0+:64. -/
def partAcctHbmCount : Fld := ⟨116, 55, 0, 64, .ro, .p, 0⟩
/-- PART_ACCT_HAMPER (R194). -/
def partAcctHamperReg : Reg := ⟨56, 0x480028, 8, 4096, 0x80, 1, 0x4000000⟩
/-- PART_ACCT_HAMPER bits 0+:64. -/
def partAcctHamperCount : Fld := ⟨117, 56, 0, 64, .ro, .p, 0⟩
/-- PART_ACCT_CREEL (R194). -/
def partAcctCreelReg : Reg := ⟨57, 0x480030, 8, 4096, 0x80, 1, 0x4000000⟩
/-- PART_ACCT_CREEL bits 0+:64. -/
def partAcctCreelCount : Fld := ⟨118, 57, 0, 64, .ro, .p, 0⟩
/-- PART_ACCT_PCIE (R194). -/
def partAcctPcieReg : Reg := ⟨58, 0x480038, 8, 4096, 0x80, 1, 0x4000000⟩
/-- PART_ACCT_PCIE bits 0+:64. -/
def partAcctPcieCount : Fld := ⟨119, 58, 0, 64, .ro, .p, 0⟩
/-- PART_ACCT_WALE_TX (R194). -/
def partAcctWaleTxReg : Reg := ⟨59, 0x480040, 8, 4096, 0x80, 1, 0x4000000⟩
/-- PART_ACCT_WALE_TX bits 0+:64. -/
def partAcctWaleTxCount : Fld := ⟨120, 59, 0, 64, .ro, .p, 0⟩
/-- PART_ACCT_WALE_RX (R194). -/
def partAcctWaleRxReg : Reg := ⟨60, 0x480048, 8, 4096, 0x80, 1, 0x4000000⟩
/-- PART_ACCT_WALE_RX bits 0+:64. -/
def partAcctWaleRxCount : Fld := ⟨121, 60, 0, 64, .ro, .p, 0⟩
/-- PART_ACCT_ENERGY (R194). -/
def partAcctEnergyReg : Reg := ⟨61, 0x480050, 8, 4096, 0x80, 1, 0x4000000⟩
/-- PART_ACCT_ENERGY bits 0+:64. -/
def partAcctEnergyCount : Fld := ⟨122, 61, 0, 64, .ro, .p, 0⟩
/-- STAKE_STATUS (R244). -/
def stakeStatusReg : Reg := ⟨62, 0x1100000, 8, 1536, 0x100, 1, 0x4000000⟩
/-- STAKE_STATUS bits 0+:2. -/
def stakeStatusState : Fld := ⟨123, 62, 0, 2, .ro, .m, 0⟩
/-- STAKE_STATUS bits 2+:1. -/
def stakeStatusCreditOverflow : Fld := ⟨124, 62, 2, 1, .rw1c, .m, 0⟩
/-- STAKE_STATUS bits 16+:12. -/
def stakeStatusContext : Fld := ⟨125, 62, 16, 12, .ro, .m, 0⟩
/-- STAKE_STATUS bits 32+:32. -/
def stakeStatusDescIndex : Fld := ⟨126, 62, 32, 32, .ro, .m, 0⟩
/-- STAKE_BUSY (R244). -/
def stakeBusyReg : Reg := ⟨63, 0x1100008, 8, 1536, 0x100, 1, 0x4000000⟩
/-- STAKE_BUSY bits 0+:64. -/
def stakeBusyCycles : Fld := ⟨127, 63, 0, 64, .ro, .m, 0⟩
/-- STAKE_MM_ACTIVE (R244). -/
def stakeMmActiveReg : Reg := ⟨64, 0x1100010, 8, 1536, 0x100, 1, 0x4000000⟩
/-- STAKE_MM_ACTIVE bits 0+:64. -/
def stakeMmActiveCycles : Fld := ⟨128, 64, 0, 64, .ro, .m, 0⟩
/-- STAKE_OPERAND_STALL (R244). -/
def stakeOperandStallReg : Reg := ⟨65, 0x1100018, 8, 1536, 0x100, 1, 0x4000000⟩
/-- STAKE_OPERAND_STALL bits 0+:64. -/
def stakeOperandStallCycles : Fld := ⟨129, 65, 0, 64, .ro, .m, 0⟩
/-- STAKE_CREDIT_WAIT (R244). -/
def stakeCreditWaitReg : Reg := ⟨66, 0x1100020, 8, 1536, 0x100, 1, 0x4000000⟩
/-- STAKE_CREDIT_WAIT bits 0+:64. -/
def stakeCreditWaitCycles : Fld := ⟨130, 66, 0, 64, .ro, .m, 0⟩
/-- STAKE_DESCRIPTORS (R244). -/
def stakeDescriptorsReg : Reg := ⟨67, 0x1100028, 8, 1536, 0x100, 1, 0x4000000⟩
/-- STAKE_DESCRIPTORS bits 0+:64. -/
def stakeDescriptorsCount : Fld := ⟨131, 67, 0, 64, .ro, .m, 0⟩
/-- STAKE_SATURATIONS (R244). -/
def stakeSaturationsReg : Reg := ⟨68, 0x1100030, 4, 1536, 0x100, 1, 0x4000000⟩
/-- STAKE_SATURATIONS bits 0+:32. -/
def stakeSaturationsCount : Fld := ⟨132, 68, 0, 32, .ro, .m, 0⟩
/-- STAKE_CREDITSj (R244). -/
def stakeCreditsReg : Reg := ⟨69, 0x1100040, 8, 1536, 0x100, 4, 0x8⟩
/-- STAKE_CREDITSj bits 0+:16. -/
def stakeCreditsCredit4j : Fld := ⟨133, 69, 0, 16, .ro, .m, 0⟩
/-- STAKE_CREDITSj bits 16+:16. -/
def stakeCreditsCredit4j1 : Fld := ⟨134, 69, 16, 16, .ro, .m, 0⟩
/-- STAKE_CREDITSj bits 32+:16. -/
def stakeCreditsCredit4j2 : Fld := ⟨135, 69, 32, 16, .ro, .m, 0⟩
/-- STAKE_CREDITSj bits 48+:16. -/
def stakeCreditsCredit4j3 : Fld := ⟨136, 69, 48, 16, .ro, .m, 0⟩
/-- SFU_DEFAULT_BASE (R369). -/
def sfuDefaultBaseReg : Reg := ⟨70, 0xc00000, 8, 1, 0x4000000, 1, 0x4000000⟩
/-- SFU_DEFAULT_BASE bits 0+:48. -/
def sfuDefaultBaseBase : Fld := ⟨137, 70, 0, 48, .ro, .m, 0⟩
/-- SFU_LOADS (R369). -/
def sfuLoadsReg : Reg := ⟨71, 0xc00008, 8, 1, 0x4000000, 1, 0x4000000⟩
/-- SFU_LOADS bits 0+:64. -/
def sfuLoadsCount : Fld := ⟨138, 71, 0, 64, .ro, .m, 0⟩
/-- SFU_BUSY (R369). -/
def sfuBusyReg : Reg := ⟨72, 0xc00010, 4, 1, 0x4000000, 1, 0x4000000⟩
/-- SFU_BUSY bits 0+:32. -/
def sfuBusyCount : Fld := ⟨139, 72, 0, 32, .ro, .m, 0⟩
/-- SFU_RESTORES (R369). -/
def sfuRestoresReg : Reg := ⟨73, 0xc00018, 4, 1, 0x4000000, 1, 0x4000000⟩
/-- SFU_RESTORES bits 0+:32. -/
def sfuRestoresCount : Fld := ⟨140, 73, 0, 32, .ro, .m, 0⟩
/-- SFU_SLOTk (R370). -/
def sfuSlotReg : Reg := ⟨74, 0xc10000, 4, 1536, 0x40, 8, 0x4⟩
/-- SFU_SLOTk bits 0+:8. -/
def sfuSlotFunction : Fld := ⟨141, 74, 0, 8, .ro, .m, 0⟩
/-- SFU_SLOTk bits 8+:1. -/
def sfuSlotLoaded : Fld := ⟨142, 74, 8, 1, .ro, .m, 0⟩
/-- SFU_SLOTk bits 9+:1. -/
def sfuSlotBound : Fld := ⟨143, 74, 9, 1, .ro, .m, 0⟩
/-- SFU_SLOTk bits 10+:1. -/
def sfuSlotHeld : Fld := ⟨144, 74, 10, 1, .ro, .m, 0⟩
/-- SFU_SLOTk bits 11+:1. -/
def sfuSlotEval : Fld := ⟨145, 74, 11, 1, .ro, .m, 0⟩
/-- SFU_SLOTk bits 12+:4. -/
def sfuSlotKeyId : Fld := ⟨146, 74, 12, 4, .ro, .m, 0⟩
/-- SFU_SLOTk bits 16+:16. -/
def sfuSlotVerified : Fld := ⟨147, 74, 16, 16, .ro, .m, 0⟩
/-- POOL_PSEL_REQS (R423). -/
def poolPselReqsReg : Reg := ⟨75, 0x8f0000, 8, 16, 0x40, 1, 0x4000000⟩
/-- POOL_PSEL_REQS bits 0+:64. -/
def poolPselReqsCount : Fld := ⟨148, 75, 0, 64, .ro, .m, 0⟩
/-- POOL_PSEL_FRAMES (R423). -/
def poolPselFramesReg : Reg := ⟨76, 0x8f0008, 8, 16, 0x40, 1, 0x4000000⟩
/-- POOL_PSEL_FRAMES bits 0+:64. -/
def poolPselFramesCount : Fld := ⟨149, 76, 0, 64, .ro, .m, 0⟩
/-- POOL_PSEL_NO_PAGE (R423). -/
def poolPselNoPageReg : Reg := ⟨77, 0x8f0010, 4, 16, 0x40, 1, 0x4000000⟩
/-- POOL_PSEL_NO_PAGE bits 0+:32. -/
def poolPselNoPageCount : Fld := ⟨150, 77, 0, 32, .ro, .m, 0⟩
/-- POOL_PSEL_DEFERRED (R423). -/
def poolPselDeferredReg : Reg := ⟨78, 0x8f0018, 4, 16, 0x40, 1, 0x4000000⟩
/-- POOL_PSEL_DEFERRED bits 0+:32. -/
def poolPselDeferredCount : Fld := ⟨151, 78, 0, 32, .ro, .m, 0⟩
/-- POOL_PSEL_BUSY (R423). -/
def poolPselBusyReg : Reg := ⟨79, 0x8f0020, 8, 16, 0x40, 1, 0x4000000⟩
/-- POOL_PSEL_BUSY bits 0+:64. -/
def poolPselBusyCycles : Fld := ⟨152, 79, 0, 64, .ro, .m, 0⟩
/-- PLAIT_CRC_ERRORS (R470). -/
def plaitCrcErrorsReg : Reg := ⟨80, 0xb00000, 4, 1, 0x4000000, 1, 0x4000000⟩
/-- PLAIT_CRC_ERRORS bits 0+:32. -/
def plaitCrcErrorsCount : Fld := ⟨153, 80, 0, 32, .ro, .m, 0⟩
/-- PLAIT_STALE (R470). -/
def plaitStaleReg : Reg := ⟨81, 0xb00008, 4, 1, 0x4000000, 1, 0x4000000⟩
/-- PLAIT_STALE bits 0+:32. -/
def plaitStaleCount : Fld := ⟨154, 81, 0, 32, .ro, .m, 0⟩
/-- PLAIT_NO_TABLE (R470). -/
def plaitNoTableReg : Reg := ⟨82, 0xb00010, 4, 1, 0x4000000, 1, 0x4000000⟩
/-- PLAIT_NO_TABLE bits 0+:32. -/
def plaitNoTableCount : Fld := ⟨155, 82, 0, 32, .ro, .m, 0⟩
/-- PLAIT_IMAGE_IN (R470). -/
def plaitImageInReg : Reg := ⟨83, 0xb00018, 8, 1, 0x4000000, 1, 0x4000000⟩
/-- PLAIT_IMAGE_IN bits 0+:64. -/
def plaitImageInBytes : Fld := ⟨156, 83, 0, 64, .ro, .m, 0⟩
/-- PLAIT_STORED_OUT (R470). -/
def plaitStoredOutReg : Reg := ⟨84, 0xb00020, 8, 1, 0x4000000, 1, 0x4000000⟩
/-- PLAIT_STORED_OUT bits 0+:64. -/
def plaitStoredOutBytes : Fld := ⟨157, 84, 0, 64, .ro, .m, 0⟩
/-- PLAIT_RAW_BLOCKS (R470). -/
def plaitRawBlocksReg : Reg := ⟨85, 0xb00028, 8, 1, 0x4000000, 1, 0x4000000⟩
/-- PLAIT_RAW_BLOCKS bits 0+:64. -/
def plaitRawBlocksCount : Fld := ⟨158, 85, 0, 64, .ro, .m, 0⟩
/-- PLAIT_LOAD_WAIT (R470). -/
def plaitLoadWaitReg : Reg := ⟨86, 0xb00030, 8, 1, 0x4000000, 1, 0x4000000⟩
/-- PLAIT_LOAD_WAIT bits 0+:64. -/
def plaitLoadWaitCycles : Fld := ⟨159, 86, 0, 64, .ro, .m, 0⟩
/-- PLAIT_EHRISK_BLOCKS (R470). -/
def plaitEhriskBlocksReg : Reg := ⟨87, 0xb00038, 8, 1, 0x4000000, 1, 0x4000000⟩
/-- PLAIT_EHRISK_BLOCKS bits 0+:64. -/
def plaitEhriskBlocksCount : Fld := ⟨160, 87, 0, 64, .ro, .m, 0⟩
/-- PLAIT_CSLOTs (R471). -/
def plaitCslotReg : Reg := ⟨88, 0xb10000, 4, 16, 0x40, 16, 0x4⟩
/-- PLAIT_CSLOTs bits 0+:16. -/
def plaitCslotGeneration : Fld := ⟨161, 88, 0, 16, .ro, .m, 0⟩
/-- PLAIT_CSLOTs bits 16+:1. -/
def plaitCslotLoaded : Fld := ⟨162, 88, 16, 1, .ro, .m, 0⟩
/-- PLAIT_CSLOTs bits 17+:1. -/
def plaitCslotClosed : Fld := ⟨163, 88, 17, 1, .ro, .m, 0⟩
/-- PLAIT_CSLOTs bits 18+:1. -/
def plaitCslotEhrisk : Fld := ⟨164, 88, 18, 1, .ro, .m, 0⟩
/-- PLAIT_CSLOTs bits 19+:2. -/
def plaitCslotPlanes : Fld := ⟨165, 88, 19, 2, .ro, .m, 0⟩
/-- PLAIT_CSLOTs bits 21+:8. -/
def plaitCslotQueued : Fld := ⟨166, 88, 21, 8, .ro, .m, 0⟩
/-- PLAIT_BSLOTs (R471). -/
def plaitBslotReg : Reg := ⟨89, 0xb20000, 4, 2, 0x40, 16, 0x4⟩
/-- PLAIT_BSLOTs bits 0+:16. -/
def plaitBslotGeneration : Fld := ⟨167, 89, 0, 16, .ro, .m, 0⟩
/-- PLAIT_BSLOTs bits 16+:1. -/
def plaitBslotLoaded : Fld := ⟨168, 89, 16, 1, .ro, .m, 0⟩
/-- PLAIT_BSLOTs bits 17+:1. -/
def plaitBslotClosed : Fld := ⟨169, 89, 17, 1, .ro, .m, 0⟩
/-- PLAIT_BSLOTs bits 18+:1. -/
def plaitBslotEhrisk : Fld := ⟨170, 89, 18, 1, .ro, .m, 0⟩
/-- PLAIT_BSLOTs bits 19+:2. -/
def plaitBslotPlanes : Fld := ⟨171, 89, 19, 2, .ro, .m, 0⟩
/-- PLAIT_BSLOTs bits 21+:8. -/
def plaitBslotQueued : Fld := ⟨172, 89, 21, 8, .ro, .m, 0⟩
/-- MEM_STATUS (R516). -/
def memStatusReg : Reg := ⟨90, 0x600000, 4, 1, 0x4000000, 1, 0x4000000⟩
/-- MEM_STATUS bits 0+:1. -/
def memStatusLayoutChanged : Fld := ⟨173, 90, 0, 1, .rw1c, .m, 0⟩
/-- MEM_STATUS bits 1+:1. -/
def memStatusScrubActive : Fld := ⟨174, 90, 1, 1, .ro, .m, 0⟩
/-- MEM_HBM_END (R516). -/
def memHbmEndReg : Reg := ⟨91, 0x600008, 8, 1, 0x4000000, 1, 0x4000000⟩
/-- MEM_HBM_END bits 0+:48. -/
def memHbmEndEnd : Fld := ⟨175, 91, 0, 48, .ro, .m, 0⟩
/-- MEM_WINDOW_BASEc (R516). -/
def memWindowBaseReg : Reg := ⟨92, 0x600100, 8, 1, 0x4000000, 16, 0x10⟩
/-- MEM_WINDOW_BASEc bits 0+:48. -/
def memWindowBaseBase : Fld := ⟨176, 92, 0, 48, .ro, .m, 0⟩
/-- MEM_WINDOW_SIZEc (R516). -/
def memWindowSizeReg : Reg := ⟨93, 0x600108, 8, 1, 0x4000000, 16, 0x10⟩
/-- MEM_WINDOW_SIZEc bits 0+:48. -/
def memWindowSizeSize : Fld := ⟨177, 93, 0, 48, .ro, .m, 0⟩
/-- MEM_CHAN_LIVEc (R516). -/
def memChanLiveReg : Reg := ⟨94, 0x600200, 8, 1, 0x4000000, 16, 0x8⟩
/-- MEM_CHAN_LIVEc bits 0+:64. -/
def memChanLiveLive : Fld := ⟨178, 94, 0, 64, .ro, .s, 0⟩
/-- MEM_CHAN_PENDINGc (R516). -/
def memChanPendingReg : Reg := ⟨95, 0x600280, 8, 1, 0x4000000, 16, 0x8⟩
/-- MEM_CHAN_PENDINGc bits 0+:64. -/
def memChanPendingPending : Fld := ⟨179, 95, 0, 64, .ro, .s, 0⟩
/-- MEM_MAPOUT (R516). -/
def memMapoutReg : Reg := ⟨96, 0x600300, 4, 1, 0x4000000, 1, 0x4000000⟩
/-- MEM_MAPOUT bits 0+:10. -/
def memMapoutChannel : Fld := ⟨180, 96, 0, 10, .wo, .m, 0⟩
/-- MEM_MAPOUT bits 31+:1. -/
def memMapoutRequest : Fld := ⟨181, 96, 31, 1, .wo, .m, 0⟩
/-- MEM_HEALTH_CFG (R516). -/
def memHealthCfgReg : Reg := ⟨97, 0x600308, 4, 1, 0x4000000, 1, 0x4000000⟩
/-- MEM_HEALTH_CFG bits 0+:16. -/
def memHealthCfgCeLimit : Fld := ⟨182, 97, 0, 16, .rw, .c, 4096⟩
/-- MEM_HEALTH_CFG bits 16+:5. -/
def memHealthCfgWindowLog2 : Fld := ⟨183, 97, 16, 5, .rw, .c, 20⟩
/-- MEM_HEALTH_CFG bits 24+:1. -/
def memHealthCfgDefer : Fld := ⟨184, 97, 24, 1, .rw, .c, 0⟩
/-- MEM_SCRUB_CFG (R516). -/
def memScrubCfgReg : Reg := ⟨98, 0x600310, 4, 1, 0x4000000, 1, 0x4000000⟩
/-- MEM_SCRUB_CFG bits 0+:8. -/
def memScrubCfgHours : Fld := ⟨185, 98, 0, 8, .rw, .m, 24⟩
/-- MEM_SCRUB_CFG bits 8+:1. -/
def memScrubCfgEnable : Fld := ⟨186, 98, 8, 1, .rw, .m, 1⟩
/-- MEM_ADD_OPS (R516). -/
def memAddOpsReg : Reg := ⟨99, 0x600318, 8, 1, 0x4000000, 1, 0x4000000⟩
/-- MEM_ADD_OPS bits 0+:64. -/
def memAddOpsCount : Fld := ⟨187, 99, 0, 64, .ro, .m, 0⟩
/-- MEM_ADD_HELD (R516). -/
def memAddHeldReg : Reg := ⟨100, 0x600320, 8, 1, 0x4000000, 1, 0x4000000⟩
/-- MEM_ADD_HELD bits 0+:64. -/
def memAddHeldCycles : Fld := ⟨188, 100, 0, 64, .ro, .m, 0⟩
/-- MEM_ERR_LOG (R516). -/
def memErrLogReg : Reg := ⟨101, 0x600330, 8, 1, 0x4000000, 1, 0x4000000⟩
/-- MEM_ERR_LOG bits 0+:10. -/
def memErrLogChannel : Fld := ⟨189, 101, 0, 10, .ro, .m, 0⟩
/-- MEM_ERR_LOG bits 16+:32. -/
def memErrLogAddress : Fld := ⟨190, 101, 16, 32, .ro, .m, 0⟩
/-- MEM_ERR_LOG bits 48+:1. -/
def memErrLogValid : Fld := ⟨191, 101, 48, 1, .rw1c, .m, 0⟩
/-- MEM_CHAN_CEn (R517). -/
def memChanCeReg : Reg := ⟨102, 0x610000, 4, 1, 0x4000000, 1024, 0x10⟩
/-- MEM_CHAN_CEn bits 0+:32. -/
def memChanCeCe : Fld := ⟨192, 102, 0, 32, .ro, .m, 0⟩
/-- MEM_CHAN_STATEn (R517). -/
def memChanStateReg : Reg := ⟨103, 0x610008, 4, 1, 0x4000000, 1024, 0x10⟩
/-- MEM_CHAN_STATEn bits 0+:16. -/
def memChanStateUe : Fld := ⟨193, 103, 0, 16, .ro, .m, 0⟩
/-- MEM_CHAN_STATEn bits 16+:2. -/
def memChanStateState : Fld := ⟨194, 103, 16, 2, .ro, .s, 0⟩
/-- MEM_HOOP_BASE (R518). -/
def memHoopBaseReg : Reg := ⟨104, 0x620000, 8, 16, 0x800, 64, 0x20⟩
/-- MEM_HOOP_BASE bits 0+:48. -/
def memHoopBaseBase : Fld := ⟨195, 104, 0, 48, .rw, .m, 0⟩
/-- MEM_HOOP_LEN (R518). -/
def memHoopLenReg : Reg := ⟨105, 0x620008, 8, 16, 0x800, 64, 0x20⟩
/-- MEM_HOOP_LEN bits 0+:48. -/
def memHoopLenLength : Fld := ⟨196, 105, 0, 48, .rw, .m, 0⟩
/-- MEM_HOOP_CFG (R518). -/
def memHoopCfgReg : Reg := ⟨106, 0x620010, 4, 16, 0x800, 64, 0x20⟩
/-- MEM_HOOP_CFG bits 0+:11. -/
def memHoopCfgN : Fld := ⟨197, 106, 0, 11, .rw, .m, 1⟩
/-- MEM_HOOP_CFG bits 16+:1. -/
def memHoopCfgEnable : Fld := ⟨198, 106, 16, 1, .rw, .m, 0⟩
/-- MEM_HOOP_STATE (R518). -/
def memHoopStateReg : Reg := ⟨107, 0x620018, 4, 16, 0x800, 64, 0x20⟩
/-- MEM_HOOP_STATE bits 0+:10. -/
def memHoopStateNextTag : Fld := ⟨199, 107, 0, 10, .ro, .m, 0⟩
/-- MEM_HOOP_STATE bits 16+:16. -/
def memHoopStateEpoch : Fld := ⟨200, 107, 16, 16, .ro, .m, 0⟩
/-- CREEL_WAYCFG (R519). -/
def creelWaycfgReg : Reg := ⟨108, 0x700000, 4, 16, 0x40, 1, 0x4000000⟩
/-- CREEL_WAYCFG bits 0+:16. -/
def creelWaycfgScratch : Fld := ⟨201, 108, 0, 16, .rw, .m, 0⟩
/-- CREEL_WAYCFG bits 16+:1. -/
def creelWaycfgBusy : Fld := ⟨202, 108, 16, 1, .ro, .m, 0⟩
/-- CREEL_HITS (R519). -/
def creelHitsReg : Reg := ⟨109, 0x700008, 8, 16, 0x40, 1, 0x4000000⟩
/-- CREEL_HITS bits 0+:64. -/
def creelHitsCount : Fld := ⟨203, 109, 0, 64, .ro, .m, 0⟩
/-- CREEL_MISSES (R519). -/
def creelMissesReg : Reg := ⟨110, 0x700010, 8, 16, 0x40, 1, 0x4000000⟩
/-- CREEL_MISSES bits 0+:64. -/
def creelMissesCount : Fld := ⟨204, 110, 0, 64, .ro, .m, 0⟩
/-- CREEL_WRITEBACKS (R519). -/
def creelWritebacksReg : Reg := ⟨111, 0x700018, 8, 16, 0x40, 1, 0x4000000⟩
/-- CREEL_WRITEBACKS bits 0+:64. -/
def creelWritebacksCount : Fld := ⟨205, 111, 0, 64, .ro, .m, 0⟩
/-- CREEL_ECC_CE (R519). -/
def creelEccCeReg : Reg := ⟨112, 0x700020, 4, 16, 0x40, 1, 0x4000000⟩
/-- CREEL_ECC_CE bits 0+:32. -/
def creelEccCeCount : Fld := ⟨206, 112, 0, 32, .ro, .m, 0⟩
/-- CREEL_ECC_UE (R519). -/
def creelEccUeReg : Reg := ⟨113, 0x700028, 4, 16, 0x40, 1, 0x4000000⟩
/-- CREEL_ECC_UE bits 0+:32. -/
def creelEccUeCount : Fld := ⟨207, 113, 0, 32, .ro, .m, 0⟩
/-- MMU_INVALIDATIONS (R558). -/
def mmuInvalidationsReg : Reg := ⟨114, 0x800000, 8, 1, 0x4000000, 1, 0x4000000⟩
/-- MMU_INVALIDATIONS bits 0+:64. -/
def mmuInvalidationsCount : Fld := ⟨208, 114, 0, 64, .ro, .m, 0⟩
/-- HAMP_STATUS (R558). -/
def hampStatusReg : Reg := ⟨115, 0x800800, 4, 1, 0x4000000, 1, 0x4000000⟩
/-- HAMP_STATUS bits 0+:1. -/
def hampStatusLayoutChanged : Fld := ⟨209, 115, 0, 1, .rw1c, .m, 0⟩
/-- HAMP_STATUS bits 8+:7. -/
def hampStatusLive : Fld := ⟨210, 115, 8, 7, .ro, .m, 0⟩
/-- HAMP_CFG (R558). -/
def hampCfgReg : Reg := ⟨116, 0x800808, 4, 1, 0x4000000, 1, 0x4000000⟩
/-- HAMP_CFG bits 0+:16. -/
def hampCfgTimeoutUs : Fld := ⟨211, 116, 0, 16, .rw, .m, 100⟩
/-- HAMP_CAP (R558). -/
def hampCapReg : Reg := ⟨117, 0x800810, 8, 1, 0x4000000, 1, 0x4000000⟩
/-- HAMP_CAP bits 0+:48. -/
def hampCapBytes : Fld := ⟨212, 117, 0, 48, .ro, .m, 0⟩
/-- HAMP_END (R558). -/
def hampEndReg : Reg := ⟨118, 0x800818, 8, 1, 0x4000000, 1, 0x4000000⟩
/-- HAMP_END bits 0+:48. -/
def hampEndEnd : Fld := ⟨213, 118, 0, 48, .ro, .m, 0⟩
/-- HAMP_CHAN_STATEn (R559). -/
def hampChanStateReg : Reg := ⟨119, 0x800900, 8, 1, 0x4000000, 64, 0x8⟩
/-- HAMP_CHAN_STATEn bits 0+:1. -/
def hampChanStateLive : Fld := ⟨214, 119, 0, 1, .ro, .m, 0⟩
/-- HAMP_CHAN_STATEn bits 1+:1. -/
def hampChanStateFailed : Fld := ⟨215, 119, 1, 1, .ro, .m, 0⟩
/-- HAMP_CHAN_STATEn bits 16+:16. -/
def hampChanStateUe : Fld := ⟨216, 119, 16, 16, .ro, .m, 0⟩
/-- HAMP_CHAN_STATEn bits 32+:32. -/
def hampChanStateCe : Fld := ⟨217, 119, 32, 32, .ro, .m, 0⟩
/-- MMU_WALKS (R560). -/
def mmuWalksReg : Reg := ⟨120, 0x800100, 8, 18, 0x40, 1, 0x4000000⟩
/-- MMU_WALKS bits 0+:64. -/
def mmuWalksCount : Fld := ⟨218, 120, 0, 64, .ro, .m, 0⟩
/-- MMU_WALK_WAIT (R560). -/
def mmuWalkWaitReg : Reg := ⟨121, 0x800108, 8, 18, 0x40, 1, 0x4000000⟩
/-- MMU_WALK_WAIT bits 0+:64. -/
def mmuWalkWaitCycles : Fld := ⟨219, 121, 0, 64, .ro, .m, 0⟩
/-- MMU_HAMP_WAIT (R560). -/
def mmuHampWaitReg : Reg := ⟨122, 0x800110, 8, 18, 0x40, 1, 0x4000000⟩
/-- MMU_HAMP_WAIT bits 0+:64. -/
def mmuHampWaitCycles : Fld := ⟨220, 122, 0, 64, .ro, .m, 0⟩
/-- MMU_MOVE_HOLD (R560). -/
def mmuMoveHoldReg : Reg := ⟨123, 0x800118, 8, 18, 0x40, 1, 0x4000000⟩
/-- MMU_MOVE_HOLD bits 0+:64. -/
def mmuMoveHoldCycles : Fld := ⟨221, 123, 0, 64, .ro, .m, 0⟩
/-- MMU_FAULTS (R560). -/
def mmuFaultsReg : Reg := ⟨124, 0x800120, 4, 18, 0x40, 1, 0x4000000⟩
/-- MMU_FAULTS bits 0+:32. -/
def mmuFaultsCount : Fld := ⟨222, 124, 0, 32, .ro, .m, 0⟩
/-- POOL_CFG (R561). -/
def poolCfgReg : Reg := ⟨125, 0x810000, 8, 1024, 0x40, 1, 0x4000000⟩
/-- POOL_CFG bits 0+:1. -/
def poolCfgEnable : Fld := ⟨223, 125, 0, 1, .rw, .m, 0⟩
/-- POOL_CFG bits 1+:1. -/
def poolCfgKeep : Fld := ⟨224, 125, 1, 1, .rw, .m, 0⟩
/-- POOL_CFG bits 2+:1. -/
def poolCfgCfgRefused : Fld := ⟨225, 125, 2, 1, .rw1c, .m, 0⟩
/-- POOL_CFG bits 8+:4. -/
def poolCfgHome : Fld := ⟨226, 125, 8, 4, .rw, .m, 0⟩
/-- POOL_CFG bits 12+:5. -/
def poolCfgFrameLog2 : Fld := ⟨227, 125, 12, 5, .rw, .m, 16⟩
/-- POOL_CFG bits 24+:6. -/
def poolCfgPartition : Fld := ⟨228, 125, 24, 6, .rw, .m, 0⟩
/-- POOL_HBM (R561). -/
def poolHbmReg : Reg := ⟨126, 0x810008, 8, 1024, 0x40, 1, 0x4000000⟩
/-- POOL_HBM bits 0+:48. -/
def poolHbmBase : Fld := ⟨229, 126, 0, 48, .rw, .m, 0⟩
/-- POOL_HAMP (R561). -/
def poolHampReg : Reg := ⟨127, 0x810010, 8, 1024, 0x40, 1, 0x4000000⟩
/-- POOL_HAMP bits 0+:48. -/
def poolHampBase : Fld := ⟨230, 127, 0, 48, .rw, .m, 0⟩
/-- POOL_TABLE (R561). -/
def poolTableReg : Reg := ⟨128, 0x810018, 8, 1024, 0x40, 1, 0x4000000⟩
/-- POOL_TABLE bits 0+:48. -/
def poolTableBase : Fld := ⟨231, 128, 0, 48, .rw, .m, 0⟩
/-- POOL_COUNTS (R561). -/
def poolCountsReg : Reg := ⟨129, 0x810020, 8, 1024, 0x40, 1, 0x4000000⟩
/-- POOL_COUNTS bits 0+:32. -/
def poolCountsHbmFrames : Fld := ⟨232, 129, 0, 32, .rw, .m, 0⟩
/-- POOL_COUNTS bits 32+:32. -/
def poolCountsHampFrames : Fld := ⟨233, 129, 32, 32, .rw, .m, 0⟩
/-- POOL_FREE (R561). -/
def poolFreeReg : Reg := ⟨130, 0x810028, 8, 1024, 0x40, 1, 0x4000000⟩
/-- POOL_FREE bits 0+:32. -/
def poolFreeHbmFree : Fld := ⟨234, 130, 0, 32, .ro, .m, 0⟩
/-- POOL_FREE bits 32+:32. -/
def poolFreeHampFree : Fld := ⟨235, 130, 32, 32, .ro, .m, 0⟩
/-- POOL_EVICTIONS (R561). -/
def poolEvictionsReg : Reg := ⟨131, 0x810030, 8, 1024, 0x40, 1, 0x4000000⟩
/-- POOL_EVICTIONS bits 0+:64. -/
def poolEvictionsCount : Fld := ⟨236, 131, 0, 64, .ro, .m, 0⟩
/-- POOL_MISSES (R561). -/
def poolMissesReg : Reg := ⟨132, 0x810038, 8, 1024, 0x40, 1, 0x4000000⟩
/-- POOL_MISSES bits 0+:32. -/
def poolMissesCount : Fld := ⟨237, 132, 0, 32, .ro, .m, 0⟩
/-- POOL_MISSES bits 32+:32. -/
def poolMissesFailedPops : Fld := ⟨238, 132, 32, 32, .ro, .m, 0⟩
/-- WALE_CFG (R604). -/
def waleCfgReg : Reg := ⟨133, 0x900000, 4, 1, 0x4000000, 1, 0x4000000⟩
/-- WALE_CFG bits 0+:16. -/
def waleCfgModuleId : Fld := ⟨239, 133, 0, 16, .rw, .c, 0⟩
/-- WALE_CFG bits 16+:1. -/
def waleCfgForward : Fld := ⟨240, 133, 16, 1, .rw, .c, 0⟩
/-- WALE_PAIR (R604). -/
def walePairReg : Reg := ⟨134, 0x900008, 4, 1, 0x4000000, 1, 0x4000000⟩
/-- WALE_PAIR bits 0+:16. -/
def walePairPartner : Fld := ⟨241, 134, 0, 16, .rw, .c, 0⟩
/-- WALE_PAIR bits 16+:1. -/
def walePairEnable : Fld := ⟨242, 134, 16, 1, .rw, .c, 0⟩
/-- WALE_ROUTEk (R604). -/
def waleRouteReg : Reg := ⟨135, 0x910000, 4, 1, 0x4000000, 16384, 0x4⟩
/-- WALE_ROUTEk bits 0+:4. -/
def waleRoutePort0 : Fld := ⟨243, 135, 0, 4, .rw, .c, 0⟩
/-- WALE_ROUTEk bits 8+:4. -/
def waleRoutePort1 : Fld := ⟨244, 135, 8, 4, .rw, .c, 0⟩
/-- WALE_ROUTEk bits 16+:4. -/
def waleRoutePort2 : Fld := ⟨245, 135, 16, 4, .rw, .c, 0⟩
/-- WALE_ROUTEk bits 24+:4. -/
def waleRoutePort3 : Fld := ⟨246, 135, 24, 4, .rw, .c, 0⟩
/-- WALE_ROUTEk bits 4+:1. -/
def waleRouteValid0 : Fld := ⟨247, 135, 4, 1, .rw, .c, 0⟩
/-- WALE_ROUTEk bits 12+:1. -/
def waleRouteValid1 : Fld := ⟨248, 135, 12, 1, .rw, .c, 0⟩
/-- WALE_ROUTEk bits 20+:1. -/
def waleRouteValid2 : Fld := ⟨249, 135, 20, 1, .rw, .c, 0⟩
/-- WALE_ROUTEk bits 28+:1. -/
def waleRouteValid3 : Fld := ⟨250, 135, 28, 1, .rw, .c, 0⟩
/-- WALE_PORT_CTRL (R605). -/
def walePortCtrlReg : Reg := ⟨136, 0x901000, 4, 16, 0x100, 1, 0x4000000⟩
/-- WALE_PORT_CTRL bits 0+:1. -/
def walePortCtrlEnable : Fld := ⟨251, 136, 0, 1, .rw, .c, 0⟩
/-- WALE_PORT_CTRL bits 1+:2. -/
def walePortCtrlMedium : Fld := ⟨252, 136, 1, 2, .rw, .c, 0⟩
/-- WALE_PORT_CTRL bits 3+:1. -/
def walePortCtrlJob : Fld := ⟨253, 136, 3, 1, .rw, .c, 0⟩
/-- WALE_PORT_CTRL bits 4+:1. -/
def walePortCtrlLoop : Fld := ⟨254, 136, 4, 1, .rw, .c, 0⟩
/-- WALE_PORT_STATUS (R605). -/
def walePortStatusReg : Reg := ⟨137, 0x901008, 8, 16, 0x100, 1, 0x4000000⟩
/-- WALE_PORT_STATUS bits 0+:3. -/
def walePortStatusState : Fld := ⟨255, 137, 0, 3, .ro, .m, 0⟩
/-- WALE_PORT_STATUS bits 3+:2. -/
def walePortStatusPeer : Fld := ⟨256, 137, 3, 2, .ro, .m, 0⟩
/-- WALE_PORT_STATUS bits 5+:1. -/
def walePortStatusLaneReversed : Fld := ⟨257, 137, 5, 1, .ro, .m, 0⟩
/-- WALE_PORT_STATUS bits 6+:8. -/
def walePortStatusPolarity : Fld := ⟨258, 137, 6, 8, .ro, .m, 0⟩
/-- WALE_PORT_STATUS bits 14+:1. -/
def walePortStatusTrainFail : Fld := ⟨259, 137, 14, 1, .rw1c, .m, 0⟩
/-- WALE_PORT_STATUS bits 15+:1. -/
def walePortStatusPairMismatch : Fld := ⟨260, 137, 15, 1, .ro, .m, 0⟩
/-- WALE_PORT_STATUS bits 16+:16. -/
def walePortStatusPeerId : Fld := ⟨261, 137, 16, 16, .ro, .m, 0⟩
/-- WALE_PORT_STATUS bits 32+:4. -/
def walePortStatusPeerPort : Fld := ⟨262, 137, 32, 4, .ro, .m, 0⟩
/-- WALE_FEC_CORR (R605). -/
def waleFecCorrReg : Reg := ⟨138, 0x901010, 8, 16, 0x100, 1, 0x4000000⟩
/-- WALE_FEC_CORR bits 0+:64. -/
def waleFecCorrCount : Fld := ⟨263, 138, 0, 64, .ro, .m, 0⟩
/-- WALE_FEC_UNCORR (R605). -/
def waleFecUncorrReg : Reg := ⟨139, 0x901018, 8, 16, 0x100, 1, 0x4000000⟩
/-- WALE_FEC_UNCORR bits 0+:64. -/
def waleFecUncorrCount : Fld := ⟨264, 139, 0, 64, .ro, .m, 0⟩
/-- WALE_CRC_ERR (R605). -/
def waleCrcErrReg : Reg := ⟨140, 0x901020, 8, 16, 0x100, 1, 0x4000000⟩
/-- WALE_CRC_ERR bits 0+:64. -/
def waleCrcErrCount : Fld := ⟨265, 140, 0, 64, .ro, .m, 0⟩
/-- WALE_RETRIES (R605). -/
def waleRetriesReg : Reg := ⟨141, 0x901028, 8, 16, 0x100, 1, 0x4000000⟩
/-- WALE_RETRIES bits 0+:64. -/
def waleRetriesCount : Fld := ⟨266, 141, 0, 64, .ro, .m, 0⟩
/-- WALE_TX_FLITS (R605). -/
def waleTxFlitsReg : Reg := ⟨142, 0x901030, 8, 16, 0x100, 1, 0x4000000⟩
/-- WALE_TX_FLITS bits 0+:64. -/
def waleTxFlitsCount : Fld := ⟨267, 142, 0, 64, .ro, .m, 0⟩
/-- WALE_RX_FLITS (R605). -/
def waleRxFlitsReg : Reg := ⟨143, 0x901038, 8, 16, 0x100, 1, 0x4000000⟩
/-- WALE_RX_FLITS bits 0+:64. -/
def waleRxFlitsCount : Fld := ⟨268, 143, 0, 64, .ro, .m, 0⟩
/-- WALE_RX_DROPPED (R605). -/
def waleRxDroppedReg : Reg := ⟨144, 0x901040, 8, 16, 0x100, 1, 0x4000000⟩
/-- WALE_RX_DROPPED bits 0+:64. -/
def waleRxDroppedCount : Fld := ⟨269, 144, 0, 64, .ro, .m, 0⟩
/-- WALE_DOWN_COUNT (R605). -/
def waleDownCountReg : Reg := ⟨145, 0x901048, 4, 16, 0x100, 1, 0x4000000⟩
/-- WALE_DOWN_COUNT bits 0+:32. -/
def waleDownCountCount : Fld := ⟨270, 145, 0, 32, .ro, .m, 0⟩
/-- WALE_CREDIT_WAIT (R605). -/
def waleCreditWaitReg : Reg := ⟨146, 0x901050, 8, 16, 0x100, 1, 0x4000000⟩
/-- WALE_CREDIT_WAIT bits 0+:64. -/
def waleCreditWaitCycles : Fld := ⟨271, 146, 0, 64, .ro, .m, 0⟩
/-- WALE_LT_CTRL (R606). -/
def waleLtCtrlReg : Reg := ⟨147, 0x980000, 8, 1106, 0x40, 1, 0x4000000⟩
/-- WALE_LT_CTRL bits 0+:4. -/
def waleLtCtrlPattern : Fld := ⟨272, 147, 0, 4, .rw, .m, 0⟩
/-- WALE_LT_CTRL bits 4+:1. -/
def waleLtCtrlStart : Fld := ⟨273, 147, 4, 1, .wo, .m, 0⟩
/-- WALE_LT_CTRL bits 5+:1. -/
def waleLtCtrlStop : Fld := ⟨274, 147, 5, 1, .wo, .m, 0⟩
/-- WALE_LT_CTRL bits 6+:2. -/
def waleLtCtrlLoop : Fld := ⟨275, 147, 6, 2, .rw, .m, 0⟩
/-- WALE_LT_CTRL bits 8+:8. -/
def waleLtCtrlLanes : Fld := ⟨276, 147, 8, 8, .rw, .m, 255⟩
/-- WALE_LT_CTRL bits 16+:1. -/
def waleLtCtrlInject : Fld := ⟨277, 147, 16, 1, .wo, .m, 0⟩
/-- WALE_LT_CTRL bits 32+:32. -/
def waleLtCtrlDuration : Fld := ⟨278, 147, 32, 32, .rw, .m, 0⟩
/-- WALE_LT_STATUS (R606). -/
def waleLtStatusReg : Reg := ⟨148, 0x980008, 8, 1106, 0x40, 1, 0x4000000⟩
/-- WALE_LT_STATUS bits 0+:2. -/
def waleLtStatusState : Fld := ⟨279, 148, 0, 2, .ro, .m, 0⟩
/-- WALE_LT_STATUS bits 2+:1. -/
def waleLtStatusSync : Fld := ⟨280, 148, 2, 1, .ro, .m, 0⟩
/-- WALE_LT_BITS (R606). -/
def waleLtBitsReg : Reg := ⟨149, 0x980010, 8, 1106, 0x40, 1, 0x4000000⟩
/-- WALE_LT_BITS bits 0+:64. -/
def waleLtBitsCount : Fld := ⟨281, 149, 0, 64, .ro, .m, 0⟩
/-- WALE_LT_ERRORS (R606). -/
def waleLtErrorsReg : Reg := ⟨150, 0x980018, 8, 1106, 0x40, 1, 0x4000000⟩
/-- WALE_LT_ERRORS bits 0+:64. -/
def waleLtErrorsCount : Fld := ⟨282, 150, 0, 64, .ro, .m, 0⟩
/-- WALE_LT_LANE_ERRi (R606). -/
def waleLtLaneErrReg : Reg := ⟨151, 0x980020, 4, 1106, 0x40, 8, 0x4⟩
/-- WALE_LT_LANE_ERRi bits 0+:32. -/
def waleLtLaneErrCount : Fld := ⟨283, 151, 0, 32, .ro, .m, 0⟩
/-- COLL_CFG (R644). -/
def collCfgReg : Reg := ⟨152, 0xa00000, 4, 1, 0x4000000, 1, 0x4000000⟩
/-- COLL_CFG bits 0+:16. -/
def collCfgTimeout : Fld := ⟨284, 152, 0, 16, .rw, .m, 1000⟩
/-- COLL_CFG bits 16+:9. -/
def collCfgEager : Fld := ⟨285, 152, 16, 9, .rw, .m, 4⟩
/-- COLL_EARLY_USEb (R644). -/
def collEarlyUseReg : Reg := ⟨153, 0xa00008, 8, 1, 0x4000000, 2, 0x8⟩
/-- COLL_EARLY_USEb bits 0+:32. -/
def collEarlyUseUsed : Fld := ⟨286, 153, 0, 32, .ro, .m, 0⟩
/-- COLL_EARLY_USEb bits 32+:32. -/
def collEarlyUsePeak : Fld := ⟨287, 153, 32, 32, .ro, .m, 0⟩
/-- COLL_DROPPED (R644). -/
def collDroppedReg : Reg := ⟨154, 0xa00018, 8, 1, 0x4000000, 1, 0x4000000⟩
/-- COLL_DROPPED bits 0+:64. -/
def collDroppedCount : Fld := ⟨288, 154, 0, 64, .ro, .m, 0⟩
/-- COLL_CHAN_CFG (R645). -/
def collChanCfgReg : Reg := ⟨155, 0xa01000, 4, 32, 0x40, 1, 0x4000000⟩
/-- COLL_CHAN_CFG bits 0+:1. -/
def collChanCfgScheduled : Fld := ⟨289, 155, 0, 1, .rw, .m, 0⟩
/-- COLL_CHAN_STATUS (R645). -/
def collChanStatusReg : Reg := ⟨156, 0xa01008, 8, 32, 0x40, 1, 0x4000000⟩
/-- COLL_CHAN_STATUS bits 0+:2. -/
def collChanStatusState : Fld := ⟨290, 156, 0, 2, .ro, .p, 0⟩
/-- COLL_CHAN_STATUS bits 2+:5. -/
def collChanStatusPosted : Fld := ⟨291, 156, 2, 5, .ro, .p, 0⟩
/-- COLL_CHAN_STATUS bits 8+:8. -/
def collChanStatusStep : Fld := ⟨292, 156, 8, 8, .ro, .p, 0⟩
/-- COLL_CHAN_STATUS bits 16+:10. -/
def collChanStatusGroup : Fld := ⟨293, 156, 16, 10, .ro, .p, 0⟩
/-- COLL_CHAN_STATUS bits 32+:32. -/
def collChanStatusSequence : Fld := ⟨294, 156, 32, 32, .ro, .p, 0⟩
/-- COLL_CHAN_OPS (R645). -/
def collChanOpsReg : Reg := ⟨157, 0xa01010, 8, 32, 0x40, 1, 0x4000000⟩
/-- COLL_CHAN_OPS bits 0+:64. -/
def collChanOpsCount : Fld := ⟨295, 157, 0, 64, .ro, .p, 0⟩
/-- COLL_CHAN_WAIT (R645). -/
def collChanWaitReg : Reg := ⟨158, 0xa01018, 8, 32, 0x40, 1, 0x4000000⟩
/-- COLL_CHAN_WAIT bits 0+:64. -/
def collChanWaitRounds : Fld := ⟨296, 158, 0, 64, .ro, .p, 0⟩
/-- COLL_CHAN_WAIT_MAX (R645). -/
def collChanWaitMaxReg : Reg := ⟨159, 0xa01020, 4, 32, 0x40, 1, 0x4000000⟩
/-- COLL_CHAN_WAIT_MAX bits 0+:32. -/
def collChanWaitMaxRounds : Fld := ⟨297, 159, 0, 32, .ro, .p, 0⟩
/-- COLL_CHAN_EARLY (R645). -/
def collChanEarlyReg : Reg := ⟨160, 0xa01028, 8, 32, 0x40, 1, 0x4000000⟩
/-- COLL_CHAN_EARLY bits 0+:64. -/
def collChanEarlyBytes : Fld := ⟨298, 160, 0, 64, .ro, .p, 0⟩
/-- COLL_GROUP_CFG (R646). -/
def collGroupCfgReg : Reg := ⟨161, 0xa10000, 8, 1024, 0x20, 1, 0x4000000⟩
/-- COLL_GROUP_CFG bits 0+:1. -/
def collGroupCfgEnable : Fld := ⟨299, 161, 0, 1, .rw, .p, 0⟩
/-- COLL_GROUP_CFG bits 1+:1. -/
def collGroupCfgCfgRefused : Fld := ⟨300, 161, 1, 1, .rw1c, .p, 0⟩
/-- COLL_GROUP_CFG bits 8+:6. -/
def collGroupCfgPartition : Fld := ⟨301, 161, 8, 6, .rw, .m, 0⟩
/-- COLL_GROUP_CFG bits 16+:16. -/
def collGroupCfgRank : Fld := ⟨302, 161, 16, 16, .rw, .m, 0⟩
/-- COLL_GROUP_CFG bits 32+:17. -/
def collGroupCfgSize : Fld := ⟨303, 161, 32, 17, .rw, .m, 1⟩
/-- COLL_GROUP_RANKS (R646). -/
def collGroupRanksReg : Reg := ⟨162, 0xa10008, 8, 1024, 0x20, 1, 0x4000000⟩
/-- COLL_GROUP_RANKS bits 0+:48. -/
def collGroupRanksBase : Fld := ⟨304, 162, 0, 48, .rw, .m, 0⟩
/-- COLL_GROUP_SEQ (R646). -/
def collGroupSeqReg : Reg := ⟨163, 0xa10010, 8, 1024, 0x20, 1, 0x4000000⟩
/-- COLL_GROUP_SEQ bits 0+:32. -/
def collGroupSeqNext : Fld := ⟨305, 163, 0, 32, .rw, .m, 0⟩
/-- COLL_GROUP_SEQ bits 32+:32. -/
def collGroupSeqCompleted : Fld := ⟨306, 163, 32, 32, .ro, .p, 0⟩
/-- VID_CFG (R688). -/
def vidCfgReg : Reg := ⟨164, 0xd00000, 4, 1, 0x4000000, 1, 0x4000000⟩
/-- VID_CFG bits 0+:4. -/
def vidCfgRunahead : Fld := ⟨307, 164, 0, 4, .rw, .m, 3⟩
/-- VID_SYNTAX_BASEb (R688). -/
def vidSyntaxBaseReg : Reg := ⟨165, 0xd00010, 8, 1, 0x4000000, 2, 0x10⟩
/-- VID_SYNTAX_BASEb bits 0+:48. -/
def vidSyntaxBaseBase : Fld := ⟨308, 165, 0, 48, .rw, .m, 0⟩
/-- VID_SYNTAX_SIZEb (R688). -/
def vidSyntaxSizeReg : Reg := ⟨166, 0xd00018, 8, 1, 0x4000000, 2, 0x10⟩
/-- VID_SYNTAX_SIZEb bits 0+:48. -/
def vidSyntaxSizeSize : Fld := ⟨309, 166, 0, 48, .rw, .m, 0⟩
/-- VID_DEC_FRAMES (R689). -/
def vidDecFramesReg : Reg := ⟨167, 0xd00100, 8, 2, 0x80, 1, 0x4000000⟩
/-- VID_DEC_FRAMES bits 0+:64. -/
def vidDecFramesCount : Fld := ⟨310, 167, 0, 64, .ro, .m, 0⟩
/-- VID_ENC_FRAMES (R689). -/
def vidEncFramesReg : Reg := ⟨168, 0xd00108, 8, 2, 0x80, 1, 0x4000000⟩
/-- VID_ENC_FRAMES bits 0+:64. -/
def vidEncFramesCount : Fld := ⟨311, 168, 0, 64, .ro, .m, 0⟩
/-- VID_PIXELS (R689). -/
def vidPixelsReg : Reg := ⟨169, 0xd00110, 8, 2, 0x80, 1, 0x4000000⟩
/-- VID_PIXELS bits 0+:64. -/
def vidPixelsCount : Fld := ⟨312, 169, 0, 64, .ro, .m, 0⟩
/-- VID_CONCEALED (R689). -/
def vidConcealedReg : Reg := ⟨170, 0xd00118, 4, 2, 0x80, 1, 0x4000000⟩
/-- VID_CONCEALED bits 0+:32. -/
def vidConcealedCount : Fld := ⟨313, 170, 0, 32, .ro, .m, 0⟩
/-- VID_SKIPPED (R689). -/
def vidSkippedReg : Reg := ⟨171, 0xd00120, 4, 2, 0x80, 1, 0x4000000⟩
/-- VID_SKIPPED bits 0+:32. -/
def vidSkippedCount : Fld := ⟨314, 171, 0, 32, .ro, .m, 0⟩
/-- VID_ENTROPY_BUSY (R689). -/
def vidEntropyBusyReg : Reg := ⟨172, 0xd00128, 8, 2, 0x80, 1, 0x4000000⟩
/-- VID_ENTROPY_BUSY bits 0+:64. -/
def vidEntropyBusyCycles : Fld := ⟨315, 172, 0, 64, .ro, .m, 0⟩
/-- VID_ENTROPY_HELD (R689). -/
def vidEntropyHeldReg : Reg := ⟨173, 0xd00130, 8, 2, 0x80, 1, 0x4000000⟩
/-- VID_ENTROPY_HELD bits 0+:64. -/
def vidEntropyHeldCycles : Fld := ⟨316, 173, 0, 64, .ro, .m, 0⟩
/-- VID_PIXEL_BUSY (R689). -/
def vidPixelBusyReg : Reg := ⟨174, 0xd00138, 8, 2, 0x80, 1, 0x4000000⟩
/-- VID_PIXEL_BUSY bits 0+:64. -/
def vidPixelBusyCycles : Fld := ⟨317, 174, 0, 64, .ro, .m, 0⟩
/-- VID_PIXEL_STARVED (R689). -/
def vidPixelStarvedReg : Reg := ⟨175, 0xd00140, 8, 2, 0x80, 1, 0x4000000⟩
/-- VID_PIXEL_STARVED bits 0+:64. -/
def vidPixelStarvedCycles : Fld := ⟨318, 175, 0, 64, .ro, .m, 0⟩
/-- VID_JOBS (R689). -/
def vidJobsReg : Reg := ⟨176, 0xd00148, 4, 2, 0x80, 1, 0x4000000⟩
/-- VID_JOBS bits 0+:7. -/
def vidJobsQueued : Fld := ⟨319, 176, 0, 7, .ro, .m, 0⟩
/-- VID_SESSIONs (R690). -/
def vidSessionReg : Reg := ⟨177, 0xd10000, 8, 1, 0x4000000, 512, 0x8⟩
/-- VID_SESSIONs bits 0+:2. -/
def vidSessionState : Fld := ⟨320, 177, 0, 2, .ro, .p, 0⟩
/-- VID_SESSIONs bits 2+:1. -/
def vidSessionEncode : Fld := ⟨321, 177, 2, 1, .ro, .p, 0⟩
/-- VID_SESSIONs bits 3+:1. -/
def vidSessionCodec : Fld := ⟨322, 177, 3, 1, .ro, .p, 0⟩
/-- VID_SESSIONs bits 4+:1. -/
def vidSessionCluster : Fld := ⟨323, 177, 4, 1, .ro, .p, 0⟩
/-- VID_SESSIONs bits 5+:1. -/
def vidSessionBit10 : Fld := ⟨324, 177, 5, 1, .ro, .p, 0⟩
/-- VID_SESSIONs bits 16+:12. -/
def vidSessionContext : Fld := ⟨325, 177, 16, 12, .ro, .p, 0⟩
/-- VID_SESSIONs bits 32+:32. -/
def vidSessionFrames : Fld := ⟨326, 177, 32, 32, .ro, .p, 0⟩
/-- FLT_STATUS (R717). -/
def fltStatusReg : Reg := ⟨178, 0xe00000, 4, 1, 0x4000000, 1, 0x4000000⟩
/-- FLT_STATUS bits 0+:1. -/
def fltStatusJobHalted : Fld := ⟨327, 178, 0, 1, .ro, .m, 0⟩
/-- FLT_STATUS bits 1+:1. -/
def fltStatusFault : Fld := ⟨328, 178, 1, 1, .rw1c, .m, 0⟩
/-- FLT_STATUS bits 2+:1. -/
def fltStatusRingFull : Fld := ⟨329, 178, 2, 1, .ro, .m, 0⟩
/-- FLT_RING_BASE (R717). -/
def fltRingBaseReg : Reg := ⟨179, 0xe00008, 8, 1, 0x4000000, 1, 0x4000000⟩
/-- FLT_RING_BASE bits 0+:48. -/
def fltRingBaseBase : Fld := ⟨330, 179, 0, 48, .rw, .m, 0⟩
/-- FLT_RING_CFG (R717). -/
def fltRingCfgReg : Reg := ⟨180, 0xe00010, 4, 1, 0x4000000, 1, 0x4000000⟩
/-- FLT_RING_CFG bits 0+:5. -/
def fltRingCfgLog2Size : Fld := ⟨331, 180, 0, 5, .rw, .m, 6⟩
/-- FLT_RING_CFG bits 5+:1. -/
def fltRingCfgEnable : Fld := ⟨332, 180, 5, 1, .rw, .m, 0⟩
/-- FLT_RING_CFG bits 16+:11. -/
def fltRingCfgMsixVector : Fld := ⟨333, 180, 16, 11, .rw, .m, 0⟩
/-- FLT_RING_PI (R717). -/
def fltRingPiReg : Reg := ⟨181, 0xe00018, 4, 1, 0x4000000, 1, 0x4000000⟩
/-- FLT_RING_PI bits 0+:32. -/
def fltRingPiPi : Fld := ⟨334, 181, 0, 32, .ro, .m, 0⟩
/-- FLT_RING_CI (R717). -/
def fltRingCiReg : Reg := ⟨182, 0xe0001c, 4, 1, 0x4000000, 1, 0x4000000⟩
/-- FLT_RING_CI bits 0+:32. -/
def fltRingCiCi : Fld := ⟨335, 182, 0, 32, .rw, .m, 0⟩
/-- FLT_COUNT (R717). -/
def fltCountReg : Reg := ⟨183, 0xe00020, 8, 1, 0x4000000, 1, 0x4000000⟩
/-- FLT_COUNT bits 0+:64. -/
def fltCountCount : Fld := ⟨336, 183, 0, 64, .ro, .m, 0⟩
/-- FLT_REMOTE (R717). -/
def fltRemoteReg : Reg := ⟨184, 0xe00028, 8, 1, 0x4000000, 1, 0x4000000⟩
/-- FLT_REMOTE bits 0+:64. -/
def fltRemoteCount : Fld := ⟨337, 184, 0, 64, .ro, .m, 0⟩
/-- FLT_DROPPED (R717). -/
def fltDroppedReg : Reg := ⟨185, 0xe00030, 4, 1, 0x4000000, 1, 0x4000000⟩
/-- FLT_DROPPED bits 0+:32. -/
def fltDroppedCount : Fld := ⟨338, 185, 0, 32, .ro, .m, 0⟩
/-- FLT_JOB (R717). -/
def fltJobReg : Reg := ⟨186, 0xe00038, 4, 1, 0x4000000, 1, 0x4000000⟩
/-- FLT_JOB bits 0+:16. -/
def fltJobLo : Fld := ⟨339, 186, 0, 16, .rw, .m, 0⟩
/-- FLT_JOB bits 16+:16. -/
def fltJobHi : Fld := ⟨340, 186, 16, 16, .rw, .m, 0⟩
/-- FLT_LASTj (R717). -/
def fltLastReg : Reg := ⟨187, 0xe00100, 8, 1, 0x4000000, 8, 0x8⟩
/-- FLT_LASTj bits 0+:64. -/
def fltLastRecord : Fld := ⟨341, 187, 0, 64, .ro, .m, 0⟩
/-- FLT_MIRROR_RX_BASE (R718). -/
def fltMirrorRxBaseReg : Reg := ⟨188, 0xe00200, 8, 1, 0x4000000, 1, 0x4000000⟩
/-- FLT_MIRROR_RX_BASE bits 0+:48. -/
def fltMirrorRxBaseBase : Fld := ⟨342, 188, 0, 48, .rw, .m, 0⟩
/-- FLT_MIRROR_RX_LEN (R718). -/
def fltMirrorRxLenReg : Reg := ⟨189, 0xe00208, 8, 1, 0x4000000, 1, 0x4000000⟩
/-- FLT_MIRROR_RX_LEN bits 0+:48. -/
def fltMirrorRxLenLength : Fld := ⟨343, 189, 0, 48, .rw, .m, 0⟩
/-- FLT_MIRROR_CFG (R718). -/
def fltMirrorCfgReg : Reg := ⟨190, 0xe00210, 4, 1, 0x4000000, 1, 0x4000000⟩
/-- FLT_MIRROR_CFG bits 0+:1. -/
def fltMirrorCfgRestoreRx : Fld := ⟨344, 190, 0, 1, .rw, .m, 0⟩
/-- FLT_MIRROR_CFG bits 16+:12. -/
def fltMirrorCfgRestoreCtx : Fld := ⟨345, 190, 16, 12, .rw, .m, 0⟩
/-- FLT_MIRROR_EPOCH (R718). -/
def fltMirrorEpochReg : Reg := ⟨191, 0xe00218, 4, 1, 0x4000000, 1, 0x4000000⟩
/-- FLT_MIRROR_EPOCH bits 0+:32. -/
def fltMirrorEpochNext : Fld := ⟨346, 191, 0, 32, .rw, .c, 0⟩
/-- FLT_MIRROR_STATUS (R718). -/
def fltMirrorStatusReg : Reg := ⟨192, 0xe00220, 8, 1, 0x4000000, 1, 0x4000000⟩
/-- FLT_MIRROR_STATUS bits 0+:32. -/
def fltMirrorStatusEpoch : Fld := ⟨347, 192, 0, 32, .ro, .m, 0⟩
/-- FLT_MIRROR_STATUS bits 32+:1. -/
def fltMirrorStatusBank : Fld := ⟨348, 192, 32, 1, .ro, .m, 0⟩
/-- FLT_MIRROR_STATUS bits 33+:1. -/
def fltMirrorStatusValid : Fld := ⟨349, 192, 33, 1, .ro, .m, 0⟩
/-- FLT_RESTORE (R718). -/
def fltRestoreReg : Reg := ⟨193, 0xe00228, 4, 1, 0x4000000, 1, 0x4000000⟩
/-- FLT_RESTORE bits 0+:1. -/
def fltRestoreStart : Fld := ⟨350, 193, 0, 1, .wo, .m, 0⟩
/-- FLT_RESTORE bits 1+:1. -/
def fltRestoreBank : Fld := ⟨351, 193, 1, 1, .rw, .m, 0⟩
/-- FLT_RESTORE bits 2+:1. -/
def fltRestoreBusy : Fld := ⟨352, 193, 2, 1, .ro, .m, 0⟩
/-- FLT_RESTORE bits 3+:1. -/
def fltRestoreDone : Fld := ⟨353, 193, 3, 1, .rw1c, .m, 0⟩
/-- FLT_RESTORE bits 16+:16. -/
def fltRestoreStatus : Fld := ⟨354, 193, 16, 16, .ro, .m, 0⟩
/-- FLT_RESTORE_RX_ERRORS (R718). -/
def fltRestoreRxErrorsReg : Reg := ⟨194, 0xe00230, 4, 1, 0x4000000, 1, 0x4000000⟩
/-- FLT_RESTORE_RX_ERRORS bits 0+:32. -/
def fltRestoreRxErrorsCount : Fld := ⟨355, 194, 0, 32, .ro, .m, 0⟩
/-- HDL_STATUS (R750). -/
def hdlStatusReg : Reg := ⟨195, 0xf00000, 8, 1, 0x4000000, 1, 0x4000000⟩
/-- HDL_STATUS bits 0+:2. -/
def hdlStatusState : Fld := ⟨356, 195, 0, 2, .ro, .m, 0⟩
/-- HDL_STATUS bits 2+:2. -/
def hdlStatusCause : Fld := ⟨357, 195, 2, 2, .ro, .m, 0⟩
/-- HDL_STATUS bits 4+:1. -/
def hdlStatusCfgCopy : Fld := ⟨358, 195, 4, 1, .ro, .m, 0⟩
/-- HDL_STATUS bits 5+:1. -/
def hdlStatusFwSlot : Fld := ⟨359, 195, 5, 1, .ro, .m, 0⟩
/-- HDL_STATUS bits 6+:1. -/
def hdlStatusStaged : Fld := ⟨360, 195, 6, 1, .ro, .m, 0⟩
/-- HDL_STATUS bits 16+:16. -/
def hdlStatusRestarts : Fld := ⟨361, 195, 16, 16, .ro, .c, 0⟩
/-- HDL_FW (R750). -/
def hdlFwReg : Reg := ⟨196, 0xf00008, 8, 1, 0x4000000, 1, 0x4000000⟩
/-- HDL_FW bits 0+:32. -/
def hdlFwVersion : Fld := ⟨362, 196, 0, 32, .ro, .m, 0⟩
/-- HDL_FW bits 32+:16. -/
def hdlFwSvn : Fld := ⟨363, 196, 32, 16, .ro, .m, 0⟩
/-- HDL_FW bits 48+:16. -/
def hdlFwMinSvn : Fld := ⟨364, 196, 48, 16, .ro, .s, 0⟩
/-- HDL_CFG_SEQ (R750). -/
def hdlCfgSeqReg : Reg := ⟨197, 0xf00010, 8, 1, 0x4000000, 1, 0x4000000⟩
/-- HDL_CFG_SEQ bits 0+:64. -/
def hdlCfgSeqSequence : Fld := ⟨365, 197, 0, 64, .ro, .s, 0⟩
/-- HDL_IDj (R750). -/
def hdlIdReg : Reg := ⟨198, 0xf00020, 8, 1, 0x4000000, 4, 0x8⟩
/-- HDL_IDj bits 0+:64. -/
def hdlIdId : Fld := ⟨366, 198, 0, 64, .ro, .m, 0⟩
/-- HDL_ATTEST (R750). -/
def hdlAttestReg : Reg := ⟨199, 0xf00040, 8, 1, 0x4000000, 1, 0x4000000⟩
/-- HDL_ATTEST bits 0+:40. -/
def hdlAttestNext : Fld := ⟨367, 199, 0, 40, .ro, .m, 0⟩
/-- HDL_LOG_SEQ (R750). -/
def hdlLogSeqReg : Reg := ⟨200, 0xf00048, 8, 1, 0x4000000, 1, 0x4000000⟩
/-- HDL_LOG_SEQ bits 0+:64. -/
def hdlLogSeqSeq : Fld := ⟨368, 200, 0, 64, .ro, .m, 0⟩
/-- HDL_MEASm_j (R750). -/
def hdlMeasjReg : Reg := ⟨201, 0xf00400, 8, 16, 0x20, 4, 0x8⟩
/-- HDL_MEASm_j bits 0+:64. -/
def hdlMeasjValue : Fld := ⟨369, 201, 0, 64, .ro, .m, 0⟩
/-- HDL_SENSORk (R750). -/
def hdlSensorReg : Reg := ⟨202, 0xf00800, 8, 1, 0x4000000, 71, 0x8⟩
/-- HDL_SENSORk bits 0+:16. -/
def hdlSensorValue : Fld := ⟨370, 202, 0, 16, .ro, .m, 0⟩
/-- HDL_SENSORk bits 16+:2. -/
def hdlSensorLevel : Fld := ⟨371, 202, 16, 2, .ro, .c, 0⟩
/-- HDL_SENSORk bits 32+:16. -/
def hdlSensorWarn : Fld := ⟨372, 202, 32, 16, .rw, .s, 0⟩
/-- HDL_SENSORk bits 48+:16. -/
def hdlSensorCrit : Fld := ⟨373, 202, 48, 16, .rw, .s, 0⟩
/-- PWR_STATUS (R774). -/
def pwrStatusReg : Reg := ⟨203, 0x1000000, 8, 1, 0x4000000, 1, 0x4000000⟩
/-- PWR_STATUS bits 0+:2. -/
def pwrStatusHoldState : Fld := ⟨374, 203, 0, 2, .ro, .m, 0⟩
/-- PWR_STATUS bits 2+:1. -/
def pwrStatusReady : Fld := ⟨375, 203, 2, 1, .ro, .m, 0⟩
/-- PWR_STATUS bits 3+:1. -/
def pwrStatusTrip : Fld := ⟨376, 203, 3, 1, .ro, .c, 0⟩
/-- PWR_STATUS bits 4+:1. -/
def pwrStatusHoldRefused : Fld := ⟨377, 203, 4, 1, .rw1c, .m, 0⟩
/-- PWR_STATUS bits 16+:16. -/
def pwrStatusNap : Fld := ⟨378, 203, 16, 16, .ro, .m, 0⟩
/-- PWR_STATUS bits 32+:16. -/
def pwrStatusIdle : Fld := ⟨379, 203, 32, 16, .ro, .m, 0⟩
/-- PWR_RESET_CAUSE (R774). -/
def pwrResetCauseReg : Reg := ⟨204, 0x1000008, 4, 1, 0x4000000, 1, 0x4000000⟩
/-- PWR_RESET_CAUSE bits 0+:4. -/
def pwrResetCauseCause : Fld := ⟨380, 204, 0, 4, .ro, .c, 0⟩
/-- PWR_CTRL (R774). -/
def pwrCtrlReg : Reg := ⟨205, 0x1000010, 4, 1, 0x4000000, 1, 0x4000000⟩
/-- PWR_CTRL bits 0+:1. -/
def pwrCtrlHold : Fld := ⟨381, 205, 0, 1, .wo, .m, 0⟩
/-- PWR_CTRL bits 1+:1. -/
def pwrCtrlWake : Fld := ⟨382, 205, 1, 1, .wo, .m, 0⟩
/-- PWR_CTRL bits 2+:1. -/
def pwrCtrlHandleRestart : Fld := ⟨383, 205, 2, 1, .wo, .m, 0⟩
/-- PWR_CFG (R774). -/
def pwrCfgReg : Reg := ⟨206, 0x1000018, 4, 1, 0x4000000, 1, 0x4000000⟩
/-- PWR_CFG bits 0+:1. -/
def pwrCfgNapEn : Fld := ⟨384, 206, 0, 1, .rw, .m, 1⟩
/-- PWR_CFG bits 8+:8. -/
def pwrCfgNapDelay : Fld := ⟨385, 206, 8, 8, .rw, .m, 10⟩
/-- PWR_PART_RESET (R774). -/
def pwrPartResetReg : Reg := ⟨207, 0x1000020, 4, 1, 0x4000000, 1, 0x4000000⟩
/-- PWR_PART_RESET bits 0+:6. -/
def pwrPartResetPartition : Fld := ⟨386, 207, 0, 6, .wo, .m, 0⟩
/-- PWR_PART_RESET bits 6+:1. -/
def pwrPartResetRequest : Fld := ⟨387, 207, 6, 1, .wo, .m, 0⟩
/-- PWR_PART_RESET bits 7+:1. -/
def pwrPartResetBusy : Fld := ⟨388, 207, 7, 1, .ro, .m, 0⟩
/-- PWR_HOLD_ENTRIES (R774). -/
def pwrHoldEntriesReg : Reg := ⟨208, 0x1000028, 4, 1, 0x4000000, 1, 0x4000000⟩
/-- PWR_HOLD_ENTRIES bits 0+:32. -/
def pwrHoldEntriesCount : Fld := ⟨389, 208, 0, 32, .ro, .c, 0⟩
/-- GLB_PART (R809). -/
def glbPartReg : Reg := ⟨209, 0x0, 4, 1, 0x4000000, 1, 0x4000000⟩
/-- GLB_PART bits 0+:24. -/
def glbPartPart : Fld := ⟨390, 209, 0, 24, .ro, .c, 3276801⟩
/-- GLB_PART bits 24+:8. -/
def glbPartFamily : Fld := ⟨391, 209, 24, 8, .ro, .c, 11⟩
/-- GLB_STEPPING (R809). -/
def glbSteppingReg : Reg := ⟨210, 0x8, 4, 1, 0x4000000, 1, 0x4000000⟩
/-- GLB_STEPPING bits 0+:4. -/
def glbSteppingStepping : Fld := ⟨392, 210, 0, 4, .ro, .c, 0⟩
/-- GLB_CAPS (R809). -/
def glbCapsReg : Reg := ⟨211, 0x10, 8, 1, 0x4000000, 1, 0x4000000⟩
/-- GLB_CAPS bits 0+:8. -/
def glbCapsCoils : Fld := ⟨393, 211, 0, 8, .ro, .c, 16⟩
/-- GLB_CAPS bits 8+:8. -/
def glbCapsStakesPerCoil : Fld := ⟨394, 211, 8, 8, .ro, .c, 96⟩
/-- GLB_CAPS bits 16+:16. -/
def glbCapsContexts : Fld := ⟨395, 211, 16, 16, .ro, .c, 4096⟩
/-- GLB_CAPS bits 32+:8. -/
def glbCapsPartitions : Fld := ⟨396, 211, 32, 8, .ro, .c, 64⟩
/-- GLB_CAPS bits 40+:8. -/
def glbCapsTotalVfs : Fld := ⟨397, 211, 40, 8, .ro, .c, 63⟩
/-- GLB_CAPS bits 48+:16. -/
def glbCapsSessions : Fld := ⟨398, 211, 48, 16, .ro, .c, 512⟩
/-- GLB_BAR2_BASE (R809). -/
def glbBar2BaseReg : Reg := ⟨212, 0x18, 8, 1, 0x4000000, 1, 0x4000000⟩
/-- GLB_BAR2_BASE bits 0+:48. -/
def glbBar2BaseBase : Fld := ⟨399, 212, 0, 48, .rw, .m, 0⟩
/-- GLB_SCRATCH (R809). -/
def glbScratchReg : Reg := ⟨213, 0x20, 8, 1, 0x4000000, 1, 0x4000000⟩
/-- GLB_SCRATCH bits 0+:64. -/
def glbScratchValue : Fld := ⟨400, 213, 0, 64, .rw, .m, 0⟩
/-- GLB_ERR (R809). -/
def glbErrReg : Reg := ⟨214, 0x28, 8, 1, 0x4000000, 1, 0x4000000⟩
/-- GLB_ERR bits 0+:26. -/
def glbErrOffset : Fld := ⟨401, 214, 0, 26, .ro, .m, 0⟩
/-- GLB_ERR bits 31+:1. -/
def glbErrValid : Fld := ⟨402, 214, 31, 1, .rw1c, .m, 0⟩
/-- GLB_ERR bits 32+:32. -/
def glbErrCount : Fld := ⟨403, 214, 32, 32, .ro, .m, 0⟩

end R

/-- The registers, part 0. -/
def allRegs0 : List Reg :=
  [R.roundCfgReg, R.roundStatusReg, R.roundCountReg, R.roundCountSetReg, R.roundOffsetReg,
   R.roundDelayReg, R.roundStretchCfgReg, R.roundStretchReqReg, R.roundStretchStatusReg,
   R.weaveImageBaseReg, R.weaveCtrlReg, R.weaveStartReg, R.weaveCyclesReg, R.weaveStatusReg,
   R.weaveOccurrenceReg, R.weaveSlipMaxReg, R.weaveSlipTotalReg, R.cmdPollCfgReg,
   R.cmdPollDeferredReg, R.cmdPacketsReg, R.cmdFetchErrorsReg, R.ctxCtrlReg, R.ctxStatusReg,
   R.ctxCfgReg, R.ctxSeedReg, R.ctxPtRootReg, R.ctxEventBaseReg, R.ctxEventCfgReg,
   R.ctxCqBaseReg, R.ctxCqCfgReg, R.ctxCqIdxAddrReg, R.ctxLastErrorReg, R.ctxRingBaseReg,
   R.ctxRingCfgReg, R.ctxRingIdxAddrReg, R.ctxRingCiReg, R.partEnergyInputReg,
   R.partEnergyIdleReg, R.partEnergyCoefReg, R.partCfgReg]
/-- The registers, part 1. -/
def allRegs1 : List Reg :=
  [R.partSkeinsReg, R.partResReg, R.partVidReg, R.partStatusReg, R.partDispatchesReg,
   R.partOverrunsReg, R.partRegHbmReg, R.partRegHamperReg, R.partRegWaleReg, R.partRegPcieReg,
   R.partHeldReg, R.partCtxSchedReg, R.partCtxStateReg, R.partCtxVtimeReg, R.partAcctStakeReg,
   R.partAcctHbmReg, R.partAcctHamperReg, R.partAcctCreelReg, R.partAcctPcieReg,
   R.partAcctWaleTxReg, R.partAcctWaleRxReg, R.partAcctEnergyReg, R.stakeStatusReg,
   R.stakeBusyReg, R.stakeMmActiveReg, R.stakeOperandStallReg, R.stakeCreditWaitReg,
   R.stakeDescriptorsReg, R.stakeSaturationsReg, R.stakeCreditsReg, R.sfuDefaultBaseReg,
   R.sfuLoadsReg, R.sfuBusyReg, R.sfuRestoresReg, R.sfuSlotReg, R.poolPselReqsReg,
   R.poolPselFramesReg, R.poolPselNoPageReg, R.poolPselDeferredReg, R.poolPselBusyReg]
/-- The registers, part 2. -/
def allRegs2 : List Reg :=
  [R.plaitCrcErrorsReg, R.plaitStaleReg, R.plaitNoTableReg, R.plaitImageInReg,
   R.plaitStoredOutReg, R.plaitRawBlocksReg, R.plaitLoadWaitReg, R.plaitEhriskBlocksReg,
   R.plaitCslotReg, R.plaitBslotReg, R.memStatusReg, R.memHbmEndReg, R.memWindowBaseReg,
   R.memWindowSizeReg, R.memChanLiveReg, R.memChanPendingReg, R.memMapoutReg,
   R.memHealthCfgReg, R.memScrubCfgReg, R.memAddOpsReg, R.memAddHeldReg, R.memErrLogReg,
   R.memChanCeReg, R.memChanStateReg, R.memHoopBaseReg, R.memHoopLenReg, R.memHoopCfgReg,
   R.memHoopStateReg, R.creelWaycfgReg, R.creelHitsReg, R.creelMissesReg,
   R.creelWritebacksReg, R.creelEccCeReg, R.creelEccUeReg, R.mmuInvalidationsReg,
   R.hampStatusReg, R.hampCfgReg, R.hampCapReg, R.hampEndReg, R.hampChanStateReg]
/-- The registers, part 3. -/
def allRegs3 : List Reg :=
  [R.mmuWalksReg, R.mmuWalkWaitReg, R.mmuHampWaitReg, R.mmuMoveHoldReg, R.mmuFaultsReg,
   R.poolCfgReg, R.poolHbmReg, R.poolHampReg, R.poolTableReg, R.poolCountsReg, R.poolFreeReg,
   R.poolEvictionsReg, R.poolMissesReg, R.waleCfgReg, R.walePairReg, R.waleRouteReg,
   R.walePortCtrlReg, R.walePortStatusReg, R.waleFecCorrReg, R.waleFecUncorrReg,
   R.waleCrcErrReg, R.waleRetriesReg, R.waleTxFlitsReg, R.waleRxFlitsReg, R.waleRxDroppedReg,
   R.waleDownCountReg, R.waleCreditWaitReg, R.waleLtCtrlReg, R.waleLtStatusReg,
   R.waleLtBitsReg, R.waleLtErrorsReg, R.waleLtLaneErrReg, R.collCfgReg, R.collEarlyUseReg,
   R.collDroppedReg, R.collChanCfgReg, R.collChanStatusReg, R.collChanOpsReg,
   R.collChanWaitReg, R.collChanWaitMaxReg]
/-- The registers, part 4. -/
def allRegs4 : List Reg :=
  [R.collChanEarlyReg, R.collGroupCfgReg, R.collGroupRanksReg, R.collGroupSeqReg, R.vidCfgReg,
   R.vidSyntaxBaseReg, R.vidSyntaxSizeReg, R.vidDecFramesReg, R.vidEncFramesReg,
   R.vidPixelsReg, R.vidConcealedReg, R.vidSkippedReg, R.vidEntropyBusyReg,
   R.vidEntropyHeldReg, R.vidPixelBusyReg, R.vidPixelStarvedReg, R.vidJobsReg,
   R.vidSessionReg, R.fltStatusReg, R.fltRingBaseReg, R.fltRingCfgReg, R.fltRingPiReg,
   R.fltRingCiReg, R.fltCountReg, R.fltRemoteReg, R.fltDroppedReg, R.fltJobReg, R.fltLastReg,
   R.fltMirrorRxBaseReg, R.fltMirrorRxLenReg, R.fltMirrorCfgReg, R.fltMirrorEpochReg,
   R.fltMirrorStatusReg, R.fltRestoreReg, R.fltRestoreRxErrorsReg, R.hdlStatusReg, R.hdlFwReg,
   R.hdlCfgSeqReg, R.hdlIdReg, R.hdlAttestReg]
/-- The registers, part 5. -/
def allRegs5 : List Reg :=
  [R.hdlLogSeqReg, R.hdlMeasjReg, R.hdlSensorReg, R.pwrStatusReg, R.pwrResetCauseReg,
   R.pwrCtrlReg, R.pwrCfgReg, R.pwrPartResetReg, R.pwrHoldEntriesReg, R.glbPartReg,
   R.glbSteppingReg, R.glbCapsReg, R.glbBar2BaseReg, R.glbScratchReg, R.glbErrReg]
/-- The registers. -/
def allRegs : List Reg :=
  allRegs0 ++ allRegs1 ++ allRegs2 ++ allRegs3 ++ allRegs4 ++ allRegs5
/-- The fields, part 0. -/
def allFlds0 : List Fld :=
  [R.roundCfgRole, R.roundCfgTimingPort, R.roundCfgBackupPort, R.roundCfgBackupEn,
   R.roundCfgLenTicks, R.roundStatusLocked, R.roundStatusOnBackup, R.roundStatusDepth,
   R.roundStatusCfgRefused, R.roundStatusLockLost, R.roundStatusDepthExceeded,
   R.roundStatusNoLock, R.roundCountCount, R.roundCountSetCount, R.roundOffsetOffset,
   R.roundDelayDelay, R.roundStretchCfgEnable, R.roundStretchCfgThresh,
   R.roundStretchCfgStepTicks, R.roundStretchCfgMaxTicks, R.roundStretchReqAmount,
   R.roundStretchStatusApplied, R.roundStretchStatusRequested, R.weaveImageBaseBase,
   R.weaveCtrlEntries, R.weaveCtrlLoad, R.weaveCtrlArm, R.weaveCtrlStop, R.weaveCtrlStopNow,
   R.weaveCtrlCycleLen, R.weaveStartStart, R.weaveCyclesCycles, R.weaveStatusState,
   R.weaveStatusDone, R.weaveStatusRefused, R.weaveStatusError, R.weaveStatusErrorEntry,
   R.weaveOccurrenceK, R.weaveSlipMaxEntry, R.weaveSlipMaxSlip]
/-- The fields, part 1. -/
def allFlds1 : List Fld :=
  [R.weaveSlipTotalTotal, R.cmdPollCfgBudget, R.cmdPollDeferredCount, R.cmdPacketsCount,
   R.cmdFetchErrorsCount, R.ctxCtrlCmd, R.ctxStatusState, R.ctxStatusCqFull,
   R.ctxStatusPollDeferred, R.ctxStatusCmdRefused, R.ctxStatusWaitBlocked,
   R.ctxStatusDispatched, R.ctxCfgPartition, R.ctxCfgFunction, R.ctxCfgFront,
   R.ctxCfgRealtime, R.ctxCfgPollInterval, R.ctxCfgMsixVector, R.ctxSeedSeed,
   R.ctxPtRootValid, R.ctxPtRootRoot, R.ctxEventBaseBase, R.ctxEventCfgCount, R.ctxCqBaseBase,
   R.ctxCqCfgLog2Size, R.ctxCqCfgModerate, R.ctxCqCfgEnable, R.ctxCqIdxAddrAddr,
   R.ctxLastErrorStatus, R.ctxLastErrorRing, R.ctxLastErrorCq, R.ctxLastErrorSlot,
   R.ctxRingBaseBase, R.ctxRingCfgLog2Slots, R.ctxRingCfgEnable, R.ctxRingIdxAddrAddr,
   R.ctxRingCiCi, R.partEnergyInputEnergy, R.partEnergyIdleEnergy, R.partEnergyCoefCoef]
/-- The fields, part 2. -/
def allFlds2 : List Fld :=
  [R.partCfgEnable, R.partCfgRealtime, R.partCfgFunction, R.partCfgMaxRunBound,
   R.partCfgUrgency, R.partSkeinsSkeins, R.partResCollChannels, R.partResPlaitBorderSlots,
   R.partResBwShare, R.partResMirror, R.partVidSessionFirst, R.partVidSessionCount,
   R.partStatusCfgRefused, R.partStatusUrgent, R.partDispatchesCount, R.partOverrunsCount,
   R.partRegHbmEnable, R.partRegHbmRate, R.partRegHbmBurst, R.partRegHamperEnable,
   R.partRegHamperRate, R.partRegHamperBurst, R.partRegWaleEnable, R.partRegWaleRate,
   R.partRegWaleBurst, R.partRegPcieEnable, R.partRegPcieRate, R.partRegPcieBurst,
   R.partHeldCycles, R.partCtxSchedShare, R.partCtxStateUrgent, R.partCtxStateWaiting,
   R.partCtxStateOverBound, R.partCtxStateAge, R.partCtxVtimeVtime, R.partAcctStakeCount,
   R.partAcctHbmCount, R.partAcctHamperCount, R.partAcctCreelCount, R.partAcctPcieCount]
/-- The fields, part 3. -/
def allFlds3 : List Fld :=
  [R.partAcctWaleTxCount, R.partAcctWaleRxCount, R.partAcctEnergyCount, R.stakeStatusState,
   R.stakeStatusCreditOverflow, R.stakeStatusContext, R.stakeStatusDescIndex,
   R.stakeBusyCycles, R.stakeMmActiveCycles, R.stakeOperandStallCycles,
   R.stakeCreditWaitCycles, R.stakeDescriptorsCount, R.stakeSaturationsCount,
   R.stakeCreditsCredit4j, R.stakeCreditsCredit4j1, R.stakeCreditsCredit4j2,
   R.stakeCreditsCredit4j3, R.sfuDefaultBaseBase, R.sfuLoadsCount, R.sfuBusyCount,
   R.sfuRestoresCount, R.sfuSlotFunction, R.sfuSlotLoaded, R.sfuSlotBound, R.sfuSlotHeld,
   R.sfuSlotEval, R.sfuSlotKeyId, R.sfuSlotVerified, R.poolPselReqsCount,
   R.poolPselFramesCount, R.poolPselNoPageCount, R.poolPselDeferredCount,
   R.poolPselBusyCycles, R.plaitCrcErrorsCount, R.plaitStaleCount, R.plaitNoTableCount,
   R.plaitImageInBytes, R.plaitStoredOutBytes, R.plaitRawBlocksCount, R.plaitLoadWaitCycles]
/-- The fields, part 4. -/
def allFlds4 : List Fld :=
  [R.plaitEhriskBlocksCount, R.plaitCslotGeneration, R.plaitCslotLoaded, R.plaitCslotClosed,
   R.plaitCslotEhrisk, R.plaitCslotPlanes, R.plaitCslotQueued, R.plaitBslotGeneration,
   R.plaitBslotLoaded, R.plaitBslotClosed, R.plaitBslotEhrisk, R.plaitBslotPlanes,
   R.plaitBslotQueued, R.memStatusLayoutChanged, R.memStatusScrubActive, R.memHbmEndEnd,
   R.memWindowBaseBase, R.memWindowSizeSize, R.memChanLiveLive, R.memChanPendingPending,
   R.memMapoutChannel, R.memMapoutRequest, R.memHealthCfgCeLimit, R.memHealthCfgWindowLog2,
   R.memHealthCfgDefer, R.memScrubCfgHours, R.memScrubCfgEnable, R.memAddOpsCount,
   R.memAddHeldCycles, R.memErrLogChannel, R.memErrLogAddress, R.memErrLogValid,
   R.memChanCeCe, R.memChanStateUe, R.memChanStateState, R.memHoopBaseBase,
   R.memHoopLenLength, R.memHoopCfgN, R.memHoopCfgEnable, R.memHoopStateNextTag]
/-- The fields, part 5. -/
def allFlds5 : List Fld :=
  [R.memHoopStateEpoch, R.creelWaycfgScratch, R.creelWaycfgBusy, R.creelHitsCount,
   R.creelMissesCount, R.creelWritebacksCount, R.creelEccCeCount, R.creelEccUeCount,
   R.mmuInvalidationsCount, R.hampStatusLayoutChanged, R.hampStatusLive, R.hampCfgTimeoutUs,
   R.hampCapBytes, R.hampEndEnd, R.hampChanStateLive, R.hampChanStateFailed,
   R.hampChanStateUe, R.hampChanStateCe, R.mmuWalksCount, R.mmuWalkWaitCycles,
   R.mmuHampWaitCycles, R.mmuMoveHoldCycles, R.mmuFaultsCount, R.poolCfgEnable, R.poolCfgKeep,
   R.poolCfgCfgRefused, R.poolCfgHome, R.poolCfgFrameLog2, R.poolCfgPartition, R.poolHbmBase,
   R.poolHampBase, R.poolTableBase, R.poolCountsHbmFrames, R.poolCountsHampFrames,
   R.poolFreeHbmFree, R.poolFreeHampFree, R.poolEvictionsCount, R.poolMissesCount,
   R.poolMissesFailedPops, R.waleCfgModuleId]
/-- The fields, part 6. -/
def allFlds6 : List Fld :=
  [R.waleCfgForward, R.walePairPartner, R.walePairEnable, R.waleRoutePort0, R.waleRoutePort1,
   R.waleRoutePort2, R.waleRoutePort3, R.waleRouteValid0, R.waleRouteValid1,
   R.waleRouteValid2, R.waleRouteValid3, R.walePortCtrlEnable, R.walePortCtrlMedium,
   R.walePortCtrlJob, R.walePortCtrlLoop, R.walePortStatusState, R.walePortStatusPeer,
   R.walePortStatusLaneReversed, R.walePortStatusPolarity, R.walePortStatusTrainFail,
   R.walePortStatusPairMismatch, R.walePortStatusPeerId, R.walePortStatusPeerPort,
   R.waleFecCorrCount, R.waleFecUncorrCount, R.waleCrcErrCount, R.waleRetriesCount,
   R.waleTxFlitsCount, R.waleRxFlitsCount, R.waleRxDroppedCount, R.waleDownCountCount,
   R.waleCreditWaitCycles, R.waleLtCtrlPattern, R.waleLtCtrlStart, R.waleLtCtrlStop,
   R.waleLtCtrlLoop, R.waleLtCtrlLanes, R.waleLtCtrlInject, R.waleLtCtrlDuration,
   R.waleLtStatusState]
/-- The fields, part 7. -/
def allFlds7 : List Fld :=
  [R.waleLtStatusSync, R.waleLtBitsCount, R.waleLtErrorsCount, R.waleLtLaneErrCount,
   R.collCfgTimeout, R.collCfgEager, R.collEarlyUseUsed, R.collEarlyUsePeak,
   R.collDroppedCount, R.collChanCfgScheduled, R.collChanStatusState, R.collChanStatusPosted,
   R.collChanStatusStep, R.collChanStatusGroup, R.collChanStatusSequence, R.collChanOpsCount,
   R.collChanWaitRounds, R.collChanWaitMaxRounds, R.collChanEarlyBytes, R.collGroupCfgEnable,
   R.collGroupCfgCfgRefused, R.collGroupCfgPartition, R.collGroupCfgRank, R.collGroupCfgSize,
   R.collGroupRanksBase, R.collGroupSeqNext, R.collGroupSeqCompleted, R.vidCfgRunahead,
   R.vidSyntaxBaseBase, R.vidSyntaxSizeSize, R.vidDecFramesCount, R.vidEncFramesCount,
   R.vidPixelsCount, R.vidConcealedCount, R.vidSkippedCount, R.vidEntropyBusyCycles,
   R.vidEntropyHeldCycles, R.vidPixelBusyCycles, R.vidPixelStarvedCycles, R.vidJobsQueued]
/-- The fields, part 8. -/
def allFlds8 : List Fld :=
  [R.vidSessionState, R.vidSessionEncode, R.vidSessionCodec, R.vidSessionCluster,
   R.vidSessionBit10, R.vidSessionContext, R.vidSessionFrames, R.fltStatusJobHalted,
   R.fltStatusFault, R.fltStatusRingFull, R.fltRingBaseBase, R.fltRingCfgLog2Size,
   R.fltRingCfgEnable, R.fltRingCfgMsixVector, R.fltRingPiPi, R.fltRingCiCi, R.fltCountCount,
   R.fltRemoteCount, R.fltDroppedCount, R.fltJobLo, R.fltJobHi, R.fltLastRecord,
   R.fltMirrorRxBaseBase, R.fltMirrorRxLenLength, R.fltMirrorCfgRestoreRx,
   R.fltMirrorCfgRestoreCtx, R.fltMirrorEpochNext, R.fltMirrorStatusEpoch,
   R.fltMirrorStatusBank, R.fltMirrorStatusValid, R.fltRestoreStart, R.fltRestoreBank,
   R.fltRestoreBusy, R.fltRestoreDone, R.fltRestoreStatus, R.fltRestoreRxErrorsCount,
   R.hdlStatusState, R.hdlStatusCause, R.hdlStatusCfgCopy, R.hdlStatusFwSlot]
/-- The fields, part 9. -/
def allFlds9 : List Fld :=
  [R.hdlStatusStaged, R.hdlStatusRestarts, R.hdlFwVersion, R.hdlFwSvn, R.hdlFwMinSvn,
   R.hdlCfgSeqSequence, R.hdlIdId, R.hdlAttestNext, R.hdlLogSeqSeq, R.hdlMeasjValue,
   R.hdlSensorValue, R.hdlSensorLevel, R.hdlSensorWarn, R.hdlSensorCrit, R.pwrStatusHoldState,
   R.pwrStatusReady, R.pwrStatusTrip, R.pwrStatusHoldRefused, R.pwrStatusNap, R.pwrStatusIdle,
   R.pwrResetCauseCause, R.pwrCtrlHold, R.pwrCtrlWake, R.pwrCtrlHandleRestart, R.pwrCfgNapEn,
   R.pwrCfgNapDelay, R.pwrPartResetPartition, R.pwrPartResetRequest, R.pwrPartResetBusy,
   R.pwrHoldEntriesCount, R.glbPartPart, R.glbPartFamily, R.glbSteppingStepping,
   R.glbCapsCoils, R.glbCapsStakesPerCoil, R.glbCapsContexts, R.glbCapsPartitions,
   R.glbCapsTotalVfs, R.glbCapsSessions, R.glbBar2BaseBase]
/-- The fields, part 10. -/
def allFlds10 : List Fld :=
  [R.glbScratchValue, R.glbErrOffset, R.glbErrValid, R.glbErrCount]
/-- The fields. -/
def allFlds : List Fld :=
  allFlds0 ++ allFlds1 ++ allFlds2 ++ allFlds3 ++ allFlds4 ++ allFlds5 ++ allFlds6 ++ allFlds7 ++ allFlds8 ++ allFlds9 ++ allFlds10

/-- The register at a BAR0 offset, with its element number, or none where the offset holds no
register (R805). -/
def Reg.elem (r : Reg) (off : Nat) : Option Nat :=
  if off < r.off then none
  else
    let d := off - r.off
    let i := d / r.s1
    let e := d % r.s1
    let j := e / r.s2
    if i < r.n1 ∧ j < r.n2 ∧ e % r.s2 = 0 then some (i * r.n2 + j) else none

/-- First register of a list that has an element at the offset. -/
def findReg : List Reg → Nat → Option (Reg × Nat)
  | [], _ => none
  | r :: rs, off =>
    match r.elem off with
    | some i => some (r, i)
    | none => findReg rs off

/-- The register at a BAR0 offset. -/
def regAt (off : Nat) : Option (Reg × Nat) := findReg allRegs off

/-- The fields of a register. -/
def Reg.flds (r : Reg) : List Fld := allFlds.filter (fun f => f.reg == r.id)

/-- Elements of a register's array. -/
def Reg.count (r : Reg) : Nat := r.n1 * r.n2

/-- The field of a given number. -/
def fldOf (id : Nat) : Option Fld := allFlds.find? (fun f => f.id == id)

/-- The key under which element i of a field is stored: 1,024 keys for each element number. -/
def Fld.key (f : Fld) (i : Nat) : Nat := i * 1024 + f.id

end Sys2Proof.Machine
end

