-- ==== Sys2Proof/Machine/State.lean ====
section
/-!
DEFINITION. The state of the module as plain data, and the state after reset.
-/

namespace Sys2Proof.Machine

/-- Reasons for which the model stops with a fault.  None: every event that the spec calls a fault
is an effect on the state (a fault record, a halt), and every access has the outcome the spec gives. -/
inductive Fault where
  deriving DecidableEq, Repr

/-- Reasons for which the model refuses a command. -/
inductive Refusal where
  /-- Raised by the dispatch for a command that has no meaning yet.  Safe: the model stops. -/
  | notModelled (mnemonic : String)
  deriving DecidableEq, Repr

/-- How a packet, a descriptor or a request ended: status, detail and info (R139). -/
structure Done where
  status : Nat
  detail : Nat
  info : Nat
  deriving DecidableEq, Repr

/-- A packet in a ring's queue (R118, R122): `elig` is the boundary from which it is eligible, `reject` the status found
at fetch, `evalAt` the Round of the last evaluation of a WAIT_MEM (R120, R127, R132, R817). -/
structure Packet where
  ring : Nat
  slot : Nat
  words : Nat
  elig : Nat
  reject : Option Done
  evalAt : Option Nat
  deriving DecidableEq, Repr

/-- A dispatched packet that has not completed (R124); `fin` once its work has ended. -/
structure Job where
  pkt : Packet
  fin : Option Done
  deriving DecidableEq, Repr

/-- A command ring of a context: the producer index last read, the queue of fetched packets, and
whether unfetched packets remain (R118, R119). -/
structure RingSt where
  pi : Nat
  queue : List Packet
  more : Bool
  fetchAt : Option Nat
  deriving DecidableEq, Repr

/-- What a command front holds for a context (R112, R117, R135, R141, R144, R149). -/
structure CtxSt where
  front : Nat
  counters : SMap Nat
  jobs : List Job
  flushed : List Packet
  cqPi : Nat
  cqCi : Nat
  lastRing : Nat
  lastMsi : Option Nat
  msiDue : Bool
  polled : Option Nat
  ageFrom : Nat
  deriving DecidableEq, Repr

/-- A poll that waits to be made, and whether a RING_POLL entry of this Round asked for it (R117). -/
structure Poll where
  ctx : Nat
  entry : Bool
  deriving DecidableEq, Repr

/-- A waiting weave of a context (R171, R173). -/
structure WaitWeave where
  ctx : Nat
  ring : Nat
  slot : Nat
  image : Nat
  first : Nat
  count : Nat
  bound : Nat
  since : Nat
  deriving DecidableEq, Repr

/-- A weave that holds Stakes (R176).  `stop` is the status, Stake and info that stopped it (R221,
R222), `due` the Round at which its entry fell due (R556), `doneAt` the Round in which it completed. -/
structure Weave where
  id : Nat
  ctx : Nat
  part : Nat
  ring : Nat
  slot : Nat
  image : Nat
  first : Nat
  count : Nat
  bound : Nat
  start : Nat
  launch : Bool
  entry : Nat
  occ : Nat
  due : Nat
  event : Nat
  stop : Option (Nat × Nat × Nat)
  sat : Bool
  overBound : Bool
  cut : Bool
  agens : List Nat
  doneAt : Option Nat
  deriving DecidableEq, Repr

/-- A started descriptor of a Stake: its index in the stream, its 1,024 bits, the functions it
resolved with the slots it holds for them (R344), and how it ended. -/
structure DescRun where
  idx : Nat
  words : Nat
  binds : List (Nat × Nat)
  fin : Option Done
  deriving DecidableEq, Repr

/-- A vector microprogram in progress (R237, R238).  Vector registers are lists of 128 words. -/
structure VprogSt where
  idx : Nat
  prog : List Nat
  pc : Nat
  steps : Nat
  sregs : SMap Nat
  vregs : SMap (List Nat)
  deriving DecidableEq, Repr

/-- A Stake that runs a stream (R218, R219, R229): its weave, the address and length of the stream, the next
descriptor to dispatch and the bits of those fetched from it on, those completed, those (index and bits) that wait in
their queue for their tiles or behind one that does, those started, and the microprogram in progress. -/
structure StakeSt where
  weave : Nat
  stream : Nat
  total : Nat
  next : Nat
  fetched : List Nat
  done : Nat
  queued : List (Nat × Nat)
  started : List DescRun
  vp : Option VprogSt
  deriving DecidableEq, Repr

/-- An occurrence of a Weave entry: waiting for its unit, or accepted and unfinished (R92, R94). -/
structure EntryOcc where
  idx : Nat
  occ : Nat
  due : Nat
  words : Nat
  deriving DecidableEq, Repr

/-- The Weave memory and its sequencer (R79 to R97): the table; a load in progress with the entry count, image base
and cycle length that it took; what the arm took; the last occurrence set by a stop; the occurrences that wait and
those accepted; those that slipped in this Round before they left (entry, occurrence), and those that raise no overrun
of their own any more (R96, R97). -/
structure WeaveTab where
  table : List Nat
  loading : Option (Nat × Nat × Nat)
  armS : Nat
  armC : Nat
  armN : Nat
  lastOcc : Option Nat
  waiting : List EntryOcc
  active : List EntryOcc
  late : List (Nat × Nat)
  quiet : List EntryOcc
  deriving DecidableEq, Repr

/-- A control symbol of a Wale port (R576). -/
inductive Sym where
  | roundSync (count depth len s offset : Nat)
  | roundLen (len at_ : Nat)
  | delayReq (id t1 : Nat)
  | delayResp (id t2 t3 : Nat)
  | stretch (origin n amount : Nat)
  | fault (origin code round : Nat)
  | retry (seq : Nat)
  | credit (slots : List (Nat × Nat))
  | ident (module_ port part : Nat) (master running : Bool)
  | linkDown (reason : Nat)
  deriving DecidableEq, Repr

/-- What the module put on its boundary: an MSI-X message of a function, a control symbol or a flit
on a port, bytes on a management path by the Handle's address there (R721), a level on a pin, what a requester is answered (data, a poisoned completion, a
status), a bus-master request to host memory by its PCI Express address (R40), a pair of codewords on a port's lanes
(R563); and, of a transfer across the mesh, the path that it takes (R28 to R30). -/
inductive Output where
  | msix (fn vector : Nat)
  | sym (port : Nat) (y : Sym)
  | flit (port : Nat) (header : Nat) (payload : List Byte)
  | mctp (path addr : Nat) (msg : List Byte)
  | pin (name : String) (level : Bool)
  | poisoned (addr : Nat)
  | readData (value : Nat)
  | status (st : Nat)
  | host (addr n : Nat) (write : Bool)
  | mesh (path : List Nat)
  | pair (port count : Nat) (lanes : List (List Nat))
  deriving DecidableEq, Repr

/-- Round timing and stretch (R43 to R78): L and the change announced (L, Round); the stretch of the next two Rounds
and one received ahead of its boundary; a master's requests (origin, amount, Round from which it counts) and the STRETCH
symbols seen; the count to take at the next boundary; Rounds of the lock attempt, whether the module has held lock as
a follower, boundaries since the last ROUND_SYNC, Rounds within ±5 ns, the newest 16 delays; the delay request out
(id, t1), the Round of the last one; whether the timing port has left the trained state; the upstream count received, whether
the count is held for it; the reference; the thermal and power requests, the Round of their last step, the Rounds well
below their thresholds and whether a sample of this Round was not; a request to be sent; owed symbols; and, for the
model's own use, the Round boundaries so far, which number the Rounds also where the count jumps (R60, R61). -/
structure RoundSt where
  len : Nat
  newLen : Option (Nat × Nat)
  s1 : Nat
  s2 : Nat
  sIn : Option Nat
  reqs : List (Nat × Nat × Nat)
  seen : List (Nat × Nat)
  setCount : Option Nat
  attempt : Nat
  everLocked : Bool
  syncMiss : Nat
  good : Nat
  meas : List Int
  reqOut : Option (Nat × Nat)
  reqAt : Option Nat
  dropped : Bool
  upCount : Option Nat
  holding : Bool
  refPresent : Bool
  refRounds : Nat
  refNew : Bool
  thermal : Nat
  thermalAt : Nat
  thermalCool : Nat
  warm : Bool
  power : Nat
  powerAt : Nat
  powerCool : Nat
  powerWarm : Bool
  resend : Bool
  repeats : List (Sym × Nat × Nat)
  beats : Nat
  deriving DecidableEq, Repr

/-- A line of a Creel set: its line address and the valid and dirty bits of its two sectors, in a
list whose head is the most recently used (R495, R497). -/
structure Line where
  la : Nat
  v0 : Bool
  v1 : Bool
  d0 : Bool
  d1 : Bool
  deriving DecidableEq, Repr

/-- A cached leaf: context, virtual base, log2 of its span, module physical base, write permission
and Creel policy (R527). -/
structure TlbEnt where
  ctx : Nat
  va : Nat
  log2 : Nat
  pa : Nat
  write : Bool
  noAlloc : Bool
  deriving DecidableEq, Repr

/-- A cached entry of levels 0 to 2: the context, the level of the table it names, the base of the
addresses it covers and the table (R527). -/
structure WalkEnt where
  ctx : Nat
  level : Nat
  va : Nat
  table : Nat
  deriving DecidableEq, Repr

/-- A request to the memory-side adders on its way, or a done marker (R500, R507 to R509): its
requester (a Stake, or 2,048 + 64 × a Wale port + a VC), the SCATTER_ADD descriptor that made it, its context,
sector, format, mask and addends with their source format, its hoop and tag where it is ordered, and
whether the Coil holds it. -/
structure AddReq where
  id : Nat
  who : Nat
  idx : Nat
  ctx : Nat
  marker : Bool
  ordered : Bool
  coil : Nat
  hoop : Nat
  tag : Nat
  held : Bool
  addr : Nat
  fmt : Nat
  src : Nat
  mask : Nat
  addends : List Nat
  deriving DecidableEq, Repr

/-- The memory system beside the bytes themselves: sectors of HBM and the Hamper tier that hold uncorrectable words and
32-bit words of scratch that do, the correctable errors of the current count window, the Creel's lines, the ways being
converted, add requests on their way, the caches of leaves by unit (a Coil, 16 and 17 for the Border dies, 18 + a Stake)
and of walks by die, and the pools' lists (R476, R490 to R499, R508, R527, R543). -/
structure MemSt where
  bad : List Nat
  badWords : List Nat
  ceWindow : SMap Nat
  creel : SMap (List Line)
  converting : SMap Nat
  adds : List AddReq
  nextAdd : Nat
  tlb : SMap (List TlbEnt)
  walks : SMap (List WalkEnt)
  hbmFree : SMap (List Nat)
  hampFree : SMap (List Nat)
  age : SMap (List Nat)
  deriving DecidableEq, Repr

/-- A prefetch list in progress (R549, R552): of a packet, or of a Weave entry. -/
structure PfList where
  id : Nat
  ctx : Nat
  part : Nat
  packet : Option (Nat × Nat)
  entry : Nat
  occ : Nat
  due : Nat
  va : Nat
  count : Nat
  next : Nat
  misses : Nat
  fin : Option Done
  deriving DecidableEq, Repr

/-- Faults and mirror windows: the FAULT symbols seen (R579), the windows in progress with their COMMIT
messages (entry index, occurrence, message numbers), the epoch being received and the ports whose
COMMIT has come (R709), and the RESTORE messages on their way (R715). -/
structure FaultSt where
  seen : List (Nat × Nat × Nat)
  windows : List (Nat × Nat × List Nat)
  rxEpoch : Option Nat
  rxCommits : List Nat
  restore : List Nat
  deriving DecidableEq, Repr

/-- Partition regulators' token counts, by partition and regulator (R185), and the counter values
at the last attribution, its Round and the reference ticks since (R190). -/
structure PartSt where
  tokens : SMap Int
  base : SMap Nat
  lastAttr : Nat
  ticks : Nat
  deriving DecidableEq, Repr

/-- A dispatched packet that loads or binds a table, in the order of dispatch (R348, R447). -/
structure TabPkt where
  ctx : Nat
  ring : Nat
  slot : Nat
  words : Nat
  deriving DecidableEq, Repr

/-- An SFU_BIND that waits for descriptors that hold previous slots (R347): Stake × 8 + slot. -/
structure BindPend where
  ctx : Nat
  ring : Nat
  slot : Nat
  left : List Nat
  deriving DecidableEq, Repr

/-- The SFU tables (R343): the bodies loaded into slots (Stake × 8 + slot), the bindings (Stake × 256
+ function, giving slot + 1, or 0), the dispatched table packets, and the binds that wait.  A slot or
binding that is not listed is that of the default set (R350, R351). -/
structure SfuSt where
  slots : SMap Nat
  binds : SMap Nat
  queue : List TabPkt
  pend : List BindPend
  deriving DecidableEq, Repr

/-- A PLAIT_TABLE_LOAD in progress: the table object and the slots still to be loaded (R447, R448). -/
structure PlaitLoad where
  ctx : Nat
  ring : Nat
  slot : Nat
  table : Nat
  left : List Nat
  deriving DecidableEq, Repr

/-- The Plait table slots (R445): the object in each loaded slot, by slot number (16 for each Coil,
then 16 for each Border die), and the loads in progress. -/
structure PlaitSt where
  tables : SMap Nat
  loads : List PlaitLoad
  deriving DecidableEq, Repr

/-- A message of DATA flits (R571): its number, the port it came in on or leaves by (16 for delivery
within the module), its VC, its destination and source, the 256 bits of its header and its data; the
context it is charged to and whether it is scheduled or transit traffic (R187, R587); the reserved and
shared credits that its flits hold in the receive buffer (R586). -/
structure Msg where
  id : Nat
  port : Nat
  vc : Nat
  dst : Nat
  src : Nat
  header : Nat
  data : List Byte
  ctx : Nat
  sched : Bool
  res : Nat
  shr : Nat
  deriving DecidableEq, Repr

/-- A DATA flit as its sender keeps it (R569, R580). -/
structure DataFlit where
  seq : Nat
  vc : Nat
  first : Bool
  last : Bool
  dst : Nat
  src : Nat
  payload : List Byte
  shared : Bool
  msg : Nat
  deriving DecidableEq, Repr

/-- A message that arrives: the bytes so far and the credits its flits hold (R571, R586). -/
structure RxPart where
  dst : Nat
  src : Nat
  bytes : List Byte
  res : Nat
  shr : Nat
  deriving DecidableEq, Repr

/-- A Wale port beside its registers: the IDENT last received and how many in a row were equal, whether
a bound of R595 was exceeded; to send: the messages that wait, with the bytes of each VC's head that
have gone, the next sequence number, the flits no ack covers, those to resend, the reserved credits in
use by VC and the VCs of the shared credits in use (R580 to R587); received: the next sequence number,
whether RETRY is out, the RETRY symbols in a row for one number, the messages that arrive, by VC, and
the credits to return (63 for the shared pool); the pairs sent, with the flits of the next one (R564); and the partition
whose turn it is and the 64-byte units each partition may still send (R188). -/
structure PortSt where
  idents : Nat
  ident : Nat
  failed : Bool
  out : List Msg
  gone : SMap Nat
  seq : Nat
  kept : List DataFlit
  replay : List Nat
  used : SMap Nat
  shared : List Nat
  expect : Nat
  asked : Bool
  retrySeq : Nat
  retryRun : Nat
  parts : SMap RxPart
  owe : SMap Nat
  pairs : Nat
  filling : List (List Byte)
  turn : Nat
  units : SMap Int
  deriving DecidableEq, Repr

/-- The Wale ports, the messages delivered to the module that wait for their unit, the next message
number, the bytes that open link slots have carried (entry index, occurrence, bytes), and the Rounds in
which running test engines began (R588, R602). -/
structure WaleSt where
  ports : SMap PortSt
  inbox : List Msg
  nextMsg : Nat
  carried : List (Nat × Nat × Nat)
  lt : SMap Nat
  deriving DecidableEq, Repr

/-- A message that a collective step has yet to send: to a rank, for a tree, of some elements; a grant
has none (R628, R629). -/
structure CollXfer where
  rank : Nat
  tree : Nat
  first : Nat
  len : Nat
  grant : Bool
  deriving DecidableEq, Repr

/-- What a step expects from a rank for a tree: its elements, and how many have been applied. -/
structure CollWant where
  rank : Nat
  tree : Nat
  first : Nat
  len : Nat
  got : Nat
  add : Bool
  deriving DecidableEq, Repr

/-- A started step: its index, the Rounds of its start and last progress (R641), the entry that started
it, what it has to send and expects, the ranks that have granted, the image bytes sent by rank, and the
messages that wait for an earlier child's (R631). -/
structure CollStep where
  step : Nat
  start : Nat
  last : Nat
  entry : Option (Nat × Nat)
  todo : List CollXfer
  want : List CollWant
  granted : List Nat
  sent : SMap Nat
  held : List Msg
  deriving DecidableEq, Repr

/-- A posted operation of a collective channel (R616): its packet, whether its contribution is in the
working area, the next step to start, the started steps, the 4 KiB units marked ready (R636), the
messages sent and the largest wait (R632). -/
structure CollOp where
  ctx : Nat
  ring : Nat
  slot : Nat
  words : Nat
  begun : Bool
  next : Nat
  steps : List CollStep
  ready : List Nat
  ids : List Nat
  maxWait : Nat
  deriving DecidableEq, Repr

/-- The collective engines: posted operations by channel (R616) and the messages of the early-arrival
buffers in order of arrival (R637). -/
structure CollSt where
  ops : SMap (List CollOp)
  early : List Msg
  deriving DecidableEq, Repr

/-- A decoded or coming frame of a session: the number of its stream, its index in it, its facts, whether
it is concealed whole, concealed at all, tainted (R673 to R675), and the place and length of its records in the syntax
buffer (R662). -/
structure VidFrame where
  streams : Nat
  idx : Nat
  info : Config.FrameInfo
  whole : Bool
  concealed : Bool
  tainted : Bool
  place : Nat
  len : Nat
  deriving DecidableEq, Repr

/-- A job in a codec cluster's queue (R658): its packet, session, record and colour record; whether its
stream has been read; the frames parsed, whether one is being parsed, the parsed frames that wait for the
pixel engines, whether one is being reconstructed; the frames reconstructed and written, the status
records written, the frames concealed, the bytes used or written; the status at which parsing stopped (R676, R677), and
the status and address at which the job ends, once known. -/
structure VidJob where
  ctx : Nat
  ring : Nat
  slot : Nat
  session : Nat
  words : Nat
  colour : List Nat
  begun : Bool
  parsed : Nat
  parsing : Bool
  ready : List VidFrame
  busy : Bool
  done : Nat
  written : Nat
  records : Nat
  concealed : Nat
  used : Nat
  stop : Option Status
  ends : Option (Status × Nat)
  deriving DecidableEq, Repr

/-- A codec session beside its register: the largest size, the streams of its jobs so far, the frames
decoded, those held for output (by number in decode order), whether RASL pictures are discarded,
the frames coded, whether it needs a key frame, which NEEDS_KEY shows and CLOSING hides, and its work area (R651, R653,
R654, R659, R665, R673, R682). -/
structure VidSess where
  maxW : Nat
  maxH : Nat
  streams : List (List Byte)
  frames : List VidFrame
  held : List Nat
  rasl : Bool
  coded : List (List Nat)
  needs : Bool
  work : Nat
  workLen : Nat
  deriving DecidableEq, Repr

/-- A search window of a pixel engine (R685): the coded frame that it shows, the area for which it was loaded, and the
samples of each plane, row by row. -/
structure VidWindow where
  ref : Nat
  sx : Nat
  sy : Nat
  planes : List (List (List Nat))
  deriving DecidableEq, Repr

/-- The codec clusters: their job queues (R658), the open sessions, and the search windows by cluster, engine and
reference (R685). -/
structure VidSt where
  jobs : SMap (List VidJob)
  sess : SMap VidSess
  windows : SMap VidWindow
  deriving DecidableEq, Repr

/-- A record of the configuration store (R732). -/
structure CfgRec where
  tag : Nat
  writer : Nat
  value : List Byte
  deriving DecidableEq, Repr

/-- A copy of the configuration store (R731, R733): its sequence, whether it is valid, its records. -/
structure CfgCopy where
  seq : Nat
  valid : Bool
  recs : List CfgRec
  deriving DecidableEq, Repr

/-- A firmware image in a slot (R724, R725): `ok` says that its header meets R724, its signature
verifies and it supports the stepping; `digest` is SHAKE256 of it (R744). -/
structure FwImage where
  version : Nat
  svn : Nat
  ok : Bool
  digest : Nat
  deriving DecidableEq, Repr

/-- A request to the Handle: the path it came by (0 the host mailbox, 1 PCI Express, 2 I3C, 3 SMBus),
its number, opcode and payload (R723, R748, R749). -/
structure HdlReq where
  path : Nat
  seq : Nat
  op : Nat
  payload : List Byte
  deriving DecidableEq, Repr

/-- A change of the configuration store that waits for its write (R734): records it sets, tags it
removes, the body it imports, health states of channels and thresholds of sensors (sensor, warning,
critical) that it changes, the sequence number it must exceed, and whether the request in service ends
with it. -/
structure CfgChange where
  set : List CfgRec
  del : List Nat
  body : Option (List CfgRec)
  health : List (Nat × Nat)
  limits : List (Nat × Nat × Nat)
  seq : Nat
  answers : Bool
  deriving DecidableEq, Repr

/-- The Handle: its event log, oldest entry first (R746, R747), the configuration store's copies and
the changes that wait (R731 to R734), the firmware slots and a staging in progress (R720, R727), the
request in service and those that wait (R723), the mailbox (R748), the next attestation index (R743), the
entries that the sensor hub holds through a restart (R752), the samples below the lower threshold and
the last power samples (R739, R785), and what the supply and the management buses show (R721, R722,
R784, R797). -/
structure HdlSt where
  log : List Nat
  copy0 : CfgCopy
  copy1 : CfgCopy
  changes : List CfgChange
  slot0 : Option FwImage
  slot1 : Option FwImage
  staging : Option (Nat × FwImage × HdlReq)
  req : Option HdlReq
  queue : List HdlReq
  mailbox : SMap Byte
  next : Nat
  restarting : Bool
  held : List Nat
  calm : SMap Nat
  watts : List Nat
  tripAt : Option Nat
  excursion : Bool
  calmSupply : Nat
  volts : Nat
  amps : Nat
  eid : Nat
  receiver : Bool
  events : List Nat
  deriving DecidableEq, Repr

/-- Resets and power (R751 to R770): whether the module is Off or its input stage disconnected, the
reset in progress (0 none, 1 its entry done, 2 its exit running), whether it is a cold reset and the
least cause that started it, the level of PERST_N, a wake that waits for the entry of Hold, the Coils
that leave Nap, and the partitions being reset. -/
structure PwrSt where
  off : Bool
  cut : Bool
  stage : Nat
  cold : Bool
  cause : Nat
  perst : Bool
  wake : Bool
  leaving : List Nat
  partReset : List Nat
  deriving DecidableEq, Repr

/-- The state of the module: the register fields that are not at their reset value, the values latched
for the upper half of a 64-bit read and the low halves written and not committed (R12), the bytes of
memory and the base of the default set image (R350), Trays, accumulator tiles and saturation flags
(R203, R208), the units in the order of the chapters, what the module has put on its boundary, the
virtual functions that exist (R154), the number of free values used, and the commands that wait. -/
structure State where
  regs : SMap Nat
  latch : SMap Nat
  staged : SMap Nat
  mem : List Host.Cell
  imgBase : Nat
  trays : SMap Byte
  accs : SMap Nat
  satFlags : List Nat
  rnd : RoundSt
  wtab : WeaveTab
  polls : SMap (List Poll)
  budget : SMap Nat
  rings : SMap RingSt
  ctxs : SMap CtxSt
  waiting : List WaitWeave
  weaves : List Weave
  nextWeave : Nat
  stakes : SMap StakeSt
  parts : PartSt
  lists : List PfList
  ms : MemSt
  flt : FaultSt
  sfu : SfuSt
  plait : PlaitSt
  wale : WaleSt
  coll : CollSt
  vid : VidSt
  hdl : HdlSt
  pwr : PwrSt
  out : List Output
  numVfs : Nat
  free : Nat
  pending : List Instr
  deriving DecidableEq, Repr

/-- Round timing after a cold reset: master, unlocked, 250 ticks (R68, R769).  ROUND_REF is present from the
start, so that Round 0, in which it came, does not count (R66; the spec does not say whether it is present then:
the model's choice, log entry 28). -/
def RoundSt.reset : RoundSt :=
  ⟨250, none, 0, 0, none, [], [], none, 0, false, 0, 0, [], none, none, false, none, false, true, 0, true, 0, 0, 0, false,
    0, 0, 0, false, false, [], 0⟩

/-- A Weave memory that holds nothing. -/
def WeaveTab.reset : WeaveTab := ⟨[], none, 0, 1, 0, none, [], [], [], []⟩

/-- The memory system with nothing cached and no list. -/
def MemSt.reset : MemSt := ⟨[], [], [], [], [], [], 0, [], [], [], [], []⟩

/-- The Handle of a module whose NOR devices hold one valid configuration copy without records and one
firmware image: what the spec does not give (R720). -/
def HdlSt.reset : HdlSt :=
  ⟨[], ⟨0, true, []⟩, ⟨0, false, []⟩, [], some ⟨0, 0, true, 0⟩, none, none, none, [], [], 0, false, [], [], [], none,
    false, 0, 0, 0, 0, false, []⟩

/-- The module as a cold reset begins: every field of every register at its reset value, PERST_N held low,
the configuration store and firmware as `HdlSt.reset` has them, nothing waiting (R756, R768, R769). -/
def State.reset : State where
  regs := []
  latch := []
  staged := []
  mem := []
  imgBase := 0
  trays := []
  accs := []
  satFlags := []
  rnd := RoundSt.reset
  wtab := WeaveTab.reset
  polls := []
  budget := []
  rings := []
  ctxs := []
  waiting := []
  weaves := []
  nextWeave := 0
  stakes := []
  parts := ⟨[], [], 0, 0⟩
  lists := []
  ms := MemSt.reset
  flt := ⟨[], [], none, [], []⟩
  sfu := ⟨[], [], [], []⟩
  plait := ⟨[], []⟩
  wale := ⟨[], [], 0, [], []⟩
  coll := ⟨[], []⟩
  vid := ⟨[], [], []⟩
  hdl := HdlSt.reset
  pwr := ⟨false, false, 1, true, 0, true, false, [], []⟩
  out := []
  numVfs := 0
  free := 0
  pending := []

end Sys2Proof.Machine
end

