-- ==== Sys2Proof/Machine/Status.lean ====
section
/-!
DEFINITION. The status codes of the master table (R162) and the fault codes (R691).
-/

namespace Sys2Proof.Machine

/-- ST_OK. -/
abbrev stOk : Nat := 0x0000
/-- ST_CMD_MALFORMED. -/
abbrev stCmdMalformed : Nat := 0x0101
/-- ST_CMD_OPCODE. -/
abbrev stCmdOpcode : Nat := 0x0102
/-- ST_CMD_PRIVILEGED. -/
abbrev stCmdPrivileged : Nat := 0x0103
/-- ST_CMD_EVENT_RANGE. -/
abbrev stCmdEventRange : Nat := 0x0104
/-- ST_CMD_DENIED. -/
abbrev stCmdDenied : Nat := 0x0105
/-- ST_CMD_FLUSHED. -/
abbrev stCmdFlushed : Nat := 0x0106
/-- ST_CMD_RING_FETCH. -/
abbrev stCmdRingFetch : Nat := 0x0107
/-- ST_CMD_RING_INDEX. -/
abbrev stCmdRingIndex : Nat := 0x0108
/-- ST_CMD_ALIGN. -/
abbrev stCmdAlign : Nat := 0x0109
/-- ST_CMD_LENGTH. -/
abbrev stCmdLength : Nat := 0x010A
/-- ST_MEM_UNBACKED. -/
abbrev stMemUnbacked : Nat := 0x0201
/-- ST_MEM_UNCORRECTABLE. -/
abbrev stMemUncorrectable : Nat := 0x0202
/-- ST_MEM_HAMPER_FAIL. -/
abbrev stMemHamperFail : Nat := 0x0203
/-- ST_MEM_ADDER_FORMAT. -/
abbrev stMemAdderFormat : Nat := 0x0204
/-- ST_XLT_NOT_PRESENT. -/
abbrev stXltNotPresent : Nat := 0x0301
/-- ST_XLT_PERMISSION. -/
abbrev stXltPermission : Nat := 0x0302
/-- ST_XLT_MALFORMED. -/
abbrev stXltMalformed : Nat := 0x0303
/-- ST_XLT_WALK_ERROR. -/
abbrev stXltWalkError : Nat := 0x0304
/-- ST_KV_NO_PAGE. -/
abbrev stKvNoPage : Nat := 0x0401
/-- ST_KV_ADMIT_DEFERRED. -/
abbrev stKvAdmitDeferred : Nat := 0x0402
/-- ST_KV_PARKED. -/
abbrev stKvParked : Nat := 0x0403
/-- ST_KV_LENGTH. -/
abbrev stKvLength : Nat := 0x0404
/-- ST_PLAIT_CRC. -/
abbrev stPlaitCrc : Nat := 0x0501
/-- ST_PLAIT_STALE_TABLE. -/
abbrev stPlaitStaleTable : Nat := 0x0502
/-- ST_PLAIT_MALFORMED. -/
abbrev stPlaitMalformed : Nat := 0x0503
/-- ST_PLAIT_NO_TABLE. -/
abbrev stPlaitNoTable : Nat := 0x0504
/-- ST_COLL_GROUP. -/
abbrev stCollGroup : Nat := 0x0601
/-- ST_COLL_SEQUENCE. -/
abbrev stCollSequence : Nat := 0x0602
/-- ST_COLL_FORMAT. -/
abbrev stCollFormat : Nat := 0x0603
/-- ST_VID_SESSION. -/
abbrev stVidSession : Nat := 0x0701
/-- ST_VID_UNSUPPORTED. -/
abbrev stVidUnsupported : Nat := 0x0702
/-- ST_VID_DAMAGED. -/
abbrev stVidDamaged : Nat := 0x0703
/-- ST_VID_SESSIONS_FULL. -/
abbrev stVidSessionsFull : Nat := 0x0704
/-- ST_WEAVE_ORDER. -/
abbrev stWeaveOrder : Nat := 0x0801
/-- ST_WEAVE_OFFSET. -/
abbrev stWeaveOffset : Nat := 0x0802
/-- ST_WEAVE_CROWDED. -/
abbrev stWeaveCrowded : Nat := 0x0803
/-- ST_WEAVE_START_PAST. -/
abbrev stWeaveStartPast : Nat := 0x0804
/-- ST_WEAVE_MALFORMED. -/
abbrev stWeaveMalformed : Nat := 0x0805
/-- ST_ROUND_UNLOCKED. -/
abbrev stRoundUnlocked : Nat := 0x0806
/-- ST_RUN_BOUND. -/
abbrev stRunBound : Nat := 0x0807
/-- ST_WEAVE_STAKES. -/
abbrev stWeaveStakes : Nat := 0x0808
/-- ST_WEAVE_IMAGE. -/
abbrev stWeaveImage : Nat := 0x0809
/-- ST_TABLE_BUSY. -/
abbrev stTableBusy : Nat := 0x0901
/-- ST_TABLE_SIGNATURE. -/
abbrev stTableSignature : Nat := 0x0902
/-- ST_TABLE_MALFORMED. -/
abbrev stTableMalformed : Nat := 0x0903
/-- ST_TABLE_UNBOUND. -/
abbrev stTableUnbound : Nat := 0x0904
/-- ST_FAULT_LOCAL. -/
abbrev stFaultLocal : Nat := 0x0F01
/-- ST_FAULT_REMOTE. -/
abbrev stFaultRemote : Nat := 0x0F02
/-- ST_FAULT_PARTITION_RESET. -/
abbrev stFaultPartitionReset : Nat := 0x0F03
/-- FLT_ROUND_LOCK (R691). -/
abbrev fltRoundLock : Nat := 0x0001
/-- FLT_SCHEDULE_OVERRUN (R691). -/
abbrev fltScheduleOverrun : Nat := 0x0002
/-- FLT_WEAVE_CONTEXT (R691). -/
abbrev fltWeaveContext : Nat := 0x0003
/-- FLT_WEAVE_ERROR (R691). -/
abbrev fltWeaveError : Nat := 0x0004
/-- FLT_SRAM_UNCORRECTABLE (R691). -/
abbrev fltSramUncorrectable : Nat := 0x0010
/-- FLT_HAMPER_FAIL (R691). -/
abbrev fltHamperFail : Nat := 0x0011
/-- FLT_WALE_DOWN (R691). -/
abbrev fltWaleDown : Nat := 0x0020
/-- FLT_WALE_DELIVERY (R691). -/
abbrev fltWaleDelivery : Nat := 0x0021
/-- FLT_COLL_TIMEOUT (R691). -/
abbrev fltCollTimeout : Nat := 0x0030
/-- FLT_COLLECTIVE_ORDER (R691). -/
abbrev fltCollectiveOrder : Nat := 0x0031
/-- FLT_COLL_DATA (R691). -/
abbrev fltCollData : Nat := 0x0032
/-- FLT_MIRROR (R691). -/
abbrev fltMirror : Nat := 0x0040
/-- FLT_THERMAL_TRIP (R691). -/
abbrev fltThermalTrip : Nat := 0x0050
/-- FLT_SUPPLY (R691). -/
abbrev fltSupply : Nat := 0x0051

/-- The class of a status code: its high byte (R18). -/
def stClass (st : Nat) : Nat := st / 256

end Sys2Proof.Machine
end

