-- ==== Sys2Proof/Machine/Ops.lean ====
section
/-!
DEFINITION. The named operations over the state: register fields, free values, bytes of memory,
regions of the address map, the Creel, charging, and accesses by physical and virtual address.
-/

namespace Sys2Proof.Machine

/-! ### Register fields -/

/-- Limits of sensor k under R738, warning and critical, in the sensor's unit. Sensors 66 and 67 take
the limits of R785. -/
def sensorLimits (k : Nat) : Nat × Nat :=
  if k < 16 then (100 * 16, 105 * 16)
  else if k < 34 then (95 * 16, 100 * 16)
  else if k < 66 then (85 * 16, 90 * 16)
  else if k = 66 then (3500, 4000)
  else if k = 67 then (28000, 30000)
  else if k = 68 then (9600, 10080)
  else (45 * 16, 50 * 16)

/-- Function number of the default table in slot k, 0 where it is empty (R350). -/
def defaultFn (k : Nat) : Nat :=
  match k with
  | 0 => 1 | 1 => 6 | 2 => 8 | 3 => 12 | 4 => 10 | _ => 0

/-- The reset value of element i of a field (R16, R161, R809, R192, R738, R475). -/
def fieldReset (f : Fld) (i : Nat) : Nat :=
  if f.id = R.ctxStatusState.id then (if i = 0 then 1 else 0)
  else if f.id = R.glbSteppingStepping.id then Config.stepping.toNat
  else if f.id = R.partEnergyCoefCoef.id then (Config.energyCoef i).toNat
  else if f.id = R.memChanLiveLive.id then 2 ^ 64 - 1
  else if f.id = R.sfuSlotFunction.id then defaultFn (i % 8)
  else if f.id = R.sfuSlotLoaded.id ∨ f.id = R.sfuSlotBound.id then b2n (defaultFn (i % 8) != 0)
  else if f.id = R.sfuSlotVerified.id then (if defaultFn (i % 8) = 0 then 0 else 0xFFFF)
  else if f.id = R.hdlSensorWarn.id then (sensorLimits i).1
  else if f.id = R.hdlSensorCrit.id then (sensorLimits i).2
  else f.rst

/-- The value of element i of a register field. -/
def State.rg (s : State) (f : Fld) (i : Nat) : Nat := smGetD s.regs (f.key i) (fieldReset f i)

/-- Whether element i of a one-bit field is set. -/
def State.rb (s : State) (f : Fld) (i : Nat) : Bool := s.rg f i != 0

/-- Set element i of a register field, keeping only the field's bits. -/
def State.rset (s : State) (f : Fld) (i v : Nat) : State :=
  { s with regs := smPut (fieldReset f i) s.regs (f.key i) (v % 2 ^ f.width) }

/-- Add to a counter that wraps at its width. -/
def State.radd (s : State) (f : Fld) (i d : Nat) : State := s.rset f i (s.rg f i + d)

/-- Add to a counter that saturates at its width. -/
def State.rsat (s : State) (f : Fld) (i d : Nat) : State := s.rset f i (satAdd f.width (s.rg f i) d)

/-- The current Round count (R43). -/
def State.round (s : State) : Nat := s.rg R.roundCountCount 0

/-- The number of the current Round since the cold reset, by which the model counts Rounds that have passed (R43). -/
def State.beat (s : State) : Nat := s.rnd.beats

/-- Put something on the module's boundary. -/
def State.emit (s : State) (o : Output) : State := { s with out := s.out ++ [o] }

/-- Whether the BAR0 block of an offset answers (R733, R765, R804, R807): in the recovery state the global
and Handle blocks; otherwise all once the module is ready and Active, and before that or in Hold the
global, Round and Weave, Handle and power blocks. -/
def State.barOpen (s : State) (off : Nat) : Bool :=
  let b := off / 0x100000
  if s.pwr.off then false
  else if s.rg R.hdlStatusState 0 = 2 then b == 0 || b == 15
  else (s.rb R.pwrStatusReady 0 && s.rg R.pwrStatusHoldState 0 == 0) || [0, 5, 15, 16].contains b

/-! ### Free values -/

/-- A free value of 64 bits, and the state that has used it up. -/
def State.fresh (s : State) : Nat × State :=
  ((Config.freeValue s.free).toNat, { s with free := s.free + 1 })

/-! ### Bytes of memory -/

/-- The header bytes of a default table that R329, R331 and R350 fix, reserved bits among them: each with the bits that
are fixed, and their values. -/
def defaultHeader (fn : Nat) : List (Nat × Nat × Nat) :=
  [(0, 255, 0x53), (1, 255, 0x54), (2, 255, 0x42), (3, 255, 0x4C), (4, 255, 1), (5, 255, fn), (6, 255, 0), (7, 0xE0, 0),
   (9, 0xE0, 0), (13, 0xE0, 0), (17, 0x80, 0), (18, 255, 0), (19, 255, 0), (20, 255, 255), (21, 255, 255)] ++
  (upFrom 52 12).map (fun i => (i, 255, 0))

/-- Byte i of the default set image: the headers as R331 and R350 fix them, an empty slot's all zero; the rest is open
(R350). -/
def defaultByte (i : Nat) : Byte :=
  let b := Config.defaultSetByte i
  let fn := defaultFn (i / 49152)
  let o := i % 49152
  if 8 ≤ i / 49152 ∨ 64 ≤ o then b
  else if fn = 0 then 0
  else
    match (defaultHeader fn).find? (fun h => h.1 == o) with
    | some (_, m, v) => BitVec.ofNat 8 (Nat.lor (Nat.land b.toNat (255 - m)) v)
    | none => b

/-- What an unlisted address reads as: 0, or the default set image in its window (R350). -/
def memDflt (img a : Nat) : Byte :=
  if img ≠ 0 ∧ img ≤ a ∧ a < img + 0x100000 then defaultByte (a - img) else 0

/-- The byte at a module physical address. -/
def State.byte (s : State) (a : Nat) : Byte := smGetD s.mem a (memDflt s.imgBase a)

/-- Set the byte at a module physical address. -/
def State.setByte (s : State) (a : Nat) (b : Byte) : State :=
  { s with mem := smPut (memDflt s.imgBase a) s.mem a b }

/-- The n bytes from a module physical address. -/
def State.bytes (s : State) (a n : Nat) : List Byte := (upFrom a n).map s.byte

/-- Store bytes from a module physical address. -/
def State.setBytes (s : State) : Nat → List Byte → State
  | _, [] => s
  | a, b :: bs => State.setBytes (s.setByte a b) (a + 1) bs

/-- An n-byte number at a module physical address (R7). -/
def State.num (s : State) (a n : Nat) : Nat := leNat (s.bytes a n)

/-- The memory's canonical form: addresses strictly rising, no entry that an unlisted address
already reads as. -/
def Memory.wf (img : Nat) (m : List Host.Cell) : Bool :=
  smWf m && m.all (fun c => c.2 != memDflt img c.1)

/-! ### Trays and accumulator tiles -/

/-- Bytes of a Tray (R203). -/
abbrev trayBytes : Nat := 1572864

/-- The byte at an offset of a Stake's Tray (R203, R205). -/
def State.tray (s : State) (st o : Nat) : Byte := smGetD s.trays (st * 2097152 + o) 0

/-- Set a byte of a Tray. -/
def State.setTray (s : State) (st o : Nat) (b : Byte) : State :=
  { s with trays := smPut 0 s.trays (st * 2097152 + o) b }

/-- n bytes of a Tray. -/
def State.trayN (s : State) (st o n : Nat) : List Byte := (upFrom o n).map (s.tray st)

/-- Store bytes into a Tray. -/
def State.setTrayN (s : State) (st : Nat) : Nat → List Byte → State
  | _, [] => s
  | o, b :: bs => State.setTrayN (s.setTray st o b) st (o + 1) bs

/-- Element (r, j) of accumulator tile t of a Stake, as 32 raw bits (R208). -/
def State.acc (s : State) (st t r j : Nat) : Nat :=
  smGetD s.accs ((st * 4 + t) * 16384 + r * 128 + j) 0

/-- Set an element of an accumulator tile. -/
def State.setAcc (s : State) (st t r j v : Nat) : State :=
  { s with accs := smPut 0 s.accs ((st * 4 + t) * 16384 + r * 128 + j) (v % 2 ^ 32) }

/-- Zero a Stake's Tray, accumulator file and saturation flags (R206). -/
def State.zeroStake (s : State) (st : Nat) : State :=
  { s with
    trays := smFilter (fun k => k / 2097152 != st) s.trays
    accs := smFilter (fun k => k / 65536 != st) s.accs
    satFlags := s.satFlags.filter (fun k => k / 4 != st) }

/-! ### Regions of the address map -/

/-- Live channels of a Coil, rising (R482). -/
def State.liveOf (s : State) (c : Nat) : List Nat :=
  (onesOf 64 (s.rg R.memChanLiveLive c)).map (fun i => 64 * c + i)

/-- The Coil whose window holds an address (R482). -/
def State.coilOf (s : State) (a : Nat) : Option Nat :=
  (below 16).find? (fun c =>
    decide (s.rg R.memWindowBaseBase c ≤ a ∧ a < s.rg R.memWindowBaseBase c + s.rg R.memWindowSizeSize c))

/-- Channel and channel address of an address in the HBM region (R482). -/
def State.channelOf (s : State) (a : Nat) : Option (Nat × Nat) :=
  match s.coilOf a with
  | none => none
  | some c =>
    let o := a - s.rg R.memWindowBaseBase c
    let live := s.liveOf c
    let n := live.length
    if n = 0 then none
    else
      let g := o / 2048
      let row := g / n
      match live[(g + row) % n]? with
      | none => none
      | some ch => some (ch, row * 2048 + o % 2048)

/-- Live Hamper channels in interleave order (R534). -/
def State.liveHamper (s : State) : List Nat :=
  ((below 32).flatMap (fun i => [i, i + 32])).filter (fun ch => s.rb R.hampChanStateLive ch)

/-- Hamper channel and channel address of an address in the Hamper region (R534). -/
def State.hamperOf (s : State) (a : Nat) : Option (Nat × Nat) :=
  let o := a - 0x100000000000
  let live := s.liveHamper
  let n := live.length
  if n = 0 then none
  else
    let g := o / 2048
    match live[g % n]? with
    | none => none
    | some ch => some (ch, g / n * 2048 + o % 2048)

/-- The parts of the address map (R36). -/
inductive Region where
  | hbm | hamper | scratch (coil way : Nat) | host | unbacked
  deriving DecidableEq, Repr

/-- The part of the address map an address lies in; unbacked under R41. -/
def State.region (s : State) (a : Nat) : Region :=
  if a < 0x100000000000 then
    if a < s.rg R.memHbmEndEnd 0 then .hbm else .unbacked
  else if a < 0x200000000000 then
    if a < s.rg R.hampEndEnd 0 then .hamper else .unbacked
  else if a < 0x800000000000 then
    let o := a - 0x200000000000
    let c := o / 0x20000000
    let w := o % 0x20000000 / 0x02000000
    if c < 16 ∧ bit (s.rg R.creelWaycfgScratch c) w ∧ ¬ bit (smGetD s.ms.converting c 0) w then
      .scratch c w
    else .unbacked
  else if a < 0x1000000000000 then .host
  else .unbacked

/-- Queue a change of the configuration store (R734). -/
def State.queueChange (s : State) (c : CfgChange) : State :=
  { s with hdl := { s.hdl with changes := s.hdl.changes ++ [c] } }

/-- A change of the configuration store that changes nothing. -/
def CfgChange.none : CfgChange := ⟨[], [], Option.none, [], [], 0, false⟩

/-- Health state of a channel once the waiting store changes are done (R475, R478). -/
def State.healthOf (s : State) (ch : Nat) : Nat :=
  match ((s.hdl.changes.flatMap CfgChange.health).filter (fun h => h.1 == ch)).getLast? with
  | some h => h.2
  | none => s.rg R.memChanStateState ch

/-- A channel's health is to change: the change is recorded before it takes effect (R478). -/
def State.changeHealth (s : State) (ch st : Nat) : State :=
  s.queueChange { CfgChange.none with health := [(ch, st)] }

/-- A live channel is to move to PENDING (R476, R478). -/
def State.setPending (s : State) (ch : Nat) : State :=
  if s.healthOf ch ≤ 1 then s.changeHealth ch 2 else s

/-- Log and count an uncorrectable error met by a read: the log names the 256-bit word (R476, R487, R516, R537). -/
def State.noteUe (s : State) (a : Nat) : State :=
  match s.region a with
  | .hbm =>
    match s.channelOf a with
    | none => s
    | some (ch, ca) =>
      ((((s.rset R.memErrLogChannel 0 ch).rset R.memErrLogAddress 0 (ca / 32 * 32)).rset R.memErrLogValid 0 1).rsat
        R.memChanStateUe ch 1).setPending ch
  | .hamper =>
    match s.hamperOf a with
    | none => s
    | some (ch, _) => s.rsat R.hampChanStateUe ch 1
  | .scratch c _ => s.rsat R.creelEccUeCount c 1
  | _ => s

/-- Whether sector k of a line is valid. -/
def Line.valid (l : Line) (k : Nat) : Bool := if k = 0 then l.v0 else l.v1

/-- The set of a line address (R495). -/
def creelSet (la : Nat) : Nat := Nat.xor la (Nat.xor (la / 2 ^ 18) (la / 2 ^ 36)) % 262144

/-- Whether the Creel holds the sector of an HBM address (R496). -/
def State.cached (s : State) (a : Nat) : Bool :=
  match s.coilOf a with
  | some c => (smGetD s.ms.creel (c * 262144 + creelSet (a / 128)) []).any (fun l => l.la == a / 128 && l.valid (a / 64 % 2))
  | none => false

/-- Whether n bytes of one sector hold an uncorrectable word: a bad sector that the Creel does not hold, or a bad word of
scratch (R487, R490, R496, R499, R537). -/
def State.badAt (s : State) (a n : Nat) : Bool :=
  match s.region a with
  | .hbm => s.ms.bad.contains (a / 64) && !(s.cached a)
  | .scratch _ _ => s.ms.badWords.any (fun w => decide (4 * w < a + n ∧ a < 4 * w + 4))
  | _ => s.ms.bad.contains (a / 64)

/-- The status a read of n bytes of one sector meets (R41, R487, R499, R537, R538). -/
def State.readStatus (s : State) (a n : Nat) : Status :=
  match s.region a with
  | .unbacked => stMemUnbacked
  | .hamper =>
    match s.hamperOf a with
    | none => stMemUnbacked
    | some (ch, _) =>
      if s.rb R.hampChanStateFailed ch then stMemHamperFail
      else if s.badAt a n then stMemUncorrectable else stOk
  | _ => if s.badAt a n then stMemUncorrectable else stOk

/-- An n-byte number that the module reads for its own use at an address: an open value where the read fails (R490). -/
def State.own (s : State) (a n : Nat) : Nat :=
  if s.readStatus a n = 0 then s.num a n else (Config.poisoned a).toNat % 256 ^ n

/-- The status a write of a sector meets (R41, R538). -/
def State.writeStatus (s : State) (a : Nat) : Status :=
  match s.region a with
  | .unbacked => stMemUnbacked
  | .hamper =>
    match s.hamperOf a with
    | none => stMemUnbacked
    | some (ch, _) => if s.rb R.hampChanStateFailed ch then stMemHamperFail else stOk
  | _ => stOk

/-! ### Charging -/

/-- Tokens of a partition's regulator j: 0 HBM, 1 Hamper, 2 Wale egress, 3 PCI Express (R185). -/
def State.tokens (s : State) (p j : Nat) : Int := smGetD s.parts.tokens (p * 4 + j) 0

/-- Set a token count. -/
def State.setTokens (s : State) (p j : Nat) (v : Int) : State :=
  { s with parts := { s.parts with tokens := smPut 0 s.parts.tokens (p * 4 + j) v } }

/-- The enable, rate and burst fields of regulator j (R193). -/
def regFields (j : Nat) : Fld × Fld × Fld :=
  if j = 0 then (R.partRegHbmEnable, R.partRegHbmRate, R.partRegHbmBurst)
  else if j = 1 then (R.partRegHamperEnable, R.partRegHamperRate, R.partRegHamperBurst)
  else if j = 2 then (R.partRegWaleEnable, R.partRegWaleRate, R.partRegWaleBurst)
  else (R.partRegPcieEnable, R.partRegPcieRate, R.partRegPcieBurst)

/-- The burst of a regulator, taken as equal to rate when it is less (R185). -/
def State.burst (s : State) (p j : Nat) : Nat :=
  max (s.rg (regFields j).2.2 p) (s.rg (regFields j).2.1 p)

/-- In place of a context: traffic of the host, of the module itself, or in transit. -/
abbrev noCtx : Nat := 4096

/-- Charge a transfer of n bytes of a context to regulator j and to its account (R186, R187, R189).
Context 0 is not charged, but the flit payload that it transmits counts in its account.  The count never falls below
−burst. -/
def State.charge (s : State) (ctx j n : Nat) : State :=
  if noCtx ≤ ctx ∨ n = 0 then s
  else if ctx = 0 then (if j = 2 then s.radd R.partAcctWaleTxCount 0 n else s)
  else
    let f := if j = 0 then R.partAcctHbmCount else if j = 1 then R.partAcctHamperCount
      else if j = 2 then R.partAcctWaleTxCount else R.partAcctPcieCount
    let p := s.rg R.ctxCfgPartition ctx
    let s := s.radd f ctx n
    s.setTokens p j (max (-(s.burst p j : Int)) (s.tokens p j - ((n + 63) / 64 : Nat)))

/-- Whether an enabled regulator holds back a context's charged transfers (R187). -/
def State.heldBack (s : State) (ctx j : Nat) : Bool :=
  let p := s.rg R.ctxCfgPartition ctx
  ctx != 0 && decide (ctx < noCtx) && s.rb (regFields j).1 p && decide (s.tokens p j ≤ 0)

/-! ### The Creel -/

/-- Cache ways of a Coil's Creel (R491); a way being converted is no cache way (R492). -/
def State.cacheWays (s : State) (c : Nat) : Nat :=
  16 - popcount 16 (s.rg R.creelWaycfgScratch c)

/-- The dirty sectors of a line. -/
def Line.dirty (l : Line) : List Nat := (if l.d0 then [2 * l.la] else []) ++ (if l.d1 then [2 * l.la + 1] else [])

/-- Mark sector k of a line valid, and dirty on a write. -/
def Line.touch (l : Line) (k : Nat) (w : Bool) : Line :=
  if k = 0 then { l with v0 := true, d0 := l.d0 || w } else { l with v1 := true, d1 := l.d1 || w }

/-- Replace the lines of a Creel set. -/
def State.setLines (s : State) (c set : Nat) (ls : List Line) : State :=
  { s with ms := { s.ms with creel := smPut [] s.ms.creel (c * 262144 + set) ls } }

/-- Lines of a Coil leave its Creel for a requester's sake: their dirty sectors are written back, which makes those
sectors good again, is counted, and is charged (R186, R490, R497, R519). -/
def State.writeBack (s : State) (ctx c : Nat) (ls : List Line) : State :=
  let d := ls.flatMap Line.dirty
  let s := { s with ms := { s.ms with bad := s.ms.bad.filter (fun k => !(d.contains k)) } }
  (s.radd R.creelWritebacksCount c d.length).charge ctx 0 (64 * d.length)

/-- One sector access of a Coil window: what it does to the Creel, its counters and the context's
HBM account (R495 to R497, R519).  `part` says that a write covers less than the sector.  A write of a whole sector that
allocates a line sends nothing to HBM; a sector fetched bad makes no line valid. -/
def State.creelSector (s : State) (ctx c a : Nat) (write part noAlloc : Bool) : State :=
  let la := a / 128
  let k := a / 64 % 2
  let set := creelSet la
  let ls := smGetD s.ms.creel (c * 262144 + set) []
  let rest := ls.filter (fun l => l.la != la)
  let old := (ls.find? (fun l => l.la == la)).getD ⟨la, false, false, false, false⟩
  if old.valid k then
    (s.setLines c set (old.touch k write :: rest)).radd R.creelHitsCount c 1
  else if noAlloc ∨ s.cacheWays c = 0 then (s.radd R.creelMissesCount c 1).charge ctx 0 64
  else
    let fetch := !write || part
    let s := if fetch then (s.radd R.creelMissesCount c 1).charge ctx 0 64 else s
    if fetch ∧ s.ms.bad.contains (a / 64) then s
    else
      let full := old.touch k write :: rest
      (s.setLines c set (full.take (s.cacheWays c))).writeBack ctx c (full.drop (s.cacheWays c))

/-- Write back and drop every line of a Coil that a test selects (R492, R494, R505). -/
def State.creelFlush (s : State) (c : Nat) (p : Line → Bool) : State :=
  let out := (s.ms.creel.filter (fun e => e.1 / 262144 == c)).flatMap (fun e => e.2.filter p)
  let keep := s.ms.creel.map (fun e =>
    if e.1 / 262144 = c then (e.1, e.2.filter (fun l => !(p l))) else e)
  ({ s with ms := { s.ms with creel := keep.filter (fun e => !e.2.isEmpty) } }).writeBack noCtx c out

/-- The side effects of one access of at most a sector at a backed address: Creel state and
counters, the charges of R186 and R189, and the request that an access to host memory is (R40). -/
def State.touch (s : State) (ctx a n : Nat) (write noAlloc : Bool) : State :=
  match s.region a with
  | .hbm =>
    match s.coilOf a with
    | none => s
    | some c => s.creelSector ctx c a write (n != 64) noAlloc
  | .hamper => s.charge ctx 1 n
  | .scratch _ _ => if noCtx ≤ ctx then s else s.radd R.partAcctCreelCount ctx n
  | .host => (s.charge ctx 3 n).emit (.host (a - 0x800000000000) n write)
  | .unbacked => s

/-! ### Accesses by module physical address -/

/-- The outcome of a read: the state after it, the status, the offset at which the status arose and
the bytes read before it. -/
structure Rd where
  s : State
  st : Status
  off : Nat
  bs : List Byte
  deriving DecidableEq, Repr

/-- The outcome of a write. -/
structure Wr where
  s : State
  st : Status
  off : Nat
  deriving DecidableEq, Repr

/-- Read the pieces of a physical range, each within one sector, stopping at the first status. -/
def readPieces (ctx : Nat) (noAlloc : Bool) : List (Nat × Nat) → Rd → Rd
  | [], r => r
  | (a, n) :: ps, r =>
    match r.s.readStatus a n with
    | 0 =>
      let s := r.s.touch ctx a n false noAlloc
      readPieces ctx noAlloc ps { s := s, st := 0, off := r.off + n, bs := r.bs ++ s.bytes a n }
    | st =>
      let s := if st = stMemUncorrectable then (r.s.touch ctx a n false noAlloc).noteUe a else r.s
      { r with s := s, st := st }

/-- Read n bytes from a module physical address on behalf of a context. -/
def State.pread (s : State) (ctx a n : Nat) (noAlloc : Bool) : Rd :=
  readPieces ctx noAlloc (spans 64 a n) ⟨s, 0, 0, []⟩

/-- Store a piece within one sector.  A write of the whole sector makes it good, in HBM where the Creel does not hold it;
one that covers a bad word of scratch makes that good (R490, R499). -/
def State.storePiece (s : State) (a : Nat) (bs : List Byte) : State :=
  let t := s.setBytes a bs
  let keep := fun (w : Nat) => !(decide (a ≤ 4 * w ∧ 4 * w + 4 ≤ a + bs.length))
  let t := { t with ms := { t.ms with badWords := t.ms.badWords.filter keep } }
  if bs.length = 64 ∧ ¬ s.cached a then
    { t with ms := { t.ms with bad := t.ms.bad.filter (fun x => x != a / 64) } }
  else t

/-- A write of part of an HBM sector that holds a bad word: the read that the merge makes is noted, and the sector stays
bad (R473, R476, R487, R490). -/
def State.mergeNote (s : State) (a n : Nat) : State :=
  if n < 64 ∧ s.region a = .hbm ∧ s.badAt a n then s.noteUe a else s

/-- Write the pieces of a physical range, stopping at the first status. -/
def writePieces (ctx : Nat) (noAlloc : Bool) : List (Nat × Nat) → List Byte → Wr → Wr
  | [], _, r => r
  | (a, n) :: ps, bs, r =>
    match r.s.writeStatus a with
    | 0 =>
      let s := ((r.s.mergeNote a n).touch ctx a n true noAlloc).storePiece a (bs.take n)
      writePieces ctx noAlloc ps (bs.drop n) { s := s, st := 0, off := r.off + n }
    | st => { r with st := st }

/-- Write bytes from a module physical address on behalf of a context. -/
def State.pwrite (s : State) (ctx a : Nat) (bs : List Byte) (noAlloc : Bool) : Wr :=
  writePieces ctx noAlloc (spans 64 a bs.length) bs ⟨s, 0, 0⟩

/-! ### Translation -/

/-- A requester: its context and the unit that translates for it: a Coil, 16 and 17 for the Border dies, 18 + its number
for a Stake (R527). -/
structure Rq where
  ctx : Nat
  unit : Nat
  deriving DecidableEq, Repr

/-- The die whose counters count a requester's walks and faults (R560). -/
def Rq.die (r : Rq) : Nat := if r.unit < 18 then r.unit else (r.unit - 18) / 96

/-- The caches of leaves that a requester's access looks in, the nearest first (R527). -/
def Rq.caches (r : Rq) : List Nat := if r.unit < 18 then [r.unit] else [r.unit, r.die]

/-- Entries of a cache of leaves (R527). -/
def tlbCap (u : Nat) : Nat := if u < 16 then 8192 else if u < 18 then 4096 else 64

/-- Entries of a walk cache (R527). -/
def walkCap (u : Nat) : Nat := if u < 16 then 1024 else 256

/-- The outcome of a translation. -/
structure Xl where
  s : State
  st : Status
  pa : Nat
  noAlloc : Bool
  leaf : Option TlbEnt
  deriving DecidableEq, Repr

/-- Index of a level's table (R521). -/
def vaIndex (level va : Nat) : Nat := bits va (39 - 9 * level) 9

/-- Whether an entry is malformed (R524). -/
def pteMalformed (level va e : Nat) : Bool :=
  bits e 5 7 != 0 || bits e 48 16 != 0 ||
  (bit e 1 && level == 0) || (!bit e 1 && level == 3) ||
  (bit e 3 && level != 3) ||
  (bit e 1 && bits e 12 36 % 2 ^ (9 * (3 - level)) != 0) ||
  (bit e 3 && bits e 12 4 != bits va 12 4)

/-- The leaf that an entry caches as (R526, R527). -/
def leafOf (ctx level va e : Nat) : TlbEnt :=
  if bit e 3 then
    ⟨ctx, va / 65536 * 65536, 16, bits e 12 36 * 4096 / 65536 * 65536, bit e 2, bit e 4⟩
  else
    let k := 12 + 9 * (3 - level)
    ⟨ctx, va / 2 ^ k * 2 ^ k, k, bits e 12 36 * 4096, bit e 2, bit e 4⟩

/-- The walk from a table of a level on (R523): a status, or the leaf.  The fuel is the number of
levels that remain. -/
def walkFrom (s : State) (ctx va : Nat) (write : Bool) : Nat → Nat → Nat → Status × Option TlbEnt
  | 0, _, _ => (stXltMalformed, none)
  | fuel + 1, level, t =>
    let a := t + vaIndex level va * 8
    if s.region a ≠ .hbm ∨ s.readStatus a 8 ≠ 0 then (stXltWalkError, none)
    else
      let e := s.num a 8
      if ¬ bit e 0 then (stXltNotPresent, none)
      else if pteMalformed level va e then (stXltMalformed, none)
      else if bit e 1 then
        if write ∧ ¬ bit e 2 then (stXltPermission, some (leafOf ctx level va e))
        else (stOk, some (leafOf ctx level va e))
      else walkFrom s ctx va write fuel (level + 1) (bits e 12 36 * 4096)

/-- The walk of a context's table (R520, R523). -/
def State.walk (s : State) (ctx va : Nat) (write : Bool) : Status × Option TlbEnt :=
  if va ≥ 2 ^ 48 ∨ ¬ s.rb R.ctxPtRootValid ctx then (stXltNotPresent, none)
  else walkFrom s ctx va write 4 0 (s.rg R.ctxPtRootRoot ctx * 4096)

/-- Whether a cached leaf covers an address of a context. -/
def TlbEnt.covers (t : TlbEnt) (ctx va : Nat) : Bool :=
  t.ctx == ctx && va / 2 ^ t.log2 == t.va / 2 ^ t.log2

/-- The status and address that a leaf gives an access. -/
def TlbEnt.apply (t : TlbEnt) (va : Nat) (write : Bool) : Status × Nat :=
  (if write && !t.write then stXltPermission else stOk, t.pa + va % 2 ^ t.log2)

/-- log2 of the addresses that a table of a level covers (R521). -/
def tableSpan (level : Nat) : Nat := 48 - 9 * level

/-- The tables that a walk reads, by level; the fuel is the number of levels that remain. -/
def walkTables (s : State) (ctx va : Nat) : Nat → Nat → Nat → List WalkEnt
  | 0, _, _ => []
  | fuel + 1, level, t =>
    let e := s.num (t + vaIndex level va * 8) 8
    ⟨ctx, level, va / 2 ^ tableSpan level * 2 ^ tableSpan level, t⟩ ::
      (if bit e 0 && !bit e 1 then walkTables s ctx va fuel (level + 1) (bits e 12 36 * 4096) else [])

/-- Whether a cached entry of levels 0 to 2 covers an address of a context. -/
def WalkEnt.covers (w : WalkEnt) (ctx va : Nat) : Bool :=
  w.ctx == ctx && va / 2 ^ tableSpan w.level == w.va / 2 ^ tableSpan w.level

/-- The entries that a walk from a table of a level on reads, up to the one that ends it (R523). -/
def walkReads (s : State) (va : Nat) : Nat → Nat → Nat → List Nat
  | 0, _, _ => []
  | fuel + 1, level, t =>
    let a := t + vaIndex level va * 8
    let e := s.num a 8
    if s.region a ≠ .hbm then []
    else if s.readStatus a 8 ≠ 0 ∨ ¬ bit e 0 ∨ bit e 1 ∨ pteMalformed level va e then [a]
    else a :: walkReads s va fuel (level + 1) (bits e 12 36 * 4096)

/-- The reads of a walk reach HBM through the Creel, are charged, and note an uncorrectable word (R186, R487, R525).
They take NO_ALLOCATE (the model's choice, log entry 41). -/
def State.readTables (s : State) (ctx : Nat) (l : List Nat) : State :=
  l.foldl (fun s a =>
    let t := s.touch ctx a 8 false true
    if s.readStatus a 8 = 0 then t else t.noteUe a) s

/-- The walk of a context's table as the walk cache of a die may give it: where a cached entry of levels 0 to 2
names another table than the one in memory, a free choice takes the old one (R529). -/
def State.walkCached (s : State) (rq : Rq) (va : Nat) (write : Bool) : State × Status × Option TlbEnt :=
  let w := s.walk rq.ctx va write
  let mine := smGetD s.ms.walks rq.die []
  let path := walkTables s rq.ctx va 4 0 (s.rg R.ctxPtRootRoot rq.ctx * 4096)
  let old := mine.filter (fun x => x.covers rq.ctx va && !(path.contains x))
  let c := if old.isEmpty then (0, s) else s.fresh
  match if c.1 % 2 = 1 then old[c.1 / 2 % old.length]? else none with
  | some x =>
    (c.2.readTables rq.ctx (walkReads s va (4 - x.level) x.level x.table), walkFrom s rq.ctx va write (4 - x.level) x.level x.table)
  | none =>
    let from_ := (path.filter (fun x => x.level == 0 || mine.contains x)).getLast?
    let s := c.2.readTables rq.ctx (match from_ with
      | some x => walkReads s va (4 - x.level) x.level x.table
      | none => [])
    let new := (path.drop 1).filter (fun x => !(mine.contains x))
    (if w.2.isNone then s
     else { s with ms := { s.ms with walks := smPut [] s.ms.walks rq.die ((new ++ mine).take (walkCap rq.die)) } }, w)

/-- Count an access that ends with a class 0x03xx status (R560). -/
def State.countXlt (s : State) (rq : Rq) (st : Status) : State :=
  if stClass st = 3 then s.radd R.mmuFaultsCount rq.die 1 else s

/-- The leaf that a requester's caches hold for an address (R527). -/
def State.leaf (s : State) (rq : Rq) (va : Nat) : Option TlbEnt :=
  (rq.caches.flatMap (fun u => smGetD s.ms.tlb u [])).find? (fun t => t.covers rq.ctx va)

/-- The requester's caches hold a leaf, in place of what they held for the address; a full one drops its oldest entry
(R527; which entry goes is the model's choice, log entry 42). -/
def State.keepLeaf (s : State) (rq : Rq) (va : Nat) (t : TlbEnt) : State :=
  rq.caches.foldl (fun s u =>
    let l := t :: (smGetD s.ms.tlb u []).filter (fun x => !(x.covers rq.ctx va))
    { s with ms := { s.ms with tlb := smPut [] s.ms.tlb u (l.take (tlbCap u)) } }) s

/-- What a walk's result gives an access: the leaf becomes the cached one. -/
def State.useWalk (s : State) (rq : Rq) (va : Nat) (write : Bool) (w : Status × Option TlbEnt) : Xl :=
  let s := match w.2 with
    | none => s
    | some t => s.keepLeaf rq va t
  ⟨s.countXlt rq w.1, w.1, (w.2.map (fun t => (t.apply va write).2)).getD 0,
    (w.2.map TlbEnt.noAlloc).getD false, w.2⟩

/-- What a cached leaf gives an access; the nearest cache takes it where it has none. -/
def State.useLeaf (s : State) (rq : Rq) (va : Nat) (write : Bool) (t : TlbEnt) : Xl :=
  let s := if (smGetD s.ms.tlb rq.unit []).any (fun x => x.covers rq.ctx va) then s else s.keepLeaf rq va t
  let r := t.apply va write
  ⟨s.countXlt rq r.1, r.1, r.2, t.noAlloc, some t⟩

/-- Translate one address of a context (R520 to R529).  A cached leaf that differs from what the walk
gives may be used in its place: a free choice (R529). -/
def State.xlate (s : State) (rq : Rq) (va : Nat) (write : Bool) : Xl :=
  if va ≥ 2 ^ 48 ∨ ¬ s.rb R.ctxPtRootValid rq.ctx then ⟨s.countXlt rq stXltNotPresent, stXltNotPresent, 0, false, none⟩
  else
    match s.leaf rq va with
    | none =>
      let w := (s.radd R.mmuWalksCount rq.die 1).walkCached rq va write
      w.1.useWalk rq va write w.2
    | some t =>
      let w := s.walk rq.ctx va write
      let c := if w.2 = some t then (0, s) else s.fresh
      if c.1 % 2 = 1 then c.2.useWalk rq va write w else c.2.useLeaf rq va write t

/-! ### Accesses by virtual address -/

/-- Read the page pieces of a virtual range. -/
def vreadPieces (rq : Rq) : List (Nat × Nat) → Rd → Rd
  | [], r => r
  | (va, n) :: ps, r =>
    let x := r.s.xlate rq va false
    match x.st with
    | 0 =>
      let p := x.s.pread rq.ctx x.pa n x.noAlloc
      match p.st with
      | 0 => vreadPieces rq ps { s := p.s, st := 0, off := r.off + n, bs := r.bs ++ p.bs }
      | st => { s := p.s, st := st, off := r.off + p.off, bs := r.bs ++ p.bs }
    | st => { r with s := x.s, st := st }

/-- Read n bytes from a virtual address of a context (R520). -/
def State.vread (s : State) (rq : Rq) (va n : Nat) : Rd :=
  vreadPieces rq (spans 4096 va n) ⟨s, 0, 0, []⟩

/-- Write the page pieces of a virtual range. -/
def vwritePieces (rq : Rq) : List (Nat × Nat) → List Byte → Wr → Wr
  | [], _, r => r
  | (va, n) :: ps, bs, r =>
    let x := r.s.xlate rq va true
    match x.st with
    | 0 =>
      let p := x.s.pwrite rq.ctx x.pa (bs.take n) x.noAlloc
      match p.st with
      | 0 => vwritePieces rq ps (bs.drop n) { s := p.s, st := 0, off := r.off + n }
      | st => { s := p.s, st := st, off := r.off + p.off }
    | st => { r with s := x.s, st := st }

/-- Write bytes from a virtual address of a context. -/
def State.vwrite (s : State) (rq : Rq) (va : Nat) (bs : List Byte) : Wr :=
  vwritePieces rq (spans 4096 va bs.length) bs ⟨s, 0, 0⟩

/-- Whether every page of a virtual range translates to a backed address (R146). -/
def State.backedPages (s : State) (rq : Rq) : List (Nat × Nat) → Bool
  | [] => true
  | (va, n) :: ps =>
    let x := s.xlate rq va false
    x.st == 0 && (spans 64 x.pa n).all (fun p => decide (s.region p.1 ≠ .unbacked)) && s.backedPages rq ps

/-- Discard the cached entries of a context, or of every context, whose span overlaps a range (R530). -/
def State.tlbDrop (s : State) (all : Bool) (ctx start len : Nat) : State :=
  { s with ms := { s.ms with
      tlb := smMapVals [] (fun l => l.filter (fun (t : TlbEnt) =>
        !((all || t.ctx == ctx) && decide (t.va < start + len ∧ start < t.va + 2 ^ t.log2)))) s.ms.tlb
      walks := smMapVals [] (fun l => l.filter (fun (t : WalkEnt) =>
        !((all || t.ctx == ctx) && decide (t.va < start + len ∧ start < t.va + 2 ^ tableSpan t.level)))) s.ms.walks } }

/-- Discard every cached entry of a context (R531). -/
def State.tlbDropCtx (s : State) (ctx : Nat) : State := s.tlbDrop false ctx 0 (2 ^ 48)

end Sys2Proof.Machine
end

