-- ==== Sys2Proof/Machine/Flit.lean ====
section
/-!
DEFINITION. What a Wale port puts on its lanes: control symbols and CONTROL flits, flit headers, pairs of flits (R563,
R564, R569, R575, R576, R586).
-/

namespace Sys2Proof.Machine

/-- A port that has sent and received nothing. -/
def PortSt.empty : PortSt := ⟨0, 0, false, [], [], 0, [], [], [], [], 0, false, 0, 0, [], [], 0, [], 0, []⟩

/-- What a port holds. -/
def State.port (s : State) (n : Nat) : PortSt := smGetD s.wale.ports n PortSt.empty

/-- Replace what a port holds. -/
def State.setPort (s : State) (n : Nat) (p : PortSt) : State :=
  { s with wale := { s.wale with ports := smPut PortSt.empty s.wale.ports n p } }

/-- The 16 bytes of a control symbol (R576). -/
def symWord : Sym → Nat
  | .roundSync c d l sx o => 0x01 + c * 2 ^ 8 + d % 16 * 2 ^ 72 + l % 2 ^ 16 * 2 ^ 76 + sx % 2 ^ 16 * 2 ^ 92 +
      o % 2 ^ 19 * 2 ^ 108
  | .roundLen l a => 0x02 + l % 2 ^ 16 * 2 ^ 8 + a % 2 ^ 64 * 2 ^ 24
  | .delayReq i t => 0x03 + i % 256 * 2 ^ 8 + t % 2 ^ 48 * 2 ^ 16
  | .delayResp i t2 t3 => 0x04 + i % 256 * 2 ^ 8 + t2 % 2 ^ 48 * 2 ^ 16 + t3 % 2 ^ 48 * 2 ^ 64
  | .stretch o n a => 0x05 + o % 2 ^ 16 * 2 ^ 8 + n % 2 ^ 64 * 2 ^ 24 + a % 2 ^ 16 * 2 ^ 88
  | .fault o c r => 0x06 + o % 2 ^ 16 * 2 ^ 8 + c % 2 ^ 16 * 2 ^ 24 + r % 2 ^ 64 * 2 ^ 40
  | .retry q => 0x07 + q % 4096 * 2 ^ 8
  | .credit l => 0x08 + ((l.zip (below 4)).map (fun x =>
      x.1.1 % 64 * 2 ^ (16 * x.2 + 8) + x.1.2 % 1024 * 2 ^ (16 * x.2 + 14))).sum
  | .ident m p c mt r => 0x09 + m % 2 ^ 16 * 2 ^ 8 + p % 16 * 2 ^ 24 + c % 2 ^ 32 * 2 ^ 28 + b2n mt * 2 ^ 60 +
      b2n r * 2 ^ 61
  | .linkDown r => 0x0A + r % 256 * 2 ^ 8

/-- The header of a flit with its CRC (R569); the payload has 240 bytes. -/
def flitHeader (type vc : Nat) (first last : Bool) (len dst src seq ack crVc crN : Nat) (shared : Bool)
    (payload : List Byte) : Nat :=
  let h := type + vc * 2 ^ 2 + b2n first * 2 ^ 8 + b2n last * 2 ^ 9 + len * 2 ^ 10 + dst % 2 ^ 16 * 2 ^ 18 +
    src % 2 ^ 16 * 2 ^ 34 + seq % 4096 * 2 ^ 50 + ack % 4096 * 2 ^ 62 + crVc % 64 * 2 ^ 74 + crN % 1024 * 2 ^ 80 +
    b2n shared * 2 ^ 90
  h + crc32c (natLe 16 h ++ payload) * 2 ^ 96

/-- The credits that the next flit of a port returns (R586). -/
def State.takeOwed (s : State) (port : Nat) : State × Nat × Nat :=
  match (s.port port).owe with
  | [] => (s, 0, 0)
  | (vc, n) :: rest =>
    (s.setPort port { s.port port with owe := if 1023 < n then (vc, n - 1023) :: rest else rest }, vc, min n 1023)

/-- A flit leaves: five of them are a pair, coded and spread over the lanes (R563, R564). -/
def State.emitFlit (s : State) (port header : Nat) (payload : List Byte) : State :=
  let s := s.emit (.flit port header payload)
  let p := s.port port
  let l := p.filling ++ [natLe 16 header ++ payload]
  if l.length < 5 then s.setPort port { p with filling := l }
  else
    (s.setPort port { p with filling := [], pairs := (p.pairs + 1) % 2 ^ 32 }).emit
      (.pair port p.pairs (pairLanes p.pairs l))

/-- The neighbour's identifier as a flit header names it: 0xFFFF before the first IDENT (R569). -/
def State.neighbour (s : State) (port : Nat) : Nat :=
  if s.rg R.walePortStatusState port ≠ 5 ∧ (s.port port).idents = 0 then 0xFFFF else s.rg R.walePortStatusPeerId port

/-- A control symbol leaves on a port in a CONTROL flit of its own, in the next flit slot (R569, R575, R576; that each
symbol has a flit is the model's choice, log entry 56). -/
def State.sendSym (s : State) (port : Nat) (y : Sym) : State :=
  let pay := natLe 240 (symWord y)
  let c := (s.emit (.sym port y)).takeOwed port
  c.1.emitFlit port (flitHeader 2 0 false false 1 (s.neighbour port) (s.rg R.waleCfgModuleId 0) 0
    ((s.port port).expect + 4095) c.2.1 c.2.2 false pay) pay

end Sys2Proof.Machine
end

