-- ==== Sys2Proof/Machine/Mesh.lean ====
section
/-!
DEFINITION. The mesh between the Coils and the Border dies: ports, neighbours, and the one path of each transfer (R19,
R25 to R30).  A path lists the nodes that a transfer passes, its ends included: Coils 0 to 15, 16 for Border die 0
(west) and 17 for Border die 1 (east).
-/

namespace Sys2Proof.Machine

/-- The mesh ports of a Coil (R25). -/
inductive MeshPort where
  | west | east | north | south
  deriving DecidableEq, Repr

/-- What a mesh port connects to: a Coil, or the connection of a Border die to a row. -/
inductive MeshEnd where
  | coil (c : Nat)
  | border (die row : Nat)
  deriving DecidableEq, Repr

/-- Column of a Coil (R19). -/
def meshX (c : Nat) : Nat := c % 4

/-- Row of a Coil (R19). -/
def meshY (c : Nat) : Nat := c / 4

/-- What a mesh port of Coil c connects to; none where it is unconnected, idle and powered down (R25, R26). -/
def meshPort (c : Nat) : MeshPort → Option MeshEnd
  | .west => if 0 < meshX c then some (.coil (c - 1)) else some (.border 0 (meshY c))
  | .east => if meshX c < 3 then some (.coil (c + 1)) else some (.border 1 (meshY c))
  | .north => if 0 < meshY c then some (.coil (c - 4)) else none
  | .south => if meshY c < 3 then some (.coil (c + 4)) else none

/-- The numbers from a to b, rising or falling, both ends included. -/
def walkLine (a b : Nat) : List Nat :=
  if a ≤ b then upFrom a (b + 1 - a) else (upFrom b (a + 1 - b)).reverse

/-- The Coils of row y from column x to column x'. -/
def alongRow (y x x' : Nat) : List Nat := (walkLine x x').map (fun i => 4 * y + i)

/-- The path between two Coils: along the row to the destination's column, then along that column (R28). -/
def coilRoute (a b : Nat) : List Nat :=
  alongRow (meshY a) (meshX a) (meshX b) ++ ((walkLine (meshY a) (meshY b)).drop 1).map (fun y => 4 * y + meshX b)

/-- The column at which a Border die meets the mesh. -/
def borderX (die : Nat) : Nat := if die = 0 then 0 else 3

/-- The path from a Coil to a Border die: along the Coil's row only (R29). -/
def borderRoute (c die : Nat) : List Nat := alongRow (meshY c) (meshX c) (borderX die) ++ [16 + die]

/-- A transfer between the Border dies (R30): a relayed control symbol, a COLL message of a channel, a DATA message
forwarded to a module, and any other, with its target module physical address or 0. -/
inductive Crossing where
  | symbol
  | coll (channel : Nat)
  | forward (dst : Nat)
  | access (addr : Nat)
  deriving DecidableEq, Repr

/-- The row of a transfer between the Border dies (R30). -/
def Crossing.row : Crossing → Nat
  | .symbol => 0
  | .coll c => c % 4
  | .forward d => d % 4
  | .access a => a / 2048 % 4

/-- The path of a transfer from one node to another; the crossing gives the row between Border dies (R28 to R30). -/
def meshRoute (src dst : Nat) (x : Crossing) : List Nat :=
  if src = dst then [src]
  else if src < 16 ∧ dst < 16 then coilRoute src dst
  else if src < 16 then borderRoute src (dst - 16)
  else if dst < 16 then (borderRoute dst (src - 16)).reverse
  else [src] ++ alongRow x.row (borderX (src - 16)) (borderX (dst - 16)) ++ [dst]

/-- The Border die of a Wale port, as a node of the mesh (R22, R25). -/
def portNode (port : Nat) : Nat := 16 + port / 8 % 2

end Sys2Proof.Machine
end

