-- ==== Sys2Proof/Machine/FaultOps.lean ====
section
/-!
DEFINITION. The event log, stopping a partition, halting a job, and the one operation by which the
module raises a fault (R691 to R702).
-/

namespace Sys2Proof.Machine

/-! ### The event log (R746, R747) -/

/-- Whether the module holds SMB_ALERT_N low: an undelivered event or a sensor at critical level or
above, except while the sideband is released (R771, R797). -/
def State.alertOn (s : State) : Bool :=
  !s.hdl.restarting && !s.pwr.off && (!s.hdl.events.isEmpty || (below 71).any (fun k => decide (2 ≤ s.rg R.hdlSensorLevel k)))

/-- Drive SMB_ALERT_N where its level changed from s to t. -/
def State.pinAlert (s t : State) : State :=
  if s.alertOn = t.alertOn then t else t.emit (.pin "SMB_ALERT_N" (!t.alertOn))

/-- Append entries to both event logs, which keep the newest 65,536 (R747). -/
def State.appendLog (s : State) (l : List Nat) : State :=
  let l := s.hdl.log ++ l
  { s with hdl := { s.hdl with log := l.drop (l.length - 65536) } }

/-- Write an event log entry (R746, R747), which is also an event for a registered receiver (R722).
During a Handle restart the sensor hub holds up to 64 entries and discards the rest (R752). -/
def State.logEntry (s : State) (kind detail unit payload : Nat) : State :=
  let seq := s.rg R.hdlLogSeqSeq 0
  let e := seq + s.round * 2 ^ 64 + kind * 2 ^ 128 + detail % 256 * 2 ^ 136 + unit % 65536 * 2 ^ 144
    + payload * 2 ^ 192
  if s.hdl.restarting then
    if 64 ≤ s.hdl.held.length then s
    else { s with hdl := { s.hdl with held := s.hdl.held ++ [e] } }.radd R.hdlLogSeqSeq 0 1
  else
    let t := (s.appendLog [e]).radd R.hdlLogSeqSeq 0 1
    if s.hdl.receiver then s.pinAlert { t with hdl := { t.hdl with events := t.hdl.events ++ [e] } } else t

/-! ### Weave entries as records (R88, R90, R91) -/

/-- round_offset of an entry. -/
def weOffset (e : Nat) : Nat := bits e 0 24
/-- kind of an entry. -/
def weKind (e : Nat) : Nat := bits e 24 4
/-- context of an entry. -/
def weCtx (e : Nat) : Nat := bits e 32 12
/-- partition of an entry. -/
def wePart (e : Nat) : Nat := bits e 44 6
/-- slip budget of an entry, 0 standing for 2 Rounds. -/
def weBudget (e : Nat) : Nat := if bits e 56 8 = 0 then 2 else bits e 56 8

/-! ### Contexts, weaves and jobs -/

/-- Context states (R145). -/
abbrev ctxFree : Nat := 0
/-- READY (R145). -/
abbrev ctxReady : Nat := 1
/-- ACTIVE (R145). -/
abbrev ctxActive : Nat := 2
/-- DRAINING (R145). -/
abbrev ctxDraining : Nat := 3
/-- ERROR (R145). -/
abbrev ctxError : Nat := 4
/-- HALTED (R145). -/
abbrev ctxHalted : Nat := 5

/-- State of a context (R145). -/
def State.ctxState (s : State) (c : Nat) : Nat := s.rg R.ctxStatusState c

/-- What a front holds for a context that it has not served yet. -/
def CtxSt.empty : CtxSt := ⟨0, [], [], [], 0, 0, 3, none, false, none, 0⟩

/-- What the front holds for a context. -/
def State.ctx (s : State) (c : Nat) : CtxSt := smGetD s.ctxs c CtxSt.empty

/-- Replace what the front holds for a context. -/
def State.setCtx (s : State) (c : Nat) (x : CtxSt) : State :=
  { s with ctxs := smPut CtxSt.empty s.ctxs c x }

/-- A ring that holds nothing. -/
def RingSt.empty : RingSt := ⟨0, [], false, none⟩

/-- Ring n of a context. -/
def State.ring (s : State) (c n : Nat) : RingSt := smGetD s.rings (c * 4 + n) RingSt.empty

/-- Replace ring n of a context. -/
def State.setRing (s : State) (c n : Nat) (r : RingSt) : State :=
  { s with rings := smPut RingSt.empty s.rings (c * 4 + n) r }

/-- Contexts that are not FREE, context 0 included (R145, R153). -/
def State.boundCtxs (s : State) : List Nat :=
  let l := (s.regs.filter (fun e => e.1 % 1024 == R.ctxStatusState.id && e.2 != 0)).map (fun e => e.1 / 1024)
  if s.ctxState 0 = 0 ∨ l.contains 0 then l else 0 :: l

/-- Contexts bound to a partition (R164); context 0 belongs to none (R153). -/
def State.ctxsOf (s : State) (p : Nat) : List Nat :=
  s.boundCtxs.filter (fun c => c != 0 && s.rg R.ctxCfgPartition c == p)

/-- Dispatched packets of a context that have not completed; a packet rejected at fetch is never dispatched (R124,
R127). -/
def CtxSt.dispatched (x : CtxSt) : Nat := (x.jobs.filter (fun j => j.pkt.reject.isNone)).length

/-- Set the number of dispatched packets that the context reports (R161). -/
def State.noteJobs (s : State) (c : Nat) : State :=
  s.rset R.ctxStatusDispatched c (s.ctx c).dispatched

/-- Move every undispatched packet of a context to the list of discarded packets (R149). -/
def State.flushQueues (s : State) (c : Nat) : State :=
  let qs := (below 4).flatMap (fun n => (s.ring c n).queue)
  let s := (below 4).foldl (fun s n => s.setRing c n { s.ring c n with queue := [], more := false }) s
  let x := s.ctx c
  s.setCtx c { x with flushed := x.flushed ++ qs }

/-- End the unfinished jobs of a context with a status (R151, R152). -/
def endJobs (st : Nat) (l : List Job) : List Job :=
  l.map (fun j => if j.fin.isSome then j else { j with fin := some ⟨st, 0, 0⟩ })

/-- A context enters HALTED (R151). -/
def State.haltCtx (s : State) (c st : Nat) : State :=
  let s := s.flushQueues c
  let x := s.ctx c
  let s := s.setCtx c { x with jobs := endJobs st x.jobs }
  let s := { s with waiting := s.waiting.filter (fun w => w.ctx != c) }
  (s.rset R.partCtxStateWaiting c 0).rset R.ctxStatusState c ctxHalted

/-- Stop the weaves of a partition: none starts another descriptor (R221, R692). -/
def State.cutWeaves (s : State) (p st : Nat) : State :=
  { s with weaves := s.weaves.map (fun w =>
      if w.part = p ∧ w.ctx ≠ 0 then
        { w with cut := true, stop := some (w.stop.getD (st, 0, 0)) } else w) }

/-- Bytes that a message takes in an early-arrival buffer (R637). -/
def Msg.bytes (m : Msg) : Nat := 32 + m.data.length

/-- Keep the registers of the early-arrival buffers (R644): channel c uses that of die c mod 2. -/
def State.noteEarly (s : State) : State :=
  (below 2).foldl (fun s b =>
    let u := ((s.coll.early.filter (fun m => m.vc % 2 == b)).map Msg.bytes).sum
    (s.rset R.collEarlyUseUsed b u).rset R.collEarlyUsePeak b (max u (s.rg R.collEarlyUsePeak b))) s

/-- Keep the status register of a channel (R645). -/
def State.noteChan (s : State) (c : Nat) : State :=
  let l := smGetD s.coll.ops c []
  let s := s.rset R.collChanStatusPosted c l.length
  let w := match l with
    | [] => (0, 0, 0, 0)
    | o :: _ => match o.steps.getLast? with
      | some x => (1, x.step, bits o.words 272 10, bits o.words 288 32)
      | none => (2, o.next, bits o.words 272 10, bits o.words 288 32)
  (((s.rset R.collChanStatusState c w.1).rset R.collChanStatusStep c w.2.1).rset R.collChanStatusGroup c
    w.2.2.1).rset R.collChanStatusSequence c w.2.2.2

/-- Discard the posted collectives and early arrivals of a partition's channels, with the steps in progress and their
entries, and clear the enable of its groups (R614). -/
def State.dropColl (s : State) (p : Nat) : State :=
  let chans := onesOf 32 (s.rg R.partResCollChannels p)
  let s := { s with
    coll := { s.coll with
      ops := smFilter (fun k => !(chans.contains k)) s.coll.ops
      early := s.coll.early.filter (fun m => !(chans.contains m.vc)) }
    wtab := { s.wtab with active := s.wtab.active.filter (fun e =>
      !(weKind e.words == 3 && chans.contains (bits e.words 64 5))) } }
  let s := chans.foldl (fun s c => s.noteChan c) s.noteEarly
  (below 1024).foldl (fun s g =>
    if s.rg R.collGroupCfgPartition g = p ∧ s.rb R.collGroupCfgEnable g then
      s.rset R.collGroupCfgEnable g 0 else s) s

/-- Discard the queued video jobs of contexts that a test selects (R657, R692). -/
def State.dropVid (s : State) (p : Nat → Bool) : State :=
  (below 2).foldl (fun s b =>
    let l := (smGetD s.vid.jobs b []).filter (fun j => !(p j.ctx))
    { s with vid := { s.vid with jobs := smPut [] s.vid.jobs b l } }.rset R.vidJobsQueued b l.length) s

/-- A fault stops a partition (R692, R151, R614). -/
def State.stopPartition (s : State) (st p : Nat) : State :=
  let cs := s.ctxsOf p
  let s := cs.foldl (fun s c => s.haltCtx c st) s
  ((s.cutWeaves p st).dropColl p).dropVid (fun c => cs.contains c)

/-- The enabled partitions. -/
def State.enabledParts (s : State) : List Nat := (below 64).filter (fun p => s.rb R.partCfgEnable p)

/-- A Weave table is armed or running (R83, R105). -/
def State.tableOn (s : State) : Bool := decide (2 ≤ s.rg R.weaveStatusState 0)

/-- Partitions named in the loaded table, lowest first: the job's partitions (R698). -/
def State.jobParts (s : State) : List Nat :=
  (below 64).filter (fun p => s.wtab.table.any (fun e => wePart e == p))

/-! ### Symbols -/

/-- Ports that are UP (R595). -/
def State.upPorts (s : State) : List Nat := (below 16).filter (fun n => s.rg R.walePortStatusState n == 5)

/-- A symbol that came in on a port and is relayed on ports of the other Border die crosses row 0 of the mesh (R30). -/
def State.symbolCross (s : State) (port : Nat) (l : List Nat) : State :=
  if port < 16 ∧ l.any (fun n => portNode n != portNode port) then
    s.emit (.mesh (meshRoute (portNode port) (33 - portNode port) .symbol))
  else s

/-- Send a symbol on every UP port but the one it came in on (16 for none), and owe its repeats (R30, R579). -/
def State.broadcast (s : State) (y : Sym) (but : Nat) : State :=
  let s := s.symbolCross but s.upPorts
  let s := (s.upPorts.filter (fun n => n != but)).foldl (fun s n => s.sendSym n y) s
  { s with rnd := { s.rnd with repeats := s.rnd.repeats ++ [(y, 2, but)] } }

/-! ### Fault records -/

/-- What a fault record holds beside its scope, phase, origin and Round (R695). -/
structure FaultInfo where
  code : Nat
  kind : Nat
  unit : Nat
  part : Nat
  ctx : Nat
  status : Nat
  entry : Nat
  slip : Nat
  occ : Nat
  addr : Nat
  detail : Nat
  deriving DecidableEq, Repr

/-- A fault with nothing concerned but its unit. -/
def FaultInfo.mk0 (code kind unit : Nat) : FaultInfo := ⟨code, kind, unit, 0, 0, 0, 0, 0, 0, 0, 0⟩

/-- The 512 bits of a fault record, its phase bit zero (R695). -/
def faultRecord (f : FaultInfo) (scope remote origin round : Nat) : Nat :=
  f.code + scope * 2 ^ 16 + remote * 2 ^ 18 + f.kind * 2 ^ 20 + f.unit % 4096 * 2 ^ 24
  + (if scope = 0 then f.part else 0) * 2 ^ 36 + f.ctx * 2 ^ 48 + origin * 2 ^ 64 + f.status * 2 ^ 80
  + round * 2 ^ 96 + f.entry * 2 ^ 160 + f.slip % 2 ^ 32 * 2 ^ 192 + f.occ % 2 ^ 64 * 2 ^ 224
  + f.addr % 2 ^ 48 * 2 ^ 288 + f.detail % 2 ^ 32 * 2 ^ 352

/-- Phase of the record at a producer index of a ring of 2^n records (R142). -/
def phaseOf (n pi : Nat) : Nat := 1 - pi / 2 ^ n % 2

/-- Store a record in FLT_LASTj (R697). -/
def State.setLast (s : State) (r : Nat) : State :=
  (below 8).foldl (fun s j => s.rset R.fltLastRecord j (bits r (64 * j) 64)) s

/-- Whether the fault ring takes no further record (R697). -/
def State.fltRingFull (s : State) : Bool :=
  decide (2 ^ s.rg R.fltRingCfgLog2Size 0 - 1 ≤
    (s.rg R.fltRingPiPi 0 + 2 ^ 32 - s.rg R.fltRingCiCi 0) % 2 ^ 32)

/-- Write a fault record to the ring, FLT_LASTj and the event log (R696, R697). -/
def State.writeFault (s : State) (r : Nat) : State :=
  let n := s.rg R.fltRingCfgLog2Size 0
  let pi := s.rg R.fltRingPiPi 0
  let r := r + phaseOf n pi * 2 ^ 19
  let s := s.setLast r
  let s := s.logEntry 0 0 0 (r % 2 ^ 320)
  let s := s.rset R.fltStatusFault 0 1
  if ¬ s.rb R.fltRingCfgEnable 0 then s
  else if s.fltRingFull then (s.radd R.fltDroppedCount 0 1).rset R.fltStatusRingFull 0 1
  else
    let a := s.rg R.fltRingBaseBase 0 / 4096 * 4096 + pi % 2 ^ n * 64
    let s := (s.pwrite noCtx a (natLe 64 r) true).s
    (s.radd R.fltRingPiPi 0 1).emit (.msix 0 (s.rg R.fltRingCfgMsixVector 0))

/-- Whether a code's scope is a partition when no table is armed or running (R691).  For
FLT_SRAM_UNCORRECTABLE it is when the unit is a Stake. -/
def partScope (f : FaultInfo) : Bool :=
  f.code == fltWeaveContext || f.code == fltWeaveError || f.code == fltCollTimeout ||
  f.code == fltCollectiveOrder || f.code == fltCollData ||
  (f.code == fltSramUncorrectable && f.kind == 0)

/-- Abandon the mirror windows in progress, sent and received: messages that have not begun are not sent, and the next
message of any epoch is a first one (R698, R709, R710). -/
def State.dropWindows (s : State) : State :=
  let keep := fun (p : PortSt) (m : Msg) =>
    m.vc != 47 || bits m.header 160 2 == 3 ||
      ((smGet p.gone 47).isSome && (p.out.find? (fun x => x.vc == 47)).any (fun x => x.id == m.id))
  { s with
    flt := { s.flt with windows := [], rxEpoch := none }
    wale := { s.wale with ports := s.wale.ports.map (fun e => (e.1, { e.2 with out := e.2.out.filter (keep e.2) })) } }

/-- Halt the job (R698): issue stops, the job's partitions stop, mirror windows are abandoned; an entry that goes on
raises no overrun of its own (R96). -/
def State.haltJob (s : State) (st : Nat) : State :=
  let s := s.dropWindows
  let s := (s.rset R.weaveStatusState 0 1).rset R.weaveStatusDone 0 1
  let s := { s with wtab := { s.wtab with
      waiting := [], lastOcc := none
      active := s.wtab.active.filter (fun e => weKind e.words != 6)
      quiet := s.wtab.active } }
  let s := s.jobParts.foldl (fun s p => s.stopPartition st p) s
  s.rset R.fltStatusJobHalted 0 1

/-- Stop what the scope of a fault names in R691 (R692, R702). -/
def State.stopScope (s : State) (f : FaultInfo) (st : Nat) : State :=
  if partScope f then (if s.rb R.partCfgEnable f.part then s.stopPartition st f.part else s)
  else s.enabledParts.foldl (fun s p => s.stopPartition st p) s

/-- The module raises a fault (R691 to R693, R696, R702).  While the table is armed or running, or
after a halt until the table is next armed, the record has scope 2 and a FAULT symbol goes out; the
first such fault halts the job. -/
def State.raise (s : State) (f : FaultInfo) : State :=
  let on := s.tableOn
  let job := on || s.rb R.fltStatusJobHalted 0
  let scope := if job then 2 else if partScope f then 0 else 1
  let origin := s.rg R.waleCfgModuleId 0
  let s := s.radd R.fltCountCount 0 1
  let s := s.writeFault (faultRecord f scope 0 origin s.round)
  let s := if on then s.haltJob stFaultLocal else s
  let s := s.stopScope f stFaultLocal
  if job then
    let s := { s with flt := { s.flt with seen := (origin, f.code, s.round) :: s.flt.seen } }
    s.broadcast (.fault origin f.code s.round) 16
  else s

end Sys2Proof.Machine
end

