-- ==== Sys2Proof/Machine/HdlOps.lean ====
section
/-!
DEFINITION. The Handle's own operations: the configuration store and its writes, keys, measurements,
firmware images, and requests with their answers (R719 to R737, R744, R748).
-/

namespace Sys2Proof.Machine

/-! ### The copy in force (R731 to R733) -/

/-- The copy in force (R733, R750). -/
def State.inForce (s : State) : CfgCopy := if s.rb R.hdlStatusCfgCopy 0 then s.hdl.copy1 else s.hdl.copy0

/-- The value of a record of a copy. -/
def CfgCopy.value (c : CfgCopy) (tag : Nat) : Option (List Byte) :=
  (c.recs.find? (fun r => r.tag == tag)).map CfgRec.value

/-- The number that a record of a copy holds, 0 where it is absent. -/
def CfgCopy.numOf (c : CfgCopy) (tag : Nat) : Nat := leNat ((c.value tag).getD [])

/-- The writer that the table gives a tag (R732): 0 manufacturing, 1 the Handle, 2 an integrator; 3 for
a tag that it does not list. -/
def tagWriter (tag : Nat) : Nat :=
  if [0x01, 0x02, 0x03, 0x11, 0x12].contains tag then 0
  else if [0x04, 0x10, 0x20, 0x22].contains tag then 1
  else if [0x21, 0x30, 0x40, 0x41].contains tag then 2 else 3

/-- A record as bytes: its header and its value, padded to a multiple of 8 (R732). -/
def recBytes (r : CfgRec) : List Byte :=
  natLe 8 (r.tag + r.value.length * 2 ^ 16 + r.writer * 2 ^ 32) ++ r.value ++ natLe ((8 - r.value.length % 8) % 8) 0

/-- Replace or add a record. -/
def putRec (l : List CfgRec) (r : CfgRec) : List CfgRec :=
  if l.any (fun x => x.tag == r.tag) then l.map (fun x => if x.tag = r.tag then r else x) else l ++ [r]

/-- Bytes of a body (R731). -/
def bodyLen (l : List CfgRec) : Nat := (l.map (fun r => (recBytes r).length)).sum

/-! ### Keys (R331, R732, R737) -/

/-- The key of key_id k among the entries of INTEGRATOR_KEY, 65 bytes each (R732). -/
def keyIn (k : Nat) (v : List Byte) : Option (List Byte) :=
  ((pieces 65 v).find? (fun e => (e.headD 0).toNat == k)).map List.tail

/-- The public key of a key_id, where it is enrolled (R331, R732, R737). -/
def State.keyOf (s : State) (k : Nat) : Option (List Byte) :=
  if k = 0 then some Config.tableKey
  else match s.inForce.value 0x30 with
    | none => none
    | some v => keyIn k v

/-! ### Measurements (R744) -/

/-- Measurement m (R744, R750). -/
def State.measurement (s : State) (m : Nat) : List Byte :=
  (below 4).flatMap (fun j => natLe 8 (s.rg R.hdlMeasjValue (4 * m + j)))

/-- Set a measurement. -/
def State.setMeasurement (s : State) (m v : Nat) : State :=
  (below 4).foldl (fun s j => s.rset R.hdlMeasjValue (4 * m + j) (bits v (64 * j) 64)) s

/-- Bytes i to i + n − 1 of SHAKE256 of a byte string. -/
def shake (l : List Byte) (i n : Nat) : List Byte := (upFrom i n).map (Config.shake256 l)

/-- SHAKE256 of a byte string, as 32 bytes. -/
def digest (l : List Byte) : List Byte := shake l 0 32

/-- SHAKE256 of ASCII bytes followed by the key that the Handle reconstructs (R740, R741). -/
def keyed (tag : String) (i n : Nat) : List Byte :=
  shake (tag.toUTF8.toList.map (fun b => b.toBitVec) ++ natLe 32 Config.pufKey.toNat) i n

/-- The attestation key's SK_SEED, SK_PRF and PUB_SEED (R741). -/
def skSeed : List Byte := keyed "QP-YL32 AK" 0 32
def skPrf : List Byte := keyed "QP-YL32 AK" 32 32
def pubSeed : List Byte := keyed "QP-YL32 AK" 64 32

/-- The signature of a report body with some index (R742, R745). -/
def attestSignature (idx : Nat) (body : List Byte) : List Byte :=
  (below 9893).map (Config.attestSign skSeed skPrf pubSeed idx body)

/-- Extend a measurement by a digest of 32 bytes (R744). -/
def State.extend (s : State) (m : Nat) (d : List Byte) : State :=
  s.setMeasurement m (leNat (digest (s.measurement m ++ d)))

/-- Tags whose records measurement 2 covers (R744). -/
def measuredTags : List Nat := [0x01, 0x03, 0x20, 0x30]

/-- Extend measurement 2 by the copy in force (R744). -/
def State.measureStore (s : State) : State :=
  let c := s.inForce
  s.extend 2 (digest (measuredTags.flatMap (fun t => (c.recs.filter (fun r => r.tag == t)).flatMap recBytes)))

/-! ### Values that the store holds for registers (class S, R16) -/

/-- Thresholds of the SENSOR_LIMITS record, 4 bytes for each sensor (R732). -/
def State.readLimits (s : State) (v : List Byte) : State :=
  ((pieces 4 v).zip (below 71)).foldl (fun s x =>
    (s.rset R.hdlSensorWarn x.2 (bits (leNat x.1) 0 16)).rset R.hdlSensorCrit x.2 (bits (leNat x.1) 16 16)) s

/-- The registers that show the copy in force, but for channel health; without a SENSOR_LIMITS record the thresholds are
those of R738 (R192, R735, R750). -/
def State.readStore (s : State) : State :=
  let c := s.inForce
  let s := (s.rset R.hdlCfgSeqSequence 0 c.seq).rset R.hdlFwMinSvn 0 (c.numOf 0x20)
  let s := match c.value 0x11 with
    | some v => ((pieces 4 v).zip (below 8)).foldl (fun (t : State) (x : List Byte × Nat) => t.rset R.partEnergyCoefCoef x.2 (leNat x.1)) s
    | none => s
  s.readLimits ((c.value 0x41).getD ((below 71).flatMap (fun k => natLe 2 (sensorLimits k).1 ++ natLe 2 (sensorLimits k).2)))

/-- The SENSOR_LIMITS record as the threshold registers stand. -/
def State.limitBytes (s : State) : List Byte :=
  (below 71).flatMap (fun k => natLe 2 (s.rg R.hdlSensorWarn k) ++ natLe 2 (s.rg R.hdlSensorCrit k))

/-! ### Writes of the store (R734) -/

/-- Records after channel health has changed (R475, R732). -/
def putHealth (l : List CfgRec) (hs : List (Nat × Nat)) : List CfgRec :=
  if hs.isEmpty then l
  else
    let n := leNat (((l.find? (fun r => r.tag == 0x10)).map CfgRec.value).getD [])
    putRec l ⟨0x10, 1, natLe 256 (hs.foldl (fun n h => putBits n (2 * h.1) 2 h.2) n)⟩

/-- Records after thresholds have changed, from the record as the registers show it. -/
def putLimits (l : List CfgRec) (cur : List Byte) (ls : List (Nat × Nat × Nat)) : List CfgRec :=
  if ls.isEmpty then l
  else
    let n := leNat (((l.find? (fun r => r.tag == 0x41)).map CfgRec.value).getD cur)
    putRec l ⟨0x41, 2, natLe 284 (ls.foldl (fun n x => putBits (putBits n (32 * x.1) 16 x.2.1) (32 * x.1 + 16) 16 x.2.2) n)⟩

/-- The body that a change makes of the copy in force (R734). -/
def State.newBody (s : State) (c : CfgChange) : List CfgRec :=
  let l := c.body.getD s.inForce.recs
  let l := c.set.foldl putRec (l.filter (fun r => !(c.del.contains r.tag)))
  putLimits (putHealth l c.health) s.limitBytes c.limits

/-- A recorded health state takes effect; a channel that is PENDING or OUT becomes GOOD only at the next
module reset (R478). -/
def State.applyHealth (s : State) (ch st : Nat) : State :=
  let s := s.logEntry 5 st ch 0
  if 2 ≤ s.rg R.memChanStateState ch ∧ st = 0 then s
  else
    let p := s.rg R.memChanPendingPending (ch / 64)
    (s.rset R.memChanStateState ch st).rset R.memChanPendingPending (ch / 64) (putBits p (ch % 64) 1 (b2n (st == 2)))

/-- What the write of FW_ACTIVE and FW_MIN_SVN does beside the store (R728, R729). -/
def State.applyFw (s : State) (r : CfgRec) : State :=
  let slot := leNat r.value
  if r.tag = 0x22 then
    if slot = s.rg R.hdlStatusFwSlot 0 then s.rset R.hdlStatusStaged 0 0
    else (s.rset R.hdlStatusStaged 0 1).logEntry 3 1 slot 0
  else if r.tag = 0x20 then s.logEntry 3 2 (s.rg R.hdlStatusFwSlot 0) 0
  else s

/-- Tags that a change touches. -/
def CfgChange.tags (c : CfgChange) : List Nat :=
  c.set.map CfgRec.tag ++ c.del ++ (if c.health.isEmpty then [] else [0x10]) ++ (if c.limits.isEmpty then [] else [0x41]) ++
    (if c.body.isSome then [0] else [])

/-- A write of the configuration store completes: the other copy takes the new body with a sequence one
greater, and is in force (R734).  The event log names each record (R746). -/
def State.writeStore (s : State) (c : CfgChange) : State :=
  let copy : CfgCopy := ⟨max s.inForce.seq c.seq + 1, true, s.newBody c⟩
  let two := s.rb R.hdlStatusCfgCopy 0
  let s := { s with hdl := if two then { s.hdl with copy0 := copy } else { s.hdl with copy1 := copy } }
  let s := (s.rset R.hdlStatusCfgCopy 0 (b2n (!two))).readStore
  let s := c.health.foldl (fun s h => s.applyHealth h.1 h.2) s
  let s := c.set.foldl (fun s r => s.applyFw r) s
  let s := if c.tags.any (fun t => measuredTags.contains t || t == 0) then s.measureStore else s
  c.tags.foldl (fun s t => s.logEntry 4 t 0 copy.seq) s

/-- Complete every waiting write, in order. -/
def State.writeAll (s : State) : State :=
  s.hdl.changes.foldl (fun s c => s.writeStore c) { s with hdl := { s.hdl with changes := [] } }

/-! ### Firmware images (R724, R725) -/

/-- Length of a signature block (R330). -/
abbrev sigLen : Nat := 2820

/-- Whether bytes are signed by the boot ROM's key, the signature block beginning at the first multiple
of 64 bytes after n bytes (R330, R724, R736). -/
def bootSigned (l : List Byte) (n : Nat) : Bool :=
  let at_ := (n + 63) / 64 * 64
  decide (at_ + sigLen ≤ l.length) && Config.xmssVerify Config.bootKey (l.take n) ((l.drop at_).take sigLen)

/-- A firmware image from its bytes; `ok` is every test of R725 but the floor (R724, R725). -/
def parseImage (l : List Byte) : FwImage :=
  let h := leNat (l.take 64)
  let n := 64 + bits h 96 32
  let clear := clearBits h
  let len := (n + 63) / 64 * 64 + sigLen
  ⟨bits h 64 32, bits h 48 16,
    bits h 0 32 == 0x57524648 && bits h 32 8 == 1 && bits h 128 32 == 0x0B320001 && clear &&
      bit h (160 + Config.stepping.toNat) && decide (len ≤ 0x2000000) && bootSigned l n,
    leNat (digest (l.take len))⟩
where
  /-- No reserved bit of the header is set. -/
  clearBits (h : Nat) : Bool := bits h 40 8 == 0 && bits h 176 336 == 0

/-- The firmware image in a slot. -/
def State.slotImage (s : State) (k : Nat) : Option FwImage := if k = 0 then s.hdl.slot0 else s.hdl.slot1

/-- Replace a firmware slot. -/
def State.setSlot (s : State) (k : Nat) (i : Option FwImage) : State :=
  { s with hdl := if k = 0 then { s.hdl with slot0 := i } else { s.hdl with slot1 := i } }

/-- The valid image of a slot (R725). -/
def State.validImage (s : State) (k : Nat) : Option FwImage :=
  match s.slotImage k with
  | some i => if i.ok ∧ s.inForce.numOf 0x20 ≤ i.svn then some i else none
  | none => none

/-! ### Requests (R723, R748, R749) -/

/-- DONE. -/
abbrev resDone : Nat := 0
/-- BAD_REQUEST. -/
abbrev resBadRequest : Nat := 1
/-- BAD_OPCODE. -/
abbrev resBadOpcode : Nat := 2
/-- DENIED. -/
abbrev resDenied : Nat := 3
/-- SIGNATURE. -/
abbrev resSignature : Nat := 4
/-- ROLLBACK. -/
abbrev resRollback : Nat := 5
/-- BUSY. -/
abbrev resBusy : Nat := 6
/-- NO_SPACE. -/
abbrev resNoSpace : Nat := 7
/-- EXHAUSTED. -/
abbrev resExhausted : Nat := 8
/-- MEMORY. -/
abbrev resMemory : Nat := 9

/-- The n-byte number at an offset of the mailbox. -/
def State.mbox (s : State) (o n : Nat) : Nat := leNat ((upFrom o n).map (fun i => smGetD s.hdl.mailbox i 0))

/-- Store bytes in the mailbox. -/
def State.setMbox (s : State) (o : Nat) (l : List Byte) : State :=
  { s with hdl := { s.hdl with mailbox :=
      (l.zip (upFrom o l.length)).foldl (fun m x => smPut 0 m x.2 x.1) s.hdl.mailbox } }

/-- The Handle's address on a path: on SMBus that of the SIDEBAND record, 0x62 where it is absent; elsewhere its
endpoint identifier (R721, R723). -/
def State.pathAddr (s : State) (path : Nat) : Nat :=
  if path = 3 then ((s.inForce.value 0x40).map leNat).getD 0x62 else s.hdl.eid

/-- Send a message on a management path (R721). -/
def State.sendMctp (s : State) (path : Nat) (l : List Byte) : State := s.emit (.mctp path (s.pathAddr path) l)

/-- Answer a request on its path: the payload, then the result, then resp_seq (R748).  A refusal for
want of right, a bad signature and a rollback are SECURITY entries of the log (R746). -/
def State.respond (s : State) (r : HdlReq) (result : Nat) (payload : List Byte) : State :=
  let s := if result = resDenied ∨ result = resSignature ∨ result = resRollback then s.logEntry 6 result 0 0 else s
  if r.path = 0 then
    let s := (s.setMbox 64 payload).setMbox 6 (natLe 2 payload.length)
    (s.setMbox 3 (natLe 1 result)).setMbox 4 (natLe 2 r.seq)
  else
    let h := r.seq + r.op * 2 ^ 16 + result * 2 ^ 24 + r.seq * 2 ^ 32 + payload.length * 2 ^ 48
    s.sendMctp r.path (natLe 64 h ++ payload)

/-- The opcodes of R749. -/
def hdlOps : List Nat := [0x01, 0x02, 0x10, 0x11, 0x12, 0x20, 0x21, 0x22, 0x23, 0x24, 0x30, 0x31]

/-- The opcodes that the recovery state accepts (R733). -/
def recoveryOps : List Nat := [0x01, 0x02, 0x10, 0x11, 0x23]

/-- Whether the module is in the recovery state (R733). -/
def State.recovery (s : State) : Bool := s.rg R.hdlStatusState 0 == 2

/-- Take the next request that waits into service; those that R749 or R733 does not accept are answered
at once. -/
def State.pullReq (s : State) : Nat → State
  | 0 => s
  | fuel + 1 =>
    match s.hdl.req, s.hdl.queue with
    | none, r :: rest =>
      let s := { s with hdl := { s.hdl with queue := rest } }
      if ¬ hdlOps.contains r.op then (s.respond r resBadOpcode []).pullReq fuel
      else if s.recovery ∧ ¬ recoveryOps.contains r.op then (s.respond r resDenied []).pullReq fuel
      else { s with hdl := { s.hdl with req := some r } }
    | _, _ => s

/-- A request arrives (R723). -/
def State.putReq (s : State) (r : HdlReq) : State :=
  let s := { s with hdl := { s.hdl with queue := s.hdl.queue ++ [r] } }
  s.pullReq s.hdl.queue.length

/-- The request in service leaves it, and the next one is taken. -/
def State.nextReq (s : State) : State :=
  { s with hdl := { s.hdl with req := none } }.pullReq s.hdl.queue.length

/-- The request in service ends (R748). -/
def State.answer (s : State) (result : Nat) (payload : List Byte) : State :=
  match s.hdl.req with
  | some r => (s.respond r result payload).nextReq
  | none => s

end Sys2Proof.Machine
end

