-- ==== Sys2Proof/Machine/Num.lean ====
section
/-!
DEFINITION. Number formats, exact values, rounding and conversion (R246 to R250, R259 to R273, R275,
R276).  Every finite value is ± m × 2^e, so sums and products are exact and one function rounds.
-/

namespace Sys2Proof.Machine

/-! ### Exact values -/

/-- A value of the arithmetic: NaN, an infinity, or ± m × 2^e (a zero has m = 0 and a sign). -/
inductive Num where
  | nan
  | inf (neg : Bool)
  | fin (neg : Bool) (m : Nat) (e : Int)
  deriving DecidableEq, Repr

/-- +0. -/
def Num.zero : Num := .fin false 0 0

/-- An integer as a value. -/
def Num.ofInt (i : Int) : Num := .fin (decide (i < 0)) i.natAbs 0

/-- Whether a value is a zero of either sign. -/
def Num.isZero : Num → Bool
  | .fin _ 0 _ => true
  | _ => false

/-- Whether a value is NaN. -/
def Num.isNan : Num → Bool
  | .nan => true
  | _ => false

/-- Whether a value is finite. -/
def Num.isFin : Num → Bool
  | .fin _ _ _ => true
  | _ => false

/-- The value with its sign reversed; NaN stays NaN. -/
def Num.neg : Num → Num
  | .nan => .nan
  | .inf n => .inf (!n)
  | .fin n m e => .fin (!n) m e

/-- The magnitude of a value. -/
def Num.abs : Num → Num
  | .nan => .nan
  | .inf _ => .inf false
  | .fin _ m e => .fin false m e

/-- The signed mantissa of ± m × 2^e at a lower exponent e0. -/
def mantAt (neg : Bool) (m : Nat) (e e0 : Int) : Int :=
  let k := m * 2 ^ (e - e0).toNat
  if neg then -(k : Int) else k

/-- The exact sum under IEEE 754: infinities of both signs give NaN, and an exact zero is −0 only when
both addends are −0 (R261, R262). -/
def Num.add : Num → Num → Num
  | .nan, _ => .nan
  | _, .nan => .nan
  | .inf a, .inf b => if a = b then .inf a else .nan
  | .inf a, _ => .inf a
  | _, .inf b => .inf b
  | .fin a m e, .fin b n f =>
    if m = 0 ∧ n = 0 then .fin (a && b) 0 0
    else if m = 0 then .fin b n f
    else if n = 0 then .fin a m e
    else
      let e0 := min e f
      let k := mantAt a m e e0 + mantAt b n f e0
      if k = 0 then .fin false 0 0 else .fin (decide (k < 0)) k.natAbs e0

/-- The exact difference. -/
def Num.sub (a b : Num) : Num := a.add b.neg

/-- The exact product: zero times infinity is NaN (R261). -/
def Num.mul : Num → Num → Num
  | .nan, _ => .nan
  | _, .nan => .nan
  | .inf a, .inf b => .inf (a != b)
  | .inf a, .fin b m _ => if m = 0 then .nan else .inf (a != b)
  | .fin a m _, .inf b => if m = 0 then .nan else .inf (a != b)
  | .fin a m e, .fin b n f => .fin (a != b) (m * n) (e + f)

/-- The exact sum of a list, in which a zero sum is −0 only when every addend is (R261). -/
def Num.sum : List Num → Num
  | [] => Num.zero
  | x :: xs => xs.foldl Num.add x

/-- Scale by a power of two. -/
def Num.scale2 (k : Int) : Num → Num
  | .fin n m e => .fin n m (e + k)
  | x => x

/-- Whether a < b; false where either is NaN, with −0 equal to +0. -/
def Num.lt : Num → Num → Bool
  | .nan, _ => false
  | _, .nan => false
  | .inf a, .inf b => a && !b
  | .inf a, _ => a
  | _, .inf b => !b
  | .fin a m e, .fin b n f => decide (mantAt a m e (min e f) < mantAt b n f (min e f))

/-- Whether a = b as values; false where either is NaN, with −0 equal to +0. -/
def Num.eqv (a b : Num) : Bool := !a.isNan && !b.isNan && !(a.lt b) && !(b.lt a)

/-- The sign bit; false for NaN. -/
def Num.signBit : Num → Bool
  | .nan => false
  | .inf n => n
  | .fin n _ _ => n

/-- The greater of two values, NaN where either is NaN, −0 below +0 (R276). -/
def Num.max2 (a b : Num) : Num :=
  if a.isNan || b.isNan then .nan
  else if a.lt b then b else if b.lt a then a else if a.signBit then b else a

/-- The lesser of two values, NaN where either is NaN, −0 below +0 (R276). -/
def Num.min2 (a b : Num) : Num :=
  if a.isNan || b.isNan then .nan
  else if a.lt b then a else if b.lt a then b else if a.signBit then a else b

/-- A quotient with bits enough for one correct rounding to any format of the module: the low bit
stands for what is left of the exact quotient. -/
def Num.div : Num → Num → Num
  | .nan, _ => .nan
  | _, .nan => .nan
  | .inf _, .inf _ => .nan
  | .inf a, .fin b _ _ => .inf (a != b)
  | .fin a _ _, .inf b => .fin (a != b) 0 0
  | .fin a m e, .fin b n f =>
    if n = 0 then (if m = 0 then .nan else .inf (a != b))
    else if m = 0 then .fin (a != b) 0 0
    else
      let k := 80 + n.log2
      let q := m * 2 ^ k / n
      let r := m * 2 ^ k % n
      .fin (a != b) (2 * q + (if r = 0 then 0 else 1)) (e - f - k - 1)

/-- The integer square root, two bits of the argument at a time; the fuel is the number of result
bits still to find, and `r` what has been found. -/
def sqrtBits (n : Nat) : Nat → Nat → Nat
  | 0, r => r
  | k + 1, r => let t := r + 2 ^ k
    sqrtBits n k (if t * t ≤ n then t else r)

/-- A square root with bits enough for one correct rounding. -/
def Num.sqrt : Num → Num
  | .nan => .nan
  | .inf n => if n then .nan else .inf false
  | .fin neg m e =>
    if m = 0 then .fin neg 0 0
    else if neg then .nan
    else
      let odd := e % 2
      let m1 := m * 2 ^ odd.toNat * 2 ^ 160
      let e1 := (e - odd) / 2 - 80
      let r := sqrtBits m1 (m1.log2 / 2 + 1) 0
      .fin false (2 * r + (if r * r = m1 then 0 else 1)) (e1 - 1)

/-- 1 ÷ √v with bits enough for one correct rounding. -/
def Num.rsqrt : Num → Num
  | .nan => .nan
  | .inf n => if n then .nan else .fin false 0 0
  | .fin neg m e =>
    if m = 0 then .inf neg
    else if neg then .nan
    else
      let odd := e % 2
      let m1 := m * 2 ^ odd.toNat
      let N := 80 + m1.log2
      let q := 2 ^ (2 * N) / m1
      let r := sqrtBits q (q.log2 / 2 + 1) 0
      .fin false (2 * r + (if r * r * m1 = 2 ^ (2 * N) then 0 else 1)) (-((e - odd) / 2) - N - 1)

/-! ### Rounding -/

/-- The rounding modes of R271; a stochastic rounding carries its 32-bit draw (R273). -/
inductive Rnd where
  | even
  | stoch (r : Nat)
  | zero
  deriving DecidableEq, Repr

/-- Round m × 2^e to a whole number of steps 2^q (R271, R272). -/
def roundSteps (rm : Rnd) (m : Nat) (e q : Int) : Nat :=
  if q ≤ e then m * 2 ^ (e - q).toNat
  else
    let k := (q - e).toNat
    let t := m / 2 ^ k
    let rest := m % 2 ^ k
    match rm with
    | .zero => t
    | .even =>
      if 2 ^ k < 2 * rest ∨ (2 * rest = 2 ^ k ∧ t % 2 = 1) then t + 1 else t
    | .stoch r => if 2 ^ 32 ≤ rest * 2 ^ 32 / 2 ^ k + r then t + 1 else t

/-- A binary floating-point format: exponent and mantissa bits, bias, and how it ends: 0 with no
special encodings, 1 as IEEE 754, 2 as FP8 E4M3 (R247). -/
structure FFmt where
  eb : Nat
  mb : Nat
  bias : Nat
  special : Nat
  deriving DecidableEq, Repr

/-- Exponent of the smallest subnormal. -/
def FFmt.qmin (f : FFmt) : Int := 1 - (f.bias : Int) - f.mb

/-- The largest finite magnitude, as m × 2^e (R247). -/
def FFmt.maxFin (f : FFmt) : Nat × Int :=
  if f.special = 1 then (2 ^ (f.mb + 1) - 1, (2 ^ f.eb - 2 : Int) - f.bias - f.mb)
  else if f.special = 2 then (2 ^ (f.mb + 1) - 2, (2 ^ f.eb - 1 : Int) - f.bias - f.mb)
  else (2 ^ (f.mb + 1) - 1, (2 ^ f.eb - 1 : Int) - f.bias - f.mb)

/-- Bits of an element. -/
def FFmt.width (f : FFmt) : Nat := 1 + f.eb + f.mb

/-- FP32. -/
def fp32 : FFmt := ⟨8, 23, 127, 1⟩
/-- BF16. -/
def bf16 : FFmt := ⟨8, 7, 127, 1⟩
/-- FP16. -/
def fp16 : FFmt := ⟨5, 10, 15, 1⟩
/-- FP8 E4M3. -/
def e4m3 : FFmt := ⟨4, 3, 7, 2⟩
/-- FP8 E5M2. -/
def e5m2 : FFmt := ⟨5, 2, 15, 1⟩
/-- E3M2. -/
def e3m2 : FFmt := ⟨3, 2, 3, 0⟩
/-- E2M3. -/
def e2m3 : FFmt := ⟨2, 3, 1, 0⟩
/-- E2M1. -/
def e2m1 : FFmt := ⟨2, 1, 1, 0⟩

/-- The value of an encoding (R247). -/
def FFmt.decode (f : FFmt) (w : Nat) : Num :=
  let s := bit w (f.eb + f.mb)
  let e := bits w f.mb f.eb
  let m := bits w 0 f.mb
  if f.special = 1 ∧ e = 2 ^ f.eb - 1 then (if m = 0 then .inf s else .nan)
  else if f.special = 2 ∧ e = 2 ^ f.eb - 1 ∧ m = 2 ^ f.mb - 1 then .nan
  else if e = 0 then .fin s m f.qmin
  else .fin s (m + 2 ^ f.mb) (f.qmin + e - 1)

/-- The canonical NaN (R250). -/
def FFmt.nanCode (f : FFmt) : Nat :=
  if f.special = 2 then 2 ^ (f.eb + f.mb) - 1
  else (2 ^ f.eb - 1) * 2 ^ f.mb + 2 ^ (f.mb - 1)

/-- The encoding of ± n × 2^q, where n < 2^(mb + 1), q ≥ qmin, and n ≥ 2^mb unless q = qmin. -/
def FFmt.encode (f : FFmt) (neg : Bool) (n : Nat) (q : Int) : Nat :=
  let sgn := b2n neg * 2 ^ (f.eb + f.mb)
  if n < 2 ^ f.mb then sgn + n else sgn + (q - f.qmin + 1).toNat * 2 ^ f.mb + (n - 2 ^ f.mb)

/-- The step of the format's grid at m × 2^e, m > 0, with an exponent range unbounded above. -/
def FFmt.step (f : FFmt) (m : Nat) (e : Int) : Int := max f.qmin ((m.log2 : Int) + e - f.mb)

/-- Convert a value to the format (R267).  Beyond Max the result is Max, or an infinity under
nearest even in a format that has one. -/
def FFmt.conv (f : FFmt) (rm : Rnd) (v : Num) : Nat :=
  let top (neg : Bool) : Nat := f.encode neg f.maxFin.1 f.maxFin.2
  match v with
  | .nan => if f.special = 0 then 0 else f.nanCode
  | .inf neg =>
    if f.special = 1 then b2n neg * 2 ^ (f.eb + f.mb) + (2 ^ f.eb - 1) * 2 ^ f.mb else top neg
  | .fin neg m e =>
    if m = 0 then b2n neg * 2 ^ (f.eb + f.mb)
    else
      let q := f.step m e
      let n := roundSteps rm m e q
      let nq : Nat × Int := if n = 2 ^ (f.mb + 1) then (2 ^ f.mb, q + 1) else (n, q)
      if (Num.fin false f.maxFin.1 f.maxFin.2).lt (.fin false nq.1 nq.2) then
        (if f.special = 1 ∧ rm = .even then b2n neg * 2 ^ (f.eb + f.mb) + (2 ^ f.eb - 1) * 2 ^ f.mb
         else top neg)
      else f.encode neg nq.1 nq.2

/-- Convert a value to an integer of w bits with the limits of its format; NaN gives 0 (R267). -/
def intConv (rm : Rnd) (w : Nat) (v : Num) : Nat :=
  let lim (neg : Bool) : Int := if neg then -(2 ^ (w - 1) : Nat) else (2 ^ (w - 1) : Nat) - 1
  let i : Int := match v with
    | .nan => 0
    | .inf neg => lim neg
    | .fin neg m e =>
      let n := roundSteps rm m e 0
      let k : Int := if neg then -(n : Int) else n
      max (lim true) (min (lim false) k)
  ofSigned w i

/-! ### FP32 words -/

/-- The value of an FP32 word. -/
def f32 (w : Nat) : Num := fp32.decode w

/-- The FP32 word of a value, nearest even. -/
def toF32 (v : Num) : Nat := fp32.conv .even v

/-- FP32 addition with one rounding. -/
def fadd (a b : Nat) : Nat := toF32 ((f32 a).add (f32 b))
/-- FP32 subtraction with one rounding. -/
def fsub (a b : Nat) : Nat := toF32 ((f32 a).sub (f32 b))
/-- FP32 multiplication with one rounding. -/
def fmul (a b : Nat) : Nat := toF32 ((f32 a).mul (f32 b))
/-- FP32 fused multiply-add with one rounding. -/
def ffma (a b c : Nat) : Nat := toF32 (((f32 a).mul (f32 b)).add (f32 c))
/-- FP32 division with one rounding. -/
def fdiv (a b : Nat) : Nat := toF32 ((f32 a).div (f32 b))
/-- FP32 maximum (R276). -/
def fmax (a b : Nat) : Nat := toF32 ((f32 a).max2 (f32 b))
/-- FP32 minimum (R276). -/
def fmin (a b : Nat) : Nat := toF32 ((f32 a).min2 (f32 b))

/-- Whether an FP32 word is a scale that a descriptor may not carry: −0, a subnormal, an infinity or
a NaN (R251, R266). -/
def badScale (w : Nat) : Bool :=
  w != 0 && (bits w 23 8 == 0 || bits w 23 8 == 255)

/-- The value of a scale field, 0x0000_0000 standing for 1.0 (R225, R251). -/
def scaleNum (w : Nat) : Num := if w = 0 then Num.ofInt 1 else f32 w

/-! ### Formats by code (R246) -/

/-- The defined format codes. -/
def fmtCodes : List Nat :=
  [0x00, 0x01, 0x02, 0x03, 0x04, 0x08, 0x09, 0x0A, 0x0B, 0x0C, 0x0D, 0x10, 0x11, 0x12, 0x13]

/-- Bits of an element of a format. -/
def fmtBits (c : Nat) : Nat :=
  match c with
  | 0x00 => 32 | 0x01 => 16 | 0x02 => 16 | 0x03 => 8 | 0x04 => 8 | 0x08 => 8 | 0x09 => 8
  | 0x0A => 6 | 0x0B => 6 | 0x0C => 4 | 0x0D => 8 | 0x10 => 32 | 0x11 => 8 | 0x12 => 4 | 0x13 => 64
  | _ => 8

/-- Whether a format has MX block scales. -/
def isMx (c : Nat) : Bool := decide (0x08 ≤ c ∧ c ≤ 0x0D)

/-- Whether a format is a two's complement integer. -/
def isIntFmt (c : Nat) : Bool := decide (0x10 ≤ c)

/-- The floating layout of a format code, FP32 where the format is an integer one. -/
def fmtF (c : Nat) : FFmt :=
  match c with
  | 0x01 => bf16 | 0x02 => fp16 | 0x03 => e4m3 | 0x04 => e5m2 | 0x08 => e4m3 | 0x09 => e5m2
  | 0x0A => e2m3 | 0x0B => e3m2 | 0x0C => e2m1 | _ => fp32

/-- The value of an element, scales apart (R247, R249). -/
def elemNum (c w : Nat) : Num :=
  if isIntFmt c then Num.ofInt (toSigned (fmtBits c) w)
  else if c = 0x0D then (Num.ofInt (toSigned 8 w)).scale2 (-6)
  else (fmtF c).decode w

/-- Convert a value to an element of a format (R267); an MX element never is infinite or NaN here. -/
def elemConv (c : Nat) (rm : Rnd) (v : Num) : Nat :=
  if isIntFmt c then intConv rm (fmtBits c) v
  else if c = 0x0D then intConv rm 8 (v.scale2 6)
  else if isMx c then
    let f := fmtF c
    match v with
    | .fin neg m e =>
      let w := f.conv .zero (.fin neg m e)
      let x := f.conv rm (.fin neg m e)
      if f.special = 1 ∧ bits x f.mb f.eb = 2 ^ f.eb - 1 then w else x
    | _ => 0
  else (fmtF c).conv rm v

/-- The value of an E8M0 block scale, NaN for 0xFF (R252). -/
def e8m0 (b : Nat) : Num := if b = 255 then .nan else .fin false 1 ((b : Int) - 127)

/-! ### Stochastic draws and MX blocks -/

/-- r for output element index of a descriptor (R273). -/
def draw (seed tensorId index : Nat) : Nat :=
  let M := 2 ^ 64
  let c := (tensorId * 2 ^ 32 + index) % M
  let x := (seed + (c + 1) * 0x9E3779B97F4A7C15) % M
  let x := Nat.xor x (x / 2 ^ 30) * 0xBF58476D1CE4E5B9 % M
  let x := Nat.xor x (x / 2 ^ 27) * 0x94D049BB133111EB % M
  Nat.xor x (x / 2 ^ 31) / 2 ^ 32

/-- Exponent bias E of an MX format (R268). -/
def mxE (c : Nat) : Int :=
  match c with
  | 0x08 => 8 | 0x09 => 15 | 0x0A => 2 | 0x0B => 4 | 0x0C => 2 | _ => 0

/-- floor(log2 |v|) of a finite non-zero value. -/
def Num.flog2 : Num → Int
  | .fin _ m e => (m.log2 : Int) + e
  | _ => 0

/-- Form one MX block: its scale byte and its elements, each with its rounding (R268). -/
def mxBlock (c : Nat) (vs : List (Num × Rnd)) : Nat × List Nat :=
  if vs.any (fun v => !v.1.isFin) then (255, vs.map (fun _ => 0))
  else if vs.all (fun v => v.1.isZero) then (127, vs.map (fun _ => 0))
  else
    let mx := (vs.filter (fun v => !v.1.isZero)).foldl (fun (a : Num) v => a.max2 v.1.abs) Num.zero
    let X := max (-127) (min 127 (mx.flog2 - mxE c))
    ((X + 127).toNat, vs.map (fun v => elemConv c v.2 (v.1.scale2 (-X))))

/-- The rounding of the epilogue's round field for an element (R271, R273). -/
def rndOf (round seed tensorId index : Nat) : Rnd :=
  if round = 0 then .even else if round = 1 then .stoch (draw seed tensorId index) else .zero

end Sys2Proof.Machine
end

