-- ==== Sys2Proof/Machine/Catalogue.lean ====
section
/-!
DEFINITION. The functions of the catalogue's default tables and of the attention exponential path, enclosed
between two values so that the accuracy rules R340 and R341 can bound what a table gives (R329, R339 to R342).
Fixed-point numbers have 256 fraction bits; powers of two have 1,024.
-/

namespace Sys2Proof.Machine

/-! ### Constants, rounded down -/

/-- ln 2. -/
def fixLn2 : Nat := 0xb17217f7d1cf79abc9e3b39803f2f6af40f343267298b62d8a0d175b8baafa2b
/-- 1 ÷ ln 2. -/
def fixInvLn2 : Nat := 0x171547652b82fe1777d0ffda0d23a7d11d6aef551bad2b4b1164a2cd9a342648f
/-- 2√(2/π) ÷ ln 2. -/
def fixGelu1 : Nat := 0x24d5d84379ceb2976942cda18a76c51f965d787bd68265fa53df593b6ac8bb666
/-- 0.044715 × 2√(2/π) ÷ ln 2. -/
def fixGelu3 : Nat := 0x1a5a7cf7572a9791b8dafc6cc0c236903ac5fc4fea431e66ce700db9c45956f8

/-! ### Powers of two -/

/-- The exponential series at y, n terms from term k with value t, rounded down. -/
def serLow (y : Nat) : Nat → Nat → Nat → Nat
  | 0, _, _ => 0
  | n + 1, k, t => t + serLow y n (k + 1) (t * y / 2 ^ 256 / (k + 1))

/-- The same series rounded up, with a bound of what follows (y below 1). -/
def serHigh (y : Nat) : Nat → Nat → Nat → Nat
  | 0, _, t => 2 * t
  | n + 1, k, t => t + serHigh y n (k + 1) (t * y / 2 ^ 256 / (k + 1) + 1)

/-- A lower bound of 2^z, for z above −700. -/
def powLow (z : Int) : Nat :=
  let r := (z % 2 ^ 256).toNat
  serLow (r * fixLn2 / 2 ^ 256) 70 0 (2 ^ 256) * 2 ^ (768 + z / 2 ^ 256).toNat

/-- An upper bound of 2^z, for z above −700, exact for whole z. -/
def powHigh (z : Int) : Nat :=
  let r := (z % 2 ^ 256).toNat
  (if r = 0 then 2 ^ 256 else serHigh (r * (fixLn2 + 1) / 2 ^ 256 + 1) 70 0 (2 ^ 256)) * 2 ^ (768 + z / 2 ^ 256).toNat

/-- Bounds of ± x × c, where c lies between two constants. -/
def fixMul (neg : Bool) (x lo hi : Nat) : Int × Int :=
  let a : Int := (x * lo / 2 ^ 256 : Nat)
  let b : Int := (x * hi / 2 ^ 256 + 1 : Nat)
  if neg then (-b, -a) else (a, b)

/-- A lower bound of 1 ÷ (1 + 2^−z). -/
def sigLow (z : Int) : Nat :=
  if 0 ≤ z then 2 ^ 2048 / (2 ^ 1024 + powHigh (-z)) else powLow z * 2 ^ 1024 / (2 ^ 1024 + powLow z)

/-- An upper bound of 1 ÷ (1 + 2^−z). -/
def sigHigh (z : Int) : Nat :=
  if 0 ≤ z then 2 ^ 2048 / (2 ^ 1024 + powLow (-z)) + 1 else powHigh z * 2 ^ 1024 / (2 ^ 1024 + powHigh z) + 1

/-- Bounds of 1 ÷ (1 + 2^−z) for z between two bounds of one sign, within 0 to 1/2 or 1/2 to 1. -/
def sigRange (neg : Bool) (z : Int × Int) : Nat × Nat :=
  if neg then (sigLow z.1, min (sigHigh z.2) (2 ^ 1023)) else (max (sigLow z.1) (2 ^ 1023), min (sigHigh z.2) (2 ^ 1024))

/-! ### The functions (R329) -/

/-- Bounds of the magnitude of a function at ± m × 2^e, m > 0: EXP, EXP2, SIGMOID, GELU_TANH and SILU, as two
mantissas at one exponent.  Where the argument is large the bounds are those of the limit. -/
def fnRange (f : Nat) (neg : Bool) (m : Nat) (e : Int) : Nat × Nat × Int :=
  let big := decide ((if f = 10 then 2 ^ 4 else 2 ^ 8) * 2 ^ 200 < m * 2 ^ (e + 200).toNat)
  let x := m * 2 ^ (e + 256).toNat
  let z : Int × Int :=
    if f = 2 then (if neg then (-(x : Int), -(x : Int)) else ((x : Int), (x : Int)))
    else if f = 10 then
      let sq := x * x / 2 ^ 256
      fixMul neg x (fixGelu1 + fixGelu3 * sq / 2 ^ 256) (fixGelu1 + 1 + (fixGelu3 + 1) * (sq + 1) / 2 ^ 256 + 1)
    else fixMul neg x fixInvLn2 (fixInvLn2 + 1)
  if f = 1 ∨ f = 2 then
    if big then (if neg then (0, 1, -300) else (1, 1, 200))
    else if neg then (powLow z.1, min (powHigh z.2) (2 ^ 1024), -1024)
    else (max (powLow z.1) (2 ^ 1024), powHigh z.2, -1024)
  else
    let k := if f = 8 then (1, 0) else (m, e)
    if big then (if neg then (0, 1, -300) else (k.1 * (2 ^ 256 - 1), k.1 * 2 ^ 256, k.2 - 256))
    else
      let s := sigRange neg z
      (k.1 * s.1, k.1 * s.2, k.2 - 1024)

/-- Bounds of a default function at an FP32 value: the exact value, or two values of one sign about it (R329). -/
def fnBounds (f : Nat) (x : Num) : Num × Num :=
  match x with
  | .fin neg m e =>
    if f = 6 then (x.rsqrt, x.rsqrt)
    else if m = 0 then
      let v := if f = 8 then Num.fin false 1 (-1) else if f = 1 ∨ f = 2 then Num.ofInt 1 else x
      (v, v)
    else
      let r := fnRange f neg m e
      let s := neg && (f == 10 || f == 12)
      (.fin s r.1 r.2.2, .fin s r.2.1 r.2.2)
  | _ => (x, x)

/-! ### The accuracy rules (R340, R341) -/

/-- The FP32 magnitude just at or below a value's magnitude. -/
def f32Below (v : Num) : Nat := fp32.conv .zero v.abs

/-- The FP32 magnitude just at or above a value's magnitude. -/
def f32Above (v : Num) : Nat :=
  let c := f32Below v
  if (f32 c).eqv v.abs then c else c + 1

/-- The FP32 word nearest to `raw` that R341 allows: one of the two words adjacent to the function's value, or the
value itself. -/
def faithful (b : Num × Num) (raw : Nat) : Nat :=
  let lo := f32Below b.1
  let hi := f32Above b.2
  let n := if decide (2147483648 ≤ raw) = b.1.signBit then raw % 2147483648 else lo
  max lo (min hi n) + b2n b.1.signBit * 2147483648

/-- Whether an FP32 word holds a value of one of the four short formats (R340). -/
def isShort (b : Nat) : Bool :=
  [0x01, 0x02, 0x03, 0x04].any (fun c => (elemNum c (elemConv c .zero (f32 b))).eqv (f32 b))

end Sys2Proof.Machine
end

