-- ==== Sys2Proof/Machine/PartOps.lean ====
section
/-!
DEFINITION. What partitions own and what contexts may name (R163 to R165, R170, R172).
-/

namespace Sys2Proof.Machine

/-- Whether a partition owns a Skein, whatever its enable (R164). -/
def State.hasSkein (s : State) (p k : Nat) : Bool := bit (s.rg R.partSkeinsSkeins p) k

/-- Whether a Skein is owned by an enabled partition (R170). -/
def State.skeinOwned (s : State) (k : Nat) : Bool :=
  (below 64).any (fun p => s.rb R.partCfgEnable p && s.hasSkein p k)

/-- Whether a Coil is owned (R170). -/
def State.coilOwned (s : State) (c : Nat) : Bool := (below 4).any (fun q => s.skeinOwned (4 * c + q))

/-- Whether a Coil is in Coil Nap or leaving it (R774). -/
def State.napping (s : State) (c : Nat) : Bool := bit (s.rg R.pwrStatusNap 0) c

/-- Whether a context may name a Stake (R131, R164, R172). -/
def State.mayStake (s : State) (ctx st : Nat) : Bool :=
  if ctx = 0 then !s.skeinOwned (st / 24) && !s.napping (st / 96)
  else s.hasSkein (s.rg R.ctxCfgPartition ctx) (st / 24)

/-- Whether a context may name a Coil (R131, R164, R172). -/
def State.mayCoil (s : State) (ctx c : Nat) : Bool :=
  ctx == 0 || (below 4).any (fun q => s.hasSkein (s.rg R.ctxCfgPartition ctx) (4 * c + q))

/-- Whether a context may name Plait slot i of a Coil (R164, R172). -/
def State.mayCslot (s : State) (ctx c i : Nat) : Bool :=
  ctx == 0 || s.hasSkein (s.rg R.ctxCfgPartition ctx) (4 * c + i / 4)

/-- Whether a context may name Plait slot i of the Border dies (R164, R172). -/
def State.mayBslot (s : State) (ctx i : Nat) : Bool :=
  ctx == 0 || bit (s.rg R.partResPlaitBorderSlots (s.rg R.ctxCfgPartition ctx)) i

/-- Whether a context may name a codec session (R164, R172). -/
def State.maySession (s : State) (ctx n : Nat) : Bool :=
  let p := s.rg R.ctxCfgPartition ctx
  ctx == 0 || decide (s.rg R.partVidSessionFirst p ≤ n ∧
    n < s.rg R.partVidSessionFirst p + s.rg R.partVidSessionCount p)

/-- Stakes that an SFU_TABLE_LOAD or SFU_BIND acts on (R165, R172). -/
def State.sfuStakes (s : State) (ctx coilMask : Nat) : List Nat :=
  (onesOf 16 coilMask).flatMap (fun c => (upFrom (96 * c) 96).filter (fun st => s.mayStake ctx st))

/-- Whether two ranges, of Stakes or of sessions, meet; an empty one meets none. -/
def rangesMeet (f1 n1 f2 n2 : Nat) : Bool := decide (0 < n1 ∧ 0 < n2 ∧ f1 < f2 + n2 ∧ f2 < f1 + n1)

/-- Whether every Stake of a range is free: no weave holds it, and its Coil is not in Coil Nap nor leaving it (R175,
R176, R762). -/
def State.rangeFree (s : State) (first count : Nat) : Bool :=
  !(s.weaves.any (fun w => rangesMeet w.first w.count first count)) &&
  !((below 16).any (fun c => s.napping c && rangesMeet (96 * c) 96 first count))

/-- The account counters of the four regulators (R185, R189). -/
def heldFlds : List (Nat × Fld) :=
  [(0, R.partAcctHbmCount), (1, R.partAcctHamperCount), (2, R.partAcctWaleTxCount), (3, R.partAcctPcieCount)]

/-- Whether work of a context that leads from s to t issued a charged transfer that a regulator held
back (R187): such work waits. -/
def State.regulated (s t : State) (ctx : Nat) : Bool :=
  heldFlds.any (fun x => s.heldBack ctx x.1 && s.rg x.2 ctx != t.rg x.2 ctx)

/-- What work of a context comes to: nothing yet, while a regulator holds a transfer of it back (R187).  Work is held
before its first transfer or goes through whole, which is a matter of timing only (log entry 45). -/
def State.gate (s : State) (ctx : Nat) (t : State) : State := if s.regulated t ctx then s else t

end Sys2Proof.Machine
end

