-- ==== Sys2Proof/Machine/Front.lean ====
section
/-!
DEFINITION. Command fronts: polls, fetch, the checks of packets, dispatch, completion, and the
commands that move a context between its states (R107 to R153).
-/

namespace Sys2Proof.Machine

/-! ### Packet fields (R122, R129) -/

/-- opcode. -/
def pkOp (w : Nat) : Nat := bits w 0 8
/-- Packet length in slots. -/
def pkUnits (w : Nat) : Nat := bits w 8 3 + 1
/-- cmpl. -/
def pkCmpl (w : Nat) : Bool := bit w 11
/-- irq. -/
def pkIrq (w : Nat) : Bool := bit w 12
/-- fence. -/
def pkFence (w : Nat) : Bool := bit w 13
/-- wait_event. -/
def pkWaitEvent (w : Nat) : Nat := bits w 16 16
/-- tag. -/
def pkTag (w : Nat) : Nat := bits w 32 32
/-- wait_value. -/
def pkWaitValue (w : Nat) : Nat := bits w 64 64
/-- signal_event. -/
def pkSignal (w : Nat) : Nat := bits w 128 16

/-- A record with the named fields set to zero: what is left lies in reserved bits. -/
def clearFields (w : Nat) (l : List (Nat × Nat)) : Nat := l.foldl (fun n f => putBits n f.1 f.2 0) w

/-- The body fields of each opcode (R129). -/
def pkBody (op : Nat) : List (Nat × Nat) :=
  match op with
  | 0x01 => [(256, 16), (272, 12), (288, 1), (320, 64)]
  | 0x02 => [(256, 48), (320, 64), (384, 2)]
  | 0x03 => [(256, 48), (320, 64)]
  | 0x04 => [(256, 48)]
  | 0x10 => [(256, 48), (320, 48), (384, 40), (424, 4)]
  | 0x11 => [(256, 48), (320, 64), (384, 40)]
  | 0x20 => [(256, 48), (320, 11), (336, 11), (352, 32)]
  | 0x30 => [(256, 5), (272, 10), (288, 32), (320, 8), (328, 8), (336, 40), (512, 48), (576, 48),
      (624, 1), (625, 1)]
  | 0x40 => [(256, 48), (320, 16)]
  | 0x41 => [(256, 48), (320, 40), (360, 2), (362, 1)]
  | 0x50 => [(256, 12), (268, 1), (269, 1), (320, 48), (384, 40)]
  | 0x60 => [(256, 48), (304, 3), (320, 16)]
  | 0x61 => [(256, 8), (264, 3), (320, 16)]
  | 0x62 => [(256, 48), (304, 4), (308, 1), (320, 16), (336, 2)]
  | 0x70 => [(256, 9), (320, 48)]
  | 0x71 => [(256, 9), (320, 48)]
  | 0x72 => [(256, 9), (320, 48)]
  | 0x73 => [(256, 9)]
  | 0x80 => [(256, 48), (320, 16), (336, 1)]
  | _ => []

/-- The defined opcodes (R128). -/
def pkOpcodes : List Nat :=
  [0x00, 0x01, 0x02, 0x03, 0x04, 0x10, 0x11, 0x20, 0x30, 0x40, 0x41, 0x50, 0x60, 0x61, 0x62, 0x70,
   0x71, 0x72, 0x73, 0x80]

/-- Whether a packet has a reserved bit set, an undefined units value or a field outside its range,
length and count fields apart (R123, R127, R129). -/
def pkMalformed (w : Nat) : Bool :=
  let op := pkOp w
  let header := [(0, 8), (8, 3), (11, 1), (12, 1), (13, 1), (16, 16), (32, 32), (64, 64), (128, 16)]
  clearFields w (header ++ pkBody op) != 0 ||
  (op != 0 && pkUnits w != (if op = 0x30 then 2 else 1)) ||
  (op == 0x02 && bits w 384 2 == 3) ||
  (op == 0x10 && decide (2 < bits w 424 4)) ||
  (op == 0x20 && decide (1535 < bits w 320 11)) ||
  (op == 0x41 && decide (1 < bits w 360 2))

/-- Whether a packet's event fields are outside the context's counters (R127). -/
def pkEventBad (count w : Nat) : Bool :=
  (pkWaitEvent w != 0xFFFF && decide (count ≤ pkWaitEvent w)) ||
  (pkSignal w != 0xFFFF && decide (count ≤ pkSignal w))

/-- Whether a context may not issue a packet (R130). -/
def State.pkPrivileged (s : State) (ctx w : Nat) : Bool :=
  ctx != 0 && (pkOp w == 0x50 ||
    (pkOp w == 0x01 && bits w 272 12 != ctx &&
      (bits w 272 12 == 0 || s.rg R.ctxCfgPartition (bits w 272 12) != s.rg R.ctxCfgPartition ctx)))

/-- Whether an address field is misaligned (R133). -/
def pkMisaligned (w : Nat) : Bool :=
  match pkOp w with
  | 0x02 => bits w 256 3 != 0
  | 0x03 => bits w 256 3 != 0
  | 0x04 => bits w 256 3 != 0
  | 0x11 => bits w 256 3 != 0
  | 0x20 => bits w 256 7 != 0
  | 0x40 => bits w 256 6 != 0
  | 0x41 => bits w 256 12 != 0
  | 0x50 => !bit w 269 && bits w 320 12 != 0
  | 0x62 => bits w 256 6 != 0
  | 0x70 => bits w 320 6 != 0
  | 0x71 => bits w 320 6 != 0
  | 0x72 => bits w 320 6 != 0
  | _ => false

/-- Whether a length or count field is zero or outside its range (R133). -/
def pkBadLength (w : Nat) : Bool :=
  match pkOp w with
  | 0x10 => bits w 384 40 == 0
  | 0x11 => bits w 384 40 == 0 || bits w 384 3 != 0
  | 0x20 => bits w 336 11 == 0 || decide (1536 < bits w 320 11 + bits w 336 11)
  | 0x40 => bits w 320 16 == 0
  | 0x41 => bits w 320 40 == 0 || bits w 320 12 != 0
  | 0x50 => !bit w 269 && (bits w 384 40 == 0 || bits w 384 12 != 0)
  | _ => false

/-- The first status of R127 that applies to a packet, 0 where it passes. -/
def State.fetchCheck (s : State) (ctx w : Nat) : Status :=
  if ¬ pkOpcodes.contains (pkOp w) then stCmdOpcode
  else if pkMalformed w then stCmdMalformed
  else if pkEventBad (s.rg R.ctxEventCfgCount ctx) w then stCmdEventRange
  else if s.pkPrivileged ctx w then stCmdPrivileged
  else if pkMisaligned w then stCmdAlign
  else if pkBadLength w then stCmdLength
  else stOk

/-! ### Event counters (R134 to R138) -/

/-- The requester that a context's front is. -/
def State.frontRq (s : State) (c : Nat) : Rq := ⟨c, 16 + (s.ctx c).front⟩

/-- A context's event counter as its front holds it. -/
def State.counter (s : State) (c e : Nat) : Nat := smGetD (s.ctx c).counters e 0

/-- Set a counter and write it through to memory (R135). -/
def State.setCounter (s : State) (c e v : Nat) : State :=
  let x := s.ctx c
  let v := v % 2 ^ 64
  let s := s.setCtx c { x with counters := smPut 0 x.counters e v }
  (s.vwrite (s.frontRq c) (s.rg R.ctxEventBaseBase c + 8 * e) (natLe 8 v)).s

/-! ### Statuses that stop a context (R150) -/

/-- Whether a status moves an ACTIVE context to ERROR (R150). -/
def isErrorStatus (st : Nat) : Bool :=
  (stClass st == 1 && st != stCmdFlushed) || stClass st == 2 || stClass st == 3 || stClass st == 5 ||
  stClass st == 6 || st == stRunBound || st == stWeaveStakes || st == stWeaveImage ||
  st == stTableSignature || st == stTableMalformed || st == stTableUnbound

/-- Entry to ERROR (R150). -/
def State.enterError (s : State) (c st ring slot cq : Nat) : State :=
  if s.ctxState c = ctxActive then
    let s := s.rset R.ctxStatusState c ctxError
    let s := (((s.rset R.ctxLastErrorStatus c st).rset R.ctxLastErrorRing c ring).rset
      R.ctxLastErrorSlot c slot).rset R.ctxLastErrorCq c cq
    s.flushQueues c
  else s

/-! ### Completion records (R139 to R144) -/

/-- Size of the completion ring. -/
def State.cqSize (s : State) (c : Nat) : Nat := 2 ^ s.rg R.ctxCqCfgLog2Size c

/-- Whether a completion-ring slot is free beside those reserved (R141). -/
def State.cqFree (s : State) (c : Nat) : Bool :=
  let x := s.ctx c
  decide ((x.cqPi + 2 ^ 32 - x.cqCi) % 2 ^ 32 + x.jobs.length < s.cqSize c)

/-- The 256 bits of a completion record (R139). -/
def cqRecord (d : Done) (ring phase op tag slot round : Nat) : Nat :=
  d.status + ring * 2 ^ 16 + phase * 2 ^ 18 + op * 2 ^ 24 + tag * 2 ^ 32 + slot * 2 ^ 64
  + d.detail % 2 ^ 32 * 2 ^ 96 + round * 2 ^ 128 + d.info % 2 ^ 64 * 2 ^ 192

/-- Send a context's MSI-X message, at once or moderated (R144). -/
def State.ctxMsix (s : State) (c : Nat) : State :=
  let x := s.ctx c
  let m := s.rg R.ctxCqCfgModerate c
  let now : Bool := match x.lastMsi with
    | none => true
    | some r => decide (m = 0 ∨ r + m ≤ s.beat)
  if now then
    (s.setCtx c { x with lastMsi := some s.beat, msiDue := false }).emit
      (.msix (s.rg R.ctxCfgFunction c) (s.rg R.ctxCfgMsixVector c))
  else s.setCtx c { x with msiDue := true }

/-- Write the record of a packet at the producer index of the completion ring (R139, R142). -/
def State.putRecord (s : State) (c : Nat) (p : Packet) (d : Done) : Wr :=
  let pi := (s.ctx c).cqPi
  let n := s.rg R.ctxCqCfgLog2Size c
  let r := cqRecord d p.ring (phaseOf n pi) (pkOp p.words) (pkTag p.words) p.slot s.round
  s.vwrite (s.frontRq c) (s.rg R.ctxCqBaseBase c + pi % 2 ^ n * 32) (natLe 32 r)

/-- Write a completion record, then the producer index, then the message (R143). -/
def State.writeCq (s : State) (c : Nat) (p : Packet) (d : Done) : State :=
  let pi := ((s.ctx c).cqPi + 1) % 2 ^ 32
  let s := (s.putRecord c p d).s
  let s := s.setCtx c { s.ctx c with cqPi := pi }
  let s := (s.vwrite (s.frontRq c) (s.rg R.ctxCqIdxAddrAddr c + 64) (natLe 4 pi)).s
  if pkIrq p.words ∨ d.status ≠ 0 then s.ctxMsix c else s

/-- Whether a job is the one of a ring and slot. -/
def Job.at_ (j : Job) (ring slot : Nat) : Bool := j.pkt.ring == ring && j.pkt.slot == slot

/-- A dispatched packet of a context. -/
def State.job (s : State) (c ring slot : Nat) : Option Job :=
  (s.ctx c).jobs.find? (fun j => j.at_ ring slot)

/-- A dispatched packet that still runs, of a given opcode. -/
def State.running (s : State) (c ring slot op : Nat) : Option Packet :=
  match s.job c ring slot with
  | some ⟨p, none⟩ => if pkOp p.words = op then some p else none
  | _ => none

/-- Record how a packet's work ended; PACKET_COMPLETE writes its completion (R143). -/
def State.finish (s : State) (c ring slot : Nat) (d : Done) : State :=
  let x := s.ctx c
  s.setCtx c { x with jobs := x.jobs.map (fun j =>
    if j.at_ ring slot && j.fin.isNone then { j with fin := some d } else j) }

/-- Complete a finished packet (R136, R138, R140, R143, R150). -/
def State.completeJob (s : State) (c : Nat) (j : Job) (d : Done) : State :=
  let x := s.ctx c
  let s := s.setCtx c { x with jobs := x.jobs.filter (fun k => !(k.at_ j.pkt.ring j.pkt.slot)) }
  let s := { s with sfu := { s.sfu with queue := s.sfu.queue.filter (fun t =>
      !(t.ctx == c && t.ring == j.pkt.ring && t.slot == j.pkt.slot)) } }
  let s := s.noteJobs c
  let e := pkSignal j.pkt.words
  let s := if d.status ≠ stCmdFlushed ∧ stClass d.status ≠ 0x0F ∧ e < s.rg R.ctxEventCfgCount c then
    s.setCounter c e (s.counter c e + 1) else s
  let s := if d.status ≠ 0 ∨ pkCmpl j.pkt.words then s.writeCq c j.pkt d else s
  if isErrorStatus d.status then s.enterError c d.status j.pkt.ring j.pkt.slot 0 else s

/-! ### Polls (R115 to R117, R817) -/

/-- Budget of index reads left to a front in this Round (R117). -/
def State.budgetLeft (s : State) (f : Nat) : Nat := smGetD s.budget f 0

/-- Spend index reads. -/
def State.spend (s : State) (f n : Nat) : State :=
  { s with budget := smPut 0 s.budget f (s.budgetLeft f - n) }

/-- The polls that wait at a front: key 2f in this Round, 2f + 1 deferred to the next. -/
def State.pollQ (s : State) (k : Nat) : List Poll := smGetD s.polls k []

/-- Replace a queue of polls. -/
def State.setPollQ (s : State) (k : Nat) (l : List Poll) : State :=
  { s with polls := smPut [] s.polls k l }

/-- The enabled rings of a context. -/
def State.enabledRings (s : State) (c : Nat) : List Nat :=
  (below 4).filter (fun n => s.rb R.ctxRingCfgEnable (c * 4 + n))

/-- Whether the front polls a context: ACTIVE, or with records that wait for slots (R145, R149). -/
def State.pollable (s : State) (c : Nat) : Bool :=
  s.ctxState c == ctxActive || !(s.ctx c).flushed.isEmpty

/-- Index reads of a poll (R116, R149). -/
def State.pollCost (s : State) (c : Nat) : Nat :=
  if s.ctxState c = ctxActive then (s.enabledRings c).length + 1 else 1

/-- A failure of ring access that no packet owns: a record in the ring's order (R817). -/
def State.ringFail (s : State) (c n st info : Nat) : State :=
  let r := s.ring c n
  let ci := s.rg R.ctxRingCiCi (c * 4 + n)
  let w := 0xFFFF * 2 ^ 16 + 0xFFFF * 2 ^ 128
  let p : Packet := ⟨n, ci, w, s.beat + 1, some ⟨st, 0, info⟩, none⟩
  let s := s.setRing c n { r with queue := r.queue ++ [p], more := false }
  if st = stCmdRingFetch then s.radd R.cmdFetchErrorsCount 0 1 else s

/-- The virtual address that a status reports, for translation and memory statuses (R139). -/
def infoOf (st va : Nat) : Nat := if stClass st = 2 ∨ stClass st = 3 then va else 0

/-- Whether a packet stands for a failed access to its ring (R817). -/
def Packet.isRingFail (p : Packet) : Bool :=
  match p.reject with
  | some d => d.status == stCmdRingFetch || d.status == stCmdRingIndex
  | none => false

/-- Whether an access to a ring has failed and the record of it has yet to be written: the front retries none of
these accesses (R817). -/
def State.ringFailed (s : State) (c n : Nat) : Bool :=
  (s.ring c n).queue.any Packet.isRingFail || (s.ctx c).jobs.any (fun j => j.pkt.ring == n && j.pkt.isRingFail)

/-- Read the producer index of ring n at a poll (R116, R817). -/
def State.pollRing (s : State) (c failMask : Nat) (n : Nat) : State :=
  let a := s.rg R.ctxRingIdxAddrAddr (c * 4 + n)
  let rd := s.vread (s.frontRq c) a 4
  if s.ringFailed c n then s
  else if bit failMask n then s.ringFail c n stCmdRingFetch 0
  else if rd.st ≠ 0 then rd.s.ringFail c n stCmdRingFetch (a + rd.off)
  else
    let s := rd.s
    let pi := leNat rd.bs
    let ci := s.rg R.ctxRingCiCi (c * 4 + n)
    if 2 ^ s.rg R.ctxRingCfgLog2Slots (c * 4 + n) < (pi + 2 ^ 32 - ci) % 2 ^ 32 then
      s.ringFail c n stCmdRingIndex 0
    else s.setRing c n { s.ring c n with pi := pi, more := pi != ci }

/-- Read the completion ring's consumer index at a poll (R116, R141, R149, R817). -/
def State.pollCq (s : State) (c failMask : Nat) : State :=
  let a := s.rg R.ctxCqIdxAddrAddr c
  let rd := s.vread (s.frontRq c) a 4
  if bit failMask 4 ∨ rd.st ≠ 0 then
    let s := (if bit failMask 4 then s else rd.s).radd R.cmdFetchErrorsCount 0 1
    if s.ctxState c = ctxActive then (s.enterError c stCmdRingFetch 0 0 1).ctxMsix c else s
  else
    let s := rd.s.setCtx c { rd.s.ctx c with cqCi := leNat rd.bs }
    if s.cqFree c then s.rset R.ctxStatusCqFull c 0 else s

/-- CONTEXT_POLL: the front makes the poll at the head of its queue, or defers it whole to the next
Round (R115 to R117); a regulator may hold it back (R187).  `failMask` says which index reads fail on PCI Express: bit n for ring n, bit 4
for the completion ring. -/
def execContextPoll (ctx failMask : Nat) (s : State) : Host.Outcome State Fault Refusal :=
  let s0 := s
  let f := (s.ctx ctx).front
  match s.pollQ (2 * f) with
  | [] => .next s
  | p :: rest =>
    if p.ctx ≠ ctx then .next s
    else
      let s := s.setPollQ (2 * f) rest
      if ¬ s.pollable ctx then .next s
      else if s.budgetLeft f < s.pollCost ctx then
        let s := s.setPollQ (2 * f + 1) (s.pollQ (2 * f + 1) ++ [p])
        .next ((s.radd R.cmdPollDeferredCount 0 1).rset R.ctxStatusPollDeferred ctx 1)
      else
        let act := s.ctxState ctx == ctxActive
        let s := s.spend f (s.pollCost ctx)
        let s := s.setCtx ctx { s.ctx ctx with polled := some s.beat }
        let s := if act then (s.enabledRings ctx).foldl (fun s n => s.pollRing ctx failMask n) s else s
        .next (s0.gate ctx (s.pollCq ctx failMask))

/-! ### Fetch (R118, R119) -/

/-- Slots that a ring's queue holds. -/
def slotsOf (l : List Packet) : Nat := (l.map (fun p => pkUnits p.words)).sum

/-- Read the slots of a packet, which may wrap (R123): the words of the first k slots. -/
def State.readSlots (s : State) (c n : Nat) : Nat → Nat → Rd
  | _, 0 => ⟨s, 0, 0, []⟩
  | i, k + 1 =>
    let size := 2 ^ s.rg R.ctxRingCfgLog2Slots (c * 4 + n)
    let a := s.rg R.ctxRingBaseBase (c * 4 + n) + i % size * 64
    let rd := s.vread (s.frontRq c) a 64
    if rd.st ≠ 0 then { rd with off := a + rd.off }
    else
      let r := rd.s.readSlots c n (i + 1) k
      { r with bs := rd.bs ++ r.bs }

/-- Fetch packets of ring n from slot ci up to the producer index, at most `room` slots.  Answers the
state, the slots taken and, where a read failed, the address. -/
def State.fetchLoop (s : State) (c n : Nat) : Nat → Nat → Nat → Nat → State × Nat × Option Nat
  | 0, _, _, taken => (s, taken, none)
  | fuel + 1, ci, room, taken =>
    let r := s.ring c n
    let avail := (r.pi + 2 ^ 32 - ci) % 2 ^ 32
    if avail = 0 ∨ room ≤ taken then (s, taken, none)
    else
      let first := s.readSlots c n ci 1
      if first.st ≠ 0 then (first.s, taken, some first.off)
      else
        let k := pkUnits (leNat first.bs)
        if avail < k ∨ room < taken + k then (first.s, taken, none)
        else
          let rest := first.s.readSlots c n (ci + 1) (k - 1)
          if rest.st ≠ 0 then (rest.s, taken, some rest.off)
          else
            let s := rest.s
            let w := leNat (first.bs ++ rest.bs)
            let st := s.fetchCheck c w
            let p : Packet := ⟨n, ci, w, s.beat + 1, if st = 0 then none else some ⟨st, 0, 0⟩, none⟩
            let s := s.setRing c n { s.ring c n with queue := (s.ring c n).queue ++ [p] }
            let s := s.radd R.cmdPacketsCount 0 1
            s.fetchLoop c n fuel ((ci + k) % 2 ^ 32) room (taken + k)

/-- Fetch from a ring and write its consumer index (R118). `fail` says that a read fails on PCI
Express. -/
def State.fetchRing (s : State) (c n : Nat) (fail : Bool) : State :=
  let r := s.ring c n
  let s := s.setRing c n { r with fetchAt := some s.beat }
  if fail then s.ringFail c n stCmdRingFetch 0
  else
    let ci := s.rg R.ctxRingCiCi (c * 4 + n)
    let x := s.fetchLoop c n 8 ci (8 - slotsOf r.queue) 0
    let s := x.1
    let ci' := (ci + x.2.1) % 2 ^ 32
    let s := if x.2.1 = 0 then s else
      let s := s.rset R.ctxRingCiCi (c * 4 + n) ci'
      (s.vwrite (s.frontRq c) (s.rg R.ctxRingIdxAddrAddr (c * 4 + n) + 64) (natLe 4 ci')).s
    match x.2.2 with
    | some va => s.ringFail c n stCmdRingFetch va
    | none => s.setRing c n { s.ring c n with more := (s.ring c n).pi != ci' }

/-- Whether a ring of an ACTIVE context has unfetched packets, was not fetched in this Round and has not failed. -/
def State.fetchable (s : State) (c n : Nat) : Bool :=
  decide (c < 4096 ∧ n < 4) && s.ctxState c == ctxActive && (s.ring c n).more && !s.ringFailed c n &&
    (s.ring c n).fetchAt != some s.beat

/-- PACKET_FETCH: in the Round of a poll the front fetches from a ring (R118). -/
def execPacketFetch (ctx ring : Nat) (fail : Bool) (s : State) : Host.Outcome State Fault Refusal :=
  if s.fetchable ctx ring ∧ (s.ctx ctx).polled = some s.beat then .next (s.gate ctx (s.fetchRing ctx ring fail))
  else .next s

/-- FETCH_CONTINUE: in a later Round, without a new index read, the front fetches what remains
(R119). -/
def execFetchContinue (ctx ring : Nat) (fail : Bool) (s : State) : Host.Outcome State Fault Refusal :=
  if s.fetchable ctx ring ∧ (s.ctx ctx).polled ≠ some s.beat then .next (s.gate ctx (s.fetchRing ctx ring fail))
  else .next s

/-! ### Dispatch (R120, R124 to R126, R131, R141) -/

/-- Whether a packet's wait condition holds (R122, R126). -/
def State.waitMet (s : State) (c w : Nat) : Bool :=
  pkWaitEvent w == 0xFFFF || decide (pkWaitValue w ≤ s.counter c (pkWaitEvent w))

/-- Whether the codec cluster that a video packet's session names has a full queue (R658). -/
def State.vidFull (s : State) (w : Nat) : Bool :=
  (pkOp w == 0x71 || pkOp w == 0x72) &&
    decide (64 ≤ (smGetD s.vid.jobs (s.rg R.vidSessionCluster (bits w 256 9)) []).length)

/-- Whether the queue of a COLLECTIVE's channel is full, with those dispatched and not yet posted
(R616). -/
def State.collFull (s : State) (w : Nat) : Bool :=
  pkOp w == 0x30 && decide (16 ≤ (smGetD s.coll.ops (bits w 256 5) []).length +
    (s.sfu.queue.filter (fun t => pkOp t.words == 0x30 && bits t.words 256 5 == bits w 256 5)).length)

/-- Whether the head packet of a ring could be dispatched, or its rejection recorded, but for the completion ring.  A
rejection is recorded in ring order: after every earlier packet of its ring has completed, and before any later one
is dispatched (R124, R127, R817). -/
def State.ready (s : State) (c : Nat) (p : Packet) : Bool :=
  let before := (s.ctx c).jobs.filter (fun j => j.pkt.ring == p.ring)
  decide (p.elig ≤ s.beat) && before.all (fun j => j.pkt.reject.isNone) &&
  (if p.reject.isSome then before.isEmpty else
    (decide ((s.ctx c).dispatched < 64) && s.waitMet c p.words &&
     (!pkFence p.words || before.isEmpty) &&
     !s.vidFull p.words && !s.collFull p.words))

/-- Whether a WAIT_MEM is to be evaluated: it has not been, or a poll of its context has been made in a later Round, and
the budget of this Round allows it; any other packet passes (R132). -/
def State.waitDue (s : State) (c : Nat) (p : Packet) : Bool :=
  pkOp p.words != 0x02 || p.reject.isSome ||
  (s.budgetLeft (s.ctx c).front != 0 &&
    (match p.evalAt with
     | none => true
     | some r => match (s.ctx c).polled with
       | none => false
       | some q => decide (r < q)))

/-- Rings whose head packet could be dispatched; a WAIT_MEM whose comparison did not hold could not (R124, R132). -/
def State.readyRings (s : State) (c : Nat) : List Nat :=
  (below 4).filter (fun n => match (s.ring c n).queue with
    | [] => false
    | p :: _ => s.ready c p && s.waitDue c p)

/-- The ring whose turn it is: the first ready ring after the one last dispatched from (R124). -/
def State.turn (s : State) (c : Nat) : Option Nat :=
  ((upFrom ((s.ctx c).lastRing + 1) 4).map (fun n => n % 4)).find? (fun n => (s.readyRings c).contains n)

/-- Whether the limits admit only some of the packets that could be dispatched (R124). -/
def State.scarce (s : State) (c : Nat) : Bool :=
  let x := s.ctx c
  let n := (s.readyRings c).filter (fun n => match (s.ring c n).queue with
    | [] => false
    | p :: _ => p.reject.isNone)
  decide (64 < x.dispatched + n.length ∨
    s.cqSize c < (x.cqPi + 2 ^ 32 - x.cqCi) % 2 ^ 32 + x.jobs.length + (s.readyRings c).length)

/-- Whether a packet names a Coil, a slot or a session outside its context's partition (R131, R165). -/
def State.denied (s : State) (c w : Nat) : Bool :=
  let coils := onesOf 16 (bits w 320 16)
  match pkOp w with
  | 0x60 => !(coils.all (fun k => s.mayCoil c k))
  | 0x61 => !(coils.all (fun k => s.mayCoil c k))
  | 0x62 =>
    if bit w 308 then !(s.mayBslot c (bits w 304 4))
    else !(coils.all (fun k => s.mayCoil c k && s.mayCslot c k (bits w 304 4)))
  | 0x70 => !(s.maySession c (bits w 256 9))
  | 0x71 => !(s.maySession c (bits w 256 9))
  | 0x72 => !(s.maySession c (bits w 256 9))
  | 0x73 => !(s.maySession c (bits w 256 9))
  | _ => false

/-- Take the head packet off a ring: a packet rejected at fetch awaits its record, and any other is dispatched, with
how it ended if it has (R124, R127). -/
def State.take (s : State) (c n : Nat) (p : Packet) (rest : List Packet) (fin : Option Done) : State :=
  let s := s.setRing c n { s.ring c n with queue := rest }
  let x := s.ctx c
  let s := if fin.isNone ∧ [0x30, 0x60, 0x61, 0x62].contains (pkOp p.words) then
    { s with sfu := { s.sfu with queue := s.sfu.queue ++ [⟨c, n, p.slot, p.words⟩] } } else s
  let last := if p.reject.isSome then x.lastRing else n
  (s.setCtx c { x with jobs := x.jobs ++ [⟨p, fin⟩], lastRing := last }).noteJobs c

/-- PACKET_DISPATCH: the front dispatches the head packet of a ring, WAIT_MEM apart; once it has found no free
completion slot it dispatches nothing until a poll shows one (R124, R131, R141). -/
def execPacketDispatch (ctx ring : Nat) (s : State) : Host.Outcome State Fault Refusal :=
  if ¬ (ctx < 4096 ∧ ring < 4) ∨ s.ctxState ctx ≠ ctxActive ∨ s.rb R.ctxStatusCqFull ctx then .next s
  else
    match (s.ring ctx ring).queue with
    | [] => .next s
    | p :: rest =>
      if ¬ s.ready ctx p ∨ (p.reject.isNone ∧ pkOp p.words = 0x02) ∨
          (s.scarce ctx ∧ s.turn ctx ≠ some ring) then .next s
      else if ¬ s.cqFree ctx then .next (s.rset R.ctxStatusCqFull ctx 1)
      else if p.reject.isNone ∧ s.denied ctx p.words then
        .next (s.take ctx ring p rest (some ⟨stCmdDenied, 0, 0⟩))
      else .next (s.take ctx ring p rest p.reject)

/-- Whether a ring of a context is held by a wait: by an unmet wait_event, or by a WAIT_MEM whose comparison did not
hold (R122, R132, R161). -/
def State.waitBlocked (s : State) (c : Nat) : Bool :=
  (below 4).any (fun n => match (s.ring c n).queue with
    | [] => false
    | p :: _ => decide (p.elig ≤ s.beat) && p.reject.isNone &&
        (!s.waitMet c p.words || (pkOp p.words == 0x02 && p.evalAt.isSome)))

/-- Compare a value in memory as WAIT_MEM asks (R129). -/
def waitCompare (w m : Nat) : Bool :=
  let v := bits w 320 64
  match bits w 384 2 with
  | 0 => decide (v ≤ m)
  | 1 => m == v
  | _ => m != v

/-- WAIT_MEM: the front evaluates the WAIT_MEM at the head of a ring: first when its other conditions
hold, its ring's turn among them, again after each later poll of its context (R124, R132). -/
def execWaitMem (ctx ring : Nat) (s : State) : Host.Outcome State Fault Refusal :=
  if ¬ (ctx < 4096 ∧ ring < 4) ∨ s.ctxState ctx ≠ ctxActive ∨ s.rb R.ctxStatusCqFull ctx then .next s
  else
    match (s.ring ctx ring).queue with
    | [] => .next s
    | p :: rest =>
      if ¬ s.ready ctx p ∨ p.reject.isSome ∨ pkOp p.words ≠ 0x02 ∨ ¬ s.waitDue ctx p ∨
          (s.scarce ctx ∧ s.turn ctx ≠ some ring) then .next s
      else if ¬ s.cqFree ctx then .next (s.rset R.ctxStatusCqFull ctx 1)
      else
        let a := bits p.words 256 48
        let rd := (s.spend (s.ctx ctx).front 1).vread (s.frontRq ctx) a 8
        if s.regulated rd.s ctx then .next s else
        let s := rd.s
        if rd.st ≠ 0 then .next (s.take ctx ring p rest (some ⟨rd.st, 0, a + rd.off⟩))
        else if waitCompare p.words (leNat rd.bs) then
          .next (s.take ctx ring p rest (some ⟨stOk, 0, 0⟩))
        else
          .next (s.setRing ctx ring
            { s.ring ctx ring with queue := { p with evalAt := some s.beat } :: rest })

/-! ### Completion -/

/-- PACKET_COMPLETE: a packet whose work has ended completes (R136 to R144, R150); a regulator may hold its record back
(R187). -/
def execPacketComplete (ctx ring slot : Nat) (s : State) : Host.Outcome State Fault Refusal :=
  match s.job ctx ring slot with
  | some ⟨p, some d⟩ => .next (s.gate ctx (s.completeJob ctx ⟨p, some d⟩ d))
  | _ => .next s

/-- MSIX_MODERATED_SEND: the message that moderation held goes out (R144). -/
def execMsixModeratedSend (ctx : Nat) (s : State) : Host.Outcome State Fault Refusal :=
  let x := s.ctx ctx
  let go : Bool := match x.lastMsi with
    | none => true
    | some r => decide (r + s.rg R.ctxCqCfgModerate ctx ≤ s.beat)
  if x.msiDue ∧ go then
    .next ((s.setCtx ctx { x with lastMsi := some s.beat, msiDue := false }).emit
      (.msix (s.rg R.ctxCfgFunction ctx) (s.rg R.ctxCfgMsixVector ctx)))
  else .next s

/-- Whether a dispatched packet lies before one of its ring (R149). -/
def Packet.follows (p : Packet) (j : Job) : Bool :=
  j.pkt.ring == p.ring && decide ((p.slot + 2 ^ 32 - j.pkt.slot) % 2 ^ 32 < 2 ^ 31)

/-- FLUSHED_RECORD_WRITE: when a slot is free, the record is written of the oldest discarded packet of a ring whose
earlier packets have completed (R149). -/
def execFlushedRecordWrite (ctx : Nat) (s : State) : Host.Outcome State Fault Refusal :=
  let x := s.ctx ctx
  match x.flushed.find? (fun p => !(x.jobs.any (fun j => p.follows j))) with
  | none => .next s
  | some p =>
    if ¬ s.cqFree ctx then .next s
    else
      let t := s.setCtx ctx { x with flushed := x.flushed.erase p }
      .next (s.gate ctx (t.writeCq ctx p ⟨stCmdFlushed, 0, 0⟩))

/-! ### Commands of CTX_CTRL (R146) -/

/-- Whether a function exists: the physical function, or an enabled virtual function (R154). -/
def State.fnEnabled (s : State) (fn : Nat) : Bool := decide (fn ≤ s.numVfs)

/-- The identifiers that a PCI Express function presents: vendor, device and class code (R1, R154); none for a function
that does not exist. -/
def State.pciIds (s : State) (fn : Nat) : Option (Nat × Nat × Nat) :=
  if s.pwr.off ∨ ¬ s.fnEnabled fn then none else some (0x1F3D, if fn = 0 then 0x5932 else 0x5933, 0x120000)

/-- TotalVFs of the SR-IOV capability: 63, or 0 in the recovery state (R154, R733). -/
def State.totalVfs (s : State) : Nat := if s.rg R.hdlStatusState 0 = 2 then 0 else s.rg R.glbCapsTotalVfs 0

/-- Whether a function reaches a context's registers (R157). -/
def State.fnReaches (s : State) (fn c : Nat) : Bool :=
  fn == 0 || (s.fnEnabled fn && s.ctxState c != ctxFree && s.rg R.ctxCfgFunction c == fn)

/-- A command of CTX_CTRL from a function: discarded where the function does not reach the context,
refused where the check fails, otherwise its effect (R146, R157). -/
def State.ctxCmd (s : State) (fn c : Nat) (ok : Bool) (t : State) : State :=
  if ¬ (c < 4096 ∧ s.fnReaches fn c) then s
  else if ok then t else s.rset R.ctxStatusCmdRefused c 1

/-- The checks of BIND (R146, R169). -/
def State.bindOk (s : State) (fn c : Nat) : Bool :=
  let f := s.rg R.ctxCfgFunction c
  let p := s.rg R.ctxCfgPartition c
  fn == 0 && s.ctxState c == ctxFree && s.fnEnabled f &&
  decide (s.rg R.ctxCfgMsixVector c < (if f = 0 then 2048 else 64)) &&
  s.rb R.partCfgEnable p && s.rg R.partCfgFunction p == f

/-- The accounting counters of a context (R189). -/
def acctFields : List Fld :=
  [R.partAcctStakeCount, R.partAcctHbmCount, R.partAcctHamperCount, R.partAcctCreelCount,
   R.partAcctPcieCount, R.partAcctWaleTxCount, R.partAcctWaleRxCount, R.partAcctEnergyCount]

/-- BIND: FREE to READY; the context's accounting starts at zero (R146, R189). -/
def execBind (ctx fn : Nat) (s : State) : Host.Outcome State Fault Refusal :=
  if ¬ s.barOpen 0x200000 then .next s else
  let t := (acctFields.foldl (fun s f => s.rset f ctx 0) s).rset R.ctxStatusState ctx ctxReady
  let t := { t with parts := { t.parts with base := smFilter (fun k => k / 8 != ctx) t.parts.base } }
  .next (s.ctxCmd fn ctx (s.bindOk fn ctx) t)

/-- Bytes of an enabled ring. -/
def State.ringBytes (s : State) (c n : Nat) : Nat := 2 ^ s.rg R.ctxRingCfgLog2Slots (c * 4 + n) * 64

/-- Whether ring n's base translates to host memory (R110). -/
def State.isHostRing (s : State) (c n : Nat) : Bool :=
  decide (0x800000000000 ≤ (s.xlate ⟨c, 16⟩ (s.rg R.ctxRingBaseBase (c * 4 + n)) false).pa)

/-- The checks of ACTIVATE but for the reading of the counters (R107, R108, R111, R146). -/
def State.activateOk (s : State) (c : Nat) : Bool :=
  let rings := s.enabledRings c
  let rq : Rq := ⟨c, 16⟩
  let cnt := s.rg R.ctxEventCfgCount c
  s.ctxState c == ctxReady && !rings.isEmpty &&
  rings.all (fun n =>
    decide (6 ≤ s.rg R.ctxRingCfgLog2Slots (c * 4 + n) ∧ s.rg R.ctxRingCfgLog2Slots (c * 4 + n) ≤ 16) &&
    s.rg R.ctxRingBaseBase (c * 4 + n) % 4096 == 0 && s.rg R.ctxRingIdxAddrAddr (c * 4 + n) % 128 == 0) &&
  s.rb R.ctxCqCfgEnable c &&
  decide (7 ≤ s.rg R.ctxCqCfgLog2Size c ∧ s.rg R.ctxCqCfgLog2Size c ≤ 17) &&
  s.rg R.ctxCqBaseBase c % 4096 == 0 && s.rg R.ctxCqIdxAddrAddr c % 128 == 0 &&
  rings.all (fun n =>
    s.backedPages rq (spans 4096 (s.rg R.ctxRingBaseBase (c * 4 + n)) (s.ringBytes c n)) &&
    s.backedPages rq (spans 4096 (s.rg R.ctxRingIdxAddrAddr (c * 4 + n)) 128)) &&
  s.backedPages rq (spans 4096 (s.rg R.ctxCqBaseBase c) (s.cqSize c * 32)) &&
  s.backedPages rq (spans 4096 (s.rg R.ctxCqIdxAddrAddr c) 128) &&
  (cnt == 0 || s.backedPages rq (spans 4096 (s.rg R.ctxEventBaseBase c) (8 * cnt))) &&
  (rings.all (fun n => s.isHostRing c n) || rings.all (fun n => !s.isHostRing c n))

/-- The counters as a list of 8-byte values from index i on. -/
def counterMap : Nat → List (List Byte) → SMap Nat
  | _, [] => []
  | i, b :: bs => if leNat b = 0 then counterMap (i + 1) bs else (i, leNat b) :: counterMap (i + 1) bs

/-- The actions of ACTIVATE (R112, R135, R146, R531). -/
def State.activate (s : State) (c : Nat) (bs : List Byte) : State :=
  let host := (s.enabledRings c).all (fun n => s.isHostRing c n)
  let f := if host then 0 else s.rg R.ctxCfgFront c
  let s := s.tlbDropCtx c
  let s := s.setCtx c { CtxSt.empty with front := f, counters := counterMap 0 (pieces 8 bs) }
  let s := (below 4).foldl (fun s n => s.setRing c n RingSt.empty) s
  let s := (s.enabledRings c).foldl (fun s n =>
    let s := s.rset R.ctxRingCiCi (c * 4 + n) 0
    (s.vwrite (s.frontRq c) (s.rg R.ctxRingIdxAddrAddr (c * 4 + n) + 64) (natLe 4 0)).s) s
  let s := (s.vwrite (s.frontRq c) (s.rg R.ctxCqIdxAddrAddr c + 64) (natLe 4 0)).s
  ((s.noteJobs c).rset R.ctxStatusCqFull c 0).rset R.ctxStatusState c ctxActive

/-- ACTIVATE: READY to ACTIVE (R146). -/
def execActivate (ctx fn : Nat) (s : State) : Host.Outcome State Fault Refusal :=
  if ¬ s.barOpen 0x200000 then .next s else
  let s0 := s.tlbDropCtx ctx
  let rd := s0.vread ⟨ctx, 16⟩ (s.rg R.ctxEventBaseBase ctx) (8 * s.rg R.ctxEventCfgCount ctx)
  .next (s.ctxCmd fn ctx (s0.activateOk ctx && rd.st == 0) (rd.s.activate ctx rd.bs))

/-- DRAIN: ACTIVE or ERROR to DRAINING, discarding the undispatched packets (R146, R149). -/
def execDrain (ctx fn : Nat) (s : State) : Host.Outcome State Fault Refusal :=
  if ¬ s.barOpen 0x200000 then .next s else
  let ok := s.ctxState ctx == ctxActive || s.ctxState ctx == ctxError
  .next (s.ctxCmd fn ctx ok ((s.flushQueues ctx).rset R.ctxStatusState ctx ctxDraining))

/-- DRAIN_DONE: DRAINING to READY once no packet is dispatched and every record is written (R146). -/
def execDrainDone (ctx : Nat) (s : State) : Host.Outcome State Fault Refusal :=
  let x := s.ctx ctx
  if s.ctxState ctx = ctxDraining ∧ x.jobs.isEmpty ∧ x.flushed.isEmpty then
    .next (s.rset R.ctxStatusState ctx ctxReady)
  else .next s

/-- CLEAR_ERROR: ERROR to ACTIVE (R146). -/
def execClearError (ctx fn : Nat) (s : State) : Host.Outcome State Fault Refusal :=
  if ¬ s.barOpen 0x200000 then .next s else
  .next (s.ctxCmd fn ctx (s.ctxState ctx == ctxError) (s.rset R.ctxStatusState ctx ctxActive))

/-- RELEASE: READY to FREE, by the physical function, never context 0 (R146, R531). -/
def execRelease (ctx fn : Nat) (s : State) : Host.Outcome State Fault Refusal :=
  if ¬ s.barOpen 0x200000 then .next s else
  .next (s.ctxCmd fn ctx (fn == 0 && ctx != 0 && s.ctxState ctx == ctxReady)
    ((s.tlbDropCtx ctx).rset R.ctxStatusState ctx ctxFree))

end Sys2Proof.Machine
end

