-- ==== Sys2Proof/Machine/Packet.lean ====
section
/-!
DEFINITION. Packets that signal, write, copy, fill and invalidate (R128 to R130, R816, R818, R530).
-/

namespace Sys2Proof.Machine

/-- Run a dispatched packet of an opcode: its work on the state and how it ended, or nothing where no
such packet runs or a regulator holds its transfers back (R187). -/
def State.runPacket (s : State) (c ring slot op : Nat) (work : Packet → State × Done) : State :=
  match s.running c ring slot op with
  | none => s
  | some p => let r := work p
    s.gate c (r.1.finish c ring slot r.2)

/-- An ended packet with neither detail nor info. -/
def Done.plain (st : Nat) : Done := ⟨st, 0, 0⟩

/-- NOP: does nothing (R128). -/
def execNop (ctx ring slot : Nat) (s : State) : Host.Outcome State Fault Refusal :=
  .next (s.runPacket ctx ring slot 0x00 (fun _ => (s, Done.plain stOk)))

/-- EVENT_SIGNAL: adds to or sets a counter of the target context (R129, R137, R818). -/
def State.eventSignal (s : State) (w : Nat) : State × Done :=
  let e := bits w 256 16
  let t := bits w 272 12
  let v := bits w 320 64
  if s.ctxState t = ctxFree ∨ s.ctxState t = ctxReady ∨ s.rg R.ctxEventCfgCount t ≤ e then
    (s, Done.plain stCmdEventRange)
  else (s.setCounter t e (if bit w 288 then v else s.counter t e + v), Done.plain stOk)

/-- EVENT_SIGNAL. -/
def execEventSignal (ctx ring slot : Nat) (s : State) : Host.Outcome State Fault Refusal :=
  .next (s.runPacket ctx ring slot 0x01 (fun p => s.eventSignal p.words))

/-- Write bytes at a virtual address for a packet. -/
def State.packetWrite (s : State) (c va : Nat) (bs : List Byte) : State × Done :=
  let r := s.vwrite (s.frontRq c) va bs
  (r.s, ⟨r.st, 0, if r.st = 0 then 0 else va + r.off⟩)

/-- WRITE_IMM: writes a 64-bit value to memory (R128, R129). -/
def execWriteImm (ctx ring slot : Nat) (s : State) : Host.Outcome State Fault Refusal :=
  .next (s.runPacket ctx ring slot 0x03 (fun p =>
    s.packetWrite ctx (bits p.words 256 48) (natLe 8 (bits p.words 320 64))))

/-- TIMESTAMP: writes the Round count at completion to memory, and completes (R128, R129). -/
def execTimestamp (ctx ring slot : Nat) (s : State) : Host.Outcome State Fault Refusal :=
  match s.running ctx ring slot 0x04 with
  | none => .next s
  | some p =>
    let r := s.packetWrite ctx (bits p.words 256 48) (natLe 8 s.round)
    .next (s.gate ctx (r.1.completeJob ctx ⟨p, none⟩ r.2))

/-- A list of free bytes. -/
def State.freshBytes (s : State) : Nat → List Byte × State
  | 0 => ([], s)
  | n + 1 =>
    let f := s.fresh
    let r := f.2.freshBytes n
    (BitVec.ofNat 8 f.1 :: r.1, r.2)

/-- Transfer the pieces of a range in order of offset.  `get` gives the bytes of a piece.  After the
first status a later piece may be written or left: a free choice (R816).  Answers the status and
address that arose at the lowest offset. -/
def xferLoop (rq : Rq) (dst : Nat) (get : State → Nat → Nat → Rd) (src : Nat) :
    List (Nat × Nat) → State → Option (Nat × Nat) → State × Option (Nat × Nat)
  | [], s, f => (s, f)
  | (o, n) :: ps, s, f =>
    let ch := if f.isSome then s.fresh else (1, s)
    if ch.1 % 2 = 0 then xferLoop rq dst get src ps ch.2 f
    else
      let rd := get ch.2 o n
      let wr := rd.s.vwrite rq (dst + o) rd.bs
      let f' := if wr.st ≠ 0 then some (wr.st, dst + o + wr.off)
        else if rd.st ≠ 0 then some (rd.st, src + o + rd.off) else none
      xferLoop rq dst get src ps wr.s (f <|> f')

/-- How a transfer ended. -/
def xferDone (f : Option (Nat × Nat)) : Done :=
  match f with
  | none => ⟨stOk, 0, 0⟩
  | some (st, a) => ⟨st, 0, a⟩

/-- Copy n bytes between virtual addresses as plain bytes (R816).  Ranges that overlap without being
equal leave the destination with unspecified values. -/
def State.copyPlain (s : State) (rq : Rq) (src dst n : Nat) : State × Option (Nat × Nat) :=
  if src ≠ dst ∧ src < dst + n ∧ dst < src + n then
    xferLoop rq dst (fun s o k =>
      let rd := s.vread rq (src + o) k
      let f := rd.s.freshBytes rd.bs.length
      { rd with s := f.2, bs := f.1 }) src (spans 64 0 n) s none
  else xferLoop rq dst (fun s o k => s.vread rq (src + o) k) src (spans 64 0 n) s none

/-- FILL: fills memory with a 64-bit pattern (R128, R816). -/
def State.fill (s : State) (c w : Nat) : State × Done :=
  let dst := bits w 256 48
  let pat := natLe 8 (bits w 320 64)
  let r := xferLoop (s.frontRq c) dst
    (fun s o k => ⟨s, 0, 0, (upFrom o k).map (fun i => (pat[i % 8]?).getD 0)⟩) dst
    (spans 64 0 (bits w 384 40)) s none
  (r.1, xferDone r.2)

/-- FILL. -/
def execFill (ctx ring slot : Nat) (s : State) : Host.Outcome State Fault Refusal :=
  .next (s.runPacket ctx ring slot 0x11 (fun p => s.fill ctx p.words))

/-- Invalidate translations and count the invalidation (R530, R558). -/
def State.invalidate (s : State) (all : Bool) (c start len : Nat) : State :=
  (s.tlbDrop all c start len).radd R.mmuInvalidationsCount 0 1

/-- TLB_INVALIDATE: discards every cached translation that its fields select (R530). -/
def execTlbInvalidate (ctx ring slot : Nat) (s : State) : Host.Outcome State Fault Refusal :=
  .next (s.runPacket ctx ring slot 0x50 (fun p =>
    let w := p.words
    let range := if bit w 269 then (0, 2 ^ 48) else (bits w 320 48, bits w 384 40)
    (s.invalidate (bit w 268) (bits w 256 12) range.1 range.2, Done.plain stOk)))

end Sys2Proof.Machine
end

