-- ==== Sys2Proof/Machine/Sfu.lean ====
section
/-!
DEFINITION. The SFU: table images, slots, bindings and evaluation (R328 to R351, R369, R370).
-/

namespace Sys2Proof.Machine

/-! ### Table images (R330 to R334) -/

/-- function. -/
def tbFn (t : Nat) : Nat := bits t 40 8
/-- eval. -/
def tbEval (t : Nat) : Bool := bit t 48
/-- key_id. -/
def tbKey (t : Nat) : Nat := bits t 52 4
/-- key_bits. -/
def tbKeyBits (t : Nat) : Nat := bits t 56 5
/-- pos_count. -/
def tbPosCount (t : Nat) : Nat := bits t 64 13
/-- pos_base. -/
def tbPosBase (t : Nat) : Nat := bits t 80 16
/-- neg_count. -/
def tbNegCount (t : Nat) : Nat := bits t 96 13
/-- neg_base. -/
def tbNegBase (t : Nat) : Nat := bits t 112 16
/-- patch_count. -/
def tbPatches (t : Nat) : Nat := bits t 136 7
/-- verified. -/
def tbVerified (t : Nat) : Nat := bits t 160 16
/-- length. -/
def tbLength (t : Nat) : Nat := bits t 176 16
/-- flush. -/
def tbFlush (t : Nat) : Nat := bits t 384 32
/-- Segment entry s, 80 bits (R332). -/
def tbSeg (t s : Nat) : Nat := bits t (8 * (64 + 10 * s)) 80
/-- Byte offset of the patch array (R330). -/
def tbPatchAt (t : Nat) : Nat := (64 + 10 * (tbPosCount t + tbNegCount t) + 7) / 8 * 8
/-- Patch entry i, 64 bits (R333). -/
def tbPatch (t i : Nat) : Nat := bits t (8 * (tbPatchAt t + 8 * i)) 64

/-- Whether a patch entry is malformed; `prev` is the key of the entry before it (R333). -/
def patchBad (p : Nat) (prev : Option Nat) : Bool :=
  let f := bits p 32 8
  let k := bits p 0 32 * 256 + f
  decide (f = 0 ∨ 4 < f) || bits p 56 8 != 0 || (decide (3 ≤ f) && bits p 48 8 != 0) ||
  (match prev with
   | none => false
   | some q => decide (k ≤ q))

/-- The patch entries from i on, none malformed. -/
def patchesOk (t : Nat) : Nat → Nat → Option Nat → Bool
  | 0, _, _ => true
  | n + 1, i, prev =>
    let p := tbPatch t i
    !(patchBad p prev) && patchesOk t n (i + 1) (some (bits p 0 32 * 256 + bits p 32 8))

/-- Whether a table body is malformed (R332, R334). -/
def bodyMalformed (t : Nat) : Bool :=
  let kb := tbKeyBits t
  let pc := tbPosCount t
  let nc := tbNegCount t
  clearFields (bits t 0 512) [(0, 32), (32, 8), (40, 8), (48, 1), (52, 4), (56, 5), (64, 13), (80, 16),
    (96, 13), (112, 16), (128, 2), (130, 2), (132, 2), (134, 2), (136, 7), (160, 16), (176, 16), (192, 32),
    (224, 32), (256, 32), (288, 32), (320, 32), (352, 32), (384, 32)] != 0 ||
  bits t 0 32 != 0x4C425453 || bits t 32 8 != 1 || tbFn t == 0 || decide (kb < 8 ∨ 16 < kb) ||
  (below 4).any (fun i => bits t (128 + 2 * i) 2 == 3) || decide (4096 < pc + nc) ||
  decide (2 ^ (kb - 1) < tbPosBase t + pc) ||
  (nc != 0 && decide (tbNegBase t < 2 ^ (kb - 1))) || decide (2 ^ kb < tbNegBase t + nc) ||
  decide (64 < tbPatches t) || (tbEval t && tbPatches t != 0) ||
  !(patchesOk t (tbPatches t) 0 none) ||
  (below (pc + nc)).any (fun s => !(f32 (bits (tbSeg t s) 0 32)).isFin) ||
  (tbFlush t != 0 && (!(f32 (tbFlush t)).isFin || !(Num.zero.lt (f32 (tbFlush t))))) ||
  tbLength t != tbPatchAt t + 8 * tbPatches t

/-! ### Evaluation (R335 to R339) -/

/-- A rule of R336: CONST, IDENT or SCALE. -/
def sfuRule (mode c : Nat) (x : Num) : Num :=
  if mode = 0 then f32 c else if mode = 1 then x else x.mul (f32 c)

/-- The flush threshold for an output format (R338). -/
def sfuThreshold (flush F : Nat) : Num :=
  if flush ≠ 0 then f32 flush else .fin false 1 (1 - ((fmtF F).bias : Int))

/-- Convert v to format F and flush small results to a zero of v's sign (R336). -/
def sfuResult (flush F : Nat) (v : Num) : Nat :=
  let r := elemConv F .even v
  let n := elemNum F r
  if n.isFin ∧ n.abs.lt (sfuThreshold flush F) then elemConv F .even (.fin v.signBit 0 0) else r

/-- The value of a segment at t: exact (R336), or with four roundings (R337). -/
def segValue (ehrisk : Bool) (e : Nat) (t : Num) : Num :=
  let ex : Int := (bits e 32 8 : Int) - 150
  let c0 := f32 (bits e 0 32)
  let c1 := (Num.ofInt (toSigned 24 (bits e 40 24))).scale2 ex
  let c2 := (Num.ofInt (toSigned 16 (bits e 64 16))).scale2 ex
  let r := fun (x : Num) => f32 (toF32 x)
  let v := if ehrisk then r ((r ((r ((r (c2.mul t)).add c1)).mul t)).add c0)
    else (c0.add (c1.mul t)).add ((c2.mul t).mul t)
  if v.isZero then Num.zero else v

/-- The patch for an input and an output format (R336). -/
def findPatch (tab b F : Nat) : Option Nat :=
  (((below (tbPatches tab)).map (tbPatch tab)).find? (fun p => bits p 0 32 == b && bits p 32 8 == F)).map
    (fun p => bits p 40 16)

/-- v for a table and an FP32 input that is not NaN (R336). -/
def sfuValue (tab b : Nat) : Num :=
  let x := f32 b
  match x with
  | .inf neg => f32 (bits tab (if neg then 352 else 320) 32)
  | _ =>
    let h := 32 - tbKeyBits tab
    let k := b / 2 ^ h
    let pos := b / 2 ^ 31 == 0
    let base := if pos then tbPosBase tab else tbNegBase tab
    let count := if pos then tbPosCount tab else tbNegCount tab
    let first := if pos then 0 else tbPosCount tab
    let m := if pos then 0 else 1
    if k < base then sfuRule (bits tab (128 + 4 * m) 2) (bits tab (192 + 64 * m) 32) x
    else if base + count ≤ k then sfuRule (bits tab (130 + 4 * m) 2) (bits tab (224 + 64 * m) 32) x
    else segValue (tbEval tab) (tbSeg tab (first + k - base)) (.fin false (b % 2 ^ h) (-(h : Int)))

/-- Evaluate a loaded table for an FP32 input and an output format (R336, R337). -/
def sfuTable (tab b F : Nat) : Nat :=
  if (f32 b).isNan then elemConv F .even .nan
  else
    match findPatch tab b F with
    | some r => r
    | none => sfuResult (tbFlush tab) F (sfuValue tab b)

/-- The result that R329 gives catalogue function f for a special input: NaN, an infinity, a zero, or
a negative input of a logarithm or root. -/
def catalogueSpecial (f : Nat) (x : Num) : Option Num :=
  match x with
  | .nan => some .nan
  | .inf neg =>
    match f with
    | 1 => some (if neg then Num.zero else .inf false)
    | 2 => some (if neg then Num.zero else .inf false)
    | 3 => some (if neg then .nan else .inf false)
    | 4 => some (if neg then .nan else .inf false)
    | 5 => some (.fin neg 0 0)
    | 6 => some (if neg then .nan else Num.zero)
    | 7 => some (if neg then .nan else .inf false)
    | 8 => some (if neg then Num.zero else Num.ofInt 1)
    | 9 => some (Num.ofInt (if neg then -1 else 1))
    | 10 => some (if neg then .fin true 0 0 else .inf false)
    | 11 => some (if neg then .fin true 0 0 else .inf false)
    | 12 => some (if neg then .fin true 0 0 else .inf false)
    | 13 => some (if neg then Num.zero else .inf false)
    | 14 => some (Num.ofInt (if neg then -1 else 1))
    | _ => none
  | .fin neg m _ =>
    if m = 0 then
      match f with
      | 3 => some (.inf true)
      | 4 => some (.inf true)
      | 5 => some (.inf neg)
      | 6 => some (.inf neg)
      | 7 => if neg then some (.fin true 0 0) else none
      | _ => none
    else if neg ∧ (f = 3 ∨ f = 4 ∨ f = 6 ∨ f = 7) then some .nan else none

/-- The body of the default set's table in slot k (R350): its coefficients are not in the spec. -/
def defaultTable (k : Nat) : Nat := leNat ((below 49152).map (fun i => defaultByte (49152 * k + i)))

/-- The fixed copy of catalogue table EXP2 (R339). -/
def exp2Table : Nat := leNat ((below 49152).map Config.exp2TableByte)

/-- The flush field of a table, where R334 admits it. -/
def tbFlushOk (tab : Nat) : Nat :=
  if (f32 (tbFlush tab)).isFin ∧ Num.zero.lt (f32 (tbFlush tab)) then tbFlush tab else 0

/-- What a catalogue table with flush threshold fl gives for function f and an FP32 input: R329's result for a special
input; otherwise what its segments give (R336), as far as R341 allows it for FP32, and the rounded value of the function
for a verified pair (R329, R340). -/
def sfuCatalogue (fl tab f b F : Nat) : Nat :=
  let x := f32 b
  match catalogueSpecial f x with
  | some v => sfuResult fl F v
  | none =>
    let r := fnBounds f x
    if r.2.isZero then sfuResult fl F (if (sfuValue tab b).isZero then sfuValue tab b else Num.zero)
    else if F = 0 then sfuResult fl 0 (f32 (faithful r (toF32 (sfuValue tab b))))
    else if isShort b then
      if sfuResult fl F r.1 = sfuResult fl F r.2 then sfuResult fl F r.1 else sfuTable tab b F
    else sfuTable tab b F % 2 ^ fmtBits F

/-- The attention exponential path: 2^x for FP32, flushed below 2^−126 (R338, R339, R387). -/
def exp2Path (b : Nat) : Nat :=
  if (f32 b).isZero then 0x3F800000 else sfuCatalogue 0 exp2Table 2 b 0

/-! ### Slots and bindings (R343, R344, R350, R351) -/

/-- The slot that a Stake binds a function to. -/
def State.sfuBinding (s : State) (st f : Nat) : Option Nat :=
  match smGet s.sfu.binds (st * 256 + f) with
  | some 0 => none
  | some k => some (k - 1)
  | none => if f = 0 then none else (below 5).find? (fun k => defaultFn k == f)

/-- Set a binding: slot + 1, or 0 for none. -/
def State.setBinding (s : State) (st f k : Nat) : State :=
  { s with sfu := { s.sfu with binds := smSet s.sfu.binds (st * 256 + f) k } }

/-- Function of a Stake's slot, 0 where it is empty (R370). -/
def State.slotFn (s : State) (st k : Nat) : Nat := s.rg R.sfuSlotFunction (st * 8 + k)

/-- Evaluate the table in a Stake's slot (R336, R344). -/
def State.sfuSlotEval (s : State) (st k b F : Nat) : Nat :=
  match smGet s.sfu.slots (st * 8 + k) with
  | some tab => sfuTable tab b F
  | none => sfuCatalogue (tbFlushOk (defaultTable k)) (defaultTable k) (defaultFn k) b F

/-- Whether a started descriptor of a Stake holds a slot (R344). -/
def State.slotHeld (s : State) (st k : Nat) : Bool :=
  match smGet s.stakes st with
  | none => false
  | some x => x.started.any (fun d => d.binds.any (fun b => b.2 == k))

/-- Whether any function is bound to a Stake's slot. -/
def State.slotBoundFn (s : State) (st k : Nat) : Bool :=
  s.sfuBinding st (s.slotFn st k) == some k

/-- Bring the bound and held bits of a Stake's slot registers up to date (R370). -/
def State.refreshSlots (s : State) (st : Nat) : State :=
  (below 8).foldl (fun s k =>
    (s.rset R.sfuSlotHeld (st * 8 + k) (b2n (s.slotHeld st k))).rset R.sfuSlotBound (st * 8 + k)
      (b2n (s.slotBoundFn st k))) s

/-- Load the default set into a Stake (R351). -/
def State.loadDefault (s : State) (st : Nat) : State :=
  let s := { s with sfu := { s.sfu with
      slots := smFilter (fun k => k / 8 != st) s.sfu.slots
      binds := smFilter (fun k => k / 256 != st) s.sfu.binds } }
  let s := (below 8).foldl (fun s k =>
    [R.sfuSlotFunction, R.sfuSlotLoaded, R.sfuSlotBound, R.sfuSlotHeld, R.sfuSlotEval, R.sfuSlotKeyId,
      R.sfuSlotVerified].foldl (fun s f => s.rset f (st * 8 + k) (fieldReset f (st * 8 + k))) s) s
  s.radd R.sfuRestoresCount 0 1

/-- The functions that a descriptor uses, as R344 lists them: its act, the function of an SFU, every
VSFU of a VPROG. -/
def State.fnsOf (s : State) (st w : Nat) : List Nat :=
  let act := if bit w 71 ∧ bits w 648 8 ≠ 0 then [bits w 648 8] else []
  let own := if bits w 0 8 = 0x08 then [bits w 768 8]
    else if bits w 0 8 = 0x09 then
      ((below (bits w 800 10 + 1)).map (fun i => leNat (s.trayN st (bits w 768 21 + 4 * i) 4))).flatMap
        (fun x => if bits x 0 6 = 0x14 then [bits x 16 8] else [])
    else []
  act ++ own

/-- What a descriptor resolves as it starts: each function it uses that is bound, with its slot. -/
def State.resolve (s : State) (st w : Nat) : List (Nat × Nat) :=
  (s.fnsOf st w).flatMap (fun f => match s.sfuBinding st f with
    | some k => [(f, k)]
    | none => [])

end Sys2Proof.Machine
end

