-- ==== Sys2Proof/Machine/WeaveOps.lean ====
section
/-!
DEFINITION. Weaves: images, streams and descriptors as the Stakes read them, starting, stopping and
completing a weave, credits and queues (R171 to R181, R216 to R236, R283 to R289).
-/

namespace Sys2Proof.Machine

/-! ### Descriptor fields (R223 to R225) -/

/-- op. -/
def dOp (w : Nat) : Nat := bits w 0 8
/-- barrier. -/
def dBarrier (w : Nat) : Bool := bit w 8
/-- wait_credit. -/
def dWaitCredit (w : Nat) : Nat := bits w 12 4
/-- wait_count. -/
def dWaitCount (w : Nat) : Nat := bits w 16 8
/-- acc_first. -/
def dAccFirst (w : Nat) : Nat := bits w 64 2
/-- acc_count, tiles minus one. -/
def dAccCount (w : Nat) : Nat := bits w 66 2
/-- preload. -/
def dPreload (w : Nat) : Nat := bits w 68 3
/-- epilogue. -/
def dEpilogue (w : Nat) : Bool := bit w 71
/-- fmt_a. -/
def dFmtA (w : Nat) : Nat := bits w 72 8
/-- fmt_b. -/
def dFmtB (w : Nat) : Nat := bits w 80 8
/-- fmt_out. -/
def dFmtOut (w : Nat) : Nat := bits w 88 8
/-- dim_m. -/
def dM (w : Nat) : Nat := bits w 128 16
/-- dim_n. -/
def dN (w : Nat) : Nat := bits w 144 16
/-- dim_k. -/
def dK (w : Nat) : Nat := bits w 160 16
/-- dim_4. -/
def d4 (w : Nat) : Nat := bits w 176 16

/-- An operand record (R224). -/
structure Opnd where
  addr : Nat
  space : Nat
  packed : Bool
  used : Bool
  agen : Nat
  scale : Nat
  deriving DecidableEq, Repr

/-- Operand k of a descriptor: 0 A, 1 B, 2 C (R223, R224). -/
def dOpnd (w k : Nat) : Opnd :=
  let b := 256 + 128 * k
  ⟨bits w b 48, bits w (b + 48) 2, bit w (b + 50), bit w (b + 51), bits w (b + 56) 6, bits w (b + 64) 32⟩

/-- The fields of a descriptor outside its parameters (R223 to R225). -/
def descFields : List (Nat × Nat) :=
  [(0, 8), (8, 1), (12, 4), (16, 8), (24, 4), (28, 1), (32, 11), (48, 8), (64, 2), (66, 2), (68, 3),
   (71, 1), (72, 8), (80, 8), (88, 8), (128, 16), (144, 16), (160, 16), (176, 16),
   (256, 48), (304, 2), (306, 1), (307, 1), (312, 6), (320, 32),
   (384, 48), (432, 2), (434, 1), (435, 1), (440, 6), (448, 32),
   (512, 48), (560, 2), (562, 1), (563, 1), (568, 6), (576, 32),
   (640, 2), (648, 8), (656, 1), (672, 32), (704, 32), (768, 192)]

/-- The queue of an op: 0 matrix, 1 vector, 2 move; 3 for the matrix and vector queues (R226). -/
def opQueue (op : Nat) : Nat :=
  if op = 0x05 then 3
  else if op ≤ 0x04 then 0
  else if op = 0x0A ∨ op = 0x0B ∨ op = 0x0E ∨ op = 0x0F then 2
  else 1

/-- Whether two ops share a queue (R226, R229). -/
def sameQueue (a b : Nat) : Bool :=
  opQueue a == opQueue b || (opQueue a == 3 && opQueue b != 2) || (opQueue b == 3 && opQueue a != 2)

/-- The accumulator tiles that a descriptor names (R230). -/
def dTiles (w : Nat) : List Nat :=
  let direct := if [1, 2, 3, 4, 5, 9].contains (dOp w) then upFrom (dAccFirst w) (dAccCount w + 1) else []
  direct ++ (below 3).flatMap (fun k =>
    let o := dOpnd w k
    if o.used ∧ o.space = 2 then [o.addr % 4] else [])

/-- Whether the address of an operand has a bit set above those that its space names (R8, R224). -/
def opndAddrBad (o : Opnd) : Bool :=
  if o.space = 1 then false else if o.space = 2 then decide (4 ≤ o.addr) else decide (2 ^ 21 ≤ o.addr)

/-- Whether a descriptor is malformed, its parameters apart (R220, R223 to R226, R246, R266). -/
def descMalformed (wv : Weave) (w : Nat) : Bool :=
  clearFields w descFields != 0 || dOp w == 0 || decide (0x0F < dOp w) ||
  (bit w 28 && (decide (bits w 32 11 < wv.first ∨ wv.first + wv.count ≤ bits w 32 11) || bits w 48 8 == 0)) ||
  decide (3 < dAccFirst w + dAccCount w) || decide (4 < dPreload w) || bits w 640 2 == 3 ||
  badScale (bits w 704 32) || !([dFmtA w, dFmtB w, dFmtOut w].all (fun f => fmtCodes.contains f)) ||
  (below 3).any (fun k => decide (wv.agens.length < (dOpnd w k).agen) || opndAddrBad (dOpnd w k) ||
    ((dOpnd w k).used && (dOpnd w k).space == 2 && (dOpnd w k).agen != 0))

/-! ### Address-generator records (R283, R284, R288) -/

/-- Whether an address-generator record is malformed (R283, R284, R288). -/
def agenMalformed (r : Nat) : Bool :=
  let nd := bits r 48 2
  let dims := (below 4).flatMap (fun n => [(96 * n + 128, 32), (96 * n + 160, 24), (96 * n + 184, 8),
    (96 * n + 192, 8), (96 * n + 200, 8)])
  clearFields r ([(0, 48), (48, 2), (64, 48), (112, 4)] ++ dims) != 0 ||
  (below 4).any (fun n =>
    if nd < n then bits r (96 * n + 128) 96 != 0 || bit r (112 + n)
    else bits r (96 * n + 184) 8 == 0 || bits r (96 * n + 192) 8 == 0) ||
  bits r 64 4 != 0

/-- A record with the words of its bound block in place of the selected bounds, or none where a word
exceeds the record's bound (R289). -/
def agenBound (r block : Nat) : Option Nat :=
  (below 4).foldl (fun o n => match o with
    | none => none
    | some r =>
      if ¬ bit r (112 + n) then some r
      else
        let x := bits block (32 * n) 32
        if bits r (96 * n + 160) 24 < x then none else some (putBits r (96 * n + 160) 24 x)) (some r)

/-! ### Starting a weave -/

/-- What stopped the reading of a weave image: status and info (R221, R222). -/
abbrev ImageStop := Nat × Nat

/-- info of ST_WEAVE_IMAGE for a header or stream-table fault (R222). -/
abbrev headerInfo : Nat := 0xFFFFFFFFFFFFFFFF

/-- Read n bytes of a weave image as a number. -/
def State.imageRead (s : State) (rq : Rq) (va n : Nat) : State × Except ImageStop Nat :=
  let r := s.vread rq va n
  (r.s, if r.st = 0 then .ok (leNat r.bs) else .error (r.st, va + r.off))

/-- Read and check the address-generator records and their bound blocks (R219, R288, R289). -/
def State.readAgens (s : State) (rq : Rq) (va : Nat) : Nat → State × Except ImageStop (List Nat)
  | 0 => (s, .ok [])
  | n + 1 =>
    match s.imageRead rq va 64 with
    | (s, .error e) => (s, .error e)
    | (s, .ok r) =>
      if agenMalformed r then (s, .error (stWeaveImage, headerInfo))
      else
        let b := if bits r 112 4 = 0 then (s, .ok 0) else s.imageRead rq (bits r 64 48) 16
        match b with
        | (s, .error e) => (s, .error e)
        | (s, .ok blk) =>
          match agenBound r blk with
          | none => (s, .error (stWeaveImage, headerInfo))
          | some r =>
            match s.readAgens rq (va + 64) n with
            | (s, .error e) => (s, .error e)
            | (s, .ok l) => (s, .ok (r :: l))

/-- Read and check the stream table: (offset, count) of each Stake (R218, R220). -/
def State.readStreams (s : State) (rq : Rq) (va : Nat) : Nat → State × Except ImageStop (List (Nat × Nat))
  | 0 => (s, .ok [])
  | n + 1 =>
    match s.imageRead rq va 16 with
    | (s, .error e) => (s, .error e)
    | (s, .ok r) =>
      if clearFields r [(0, 32), (32, 24)] ≠ 0 ∨ bits r 0 32 % 128 ≠ 0 ∨ bits r 32 24 = 0 then
        (s, .error (stWeaveImage, headerInfo))
      else
        match s.readStreams rq (va + 16) n with
        | (s, .error e) => (s, .error e)
        | (s, .ok l) => (s, .ok ((bits r 0 32, bits r 32 24) :: l))

/-- Whether a weave image header is malformed for a launch of some Stakes (R217, R220). -/
def headerMalformed (h count : Nat) : Bool :=
  clearFields h [(0, 32), (32, 16), (64, 11), (80, 7), (96, 32), (128, 32)] != 0 ||
  bits h 0 32 != 0x56414557 || bits h 32 16 != 1 || bits h 64 11 != count || decide (63 < bits h 80 7) ||
  bits h 96 6 != 0 || bits h 128 4 != 0

/-- Read a weave image: its records and streams (R217 to R220). -/
def State.readImage (s : State) (rq : Rq) (va count : Nat) :
    State × Except ImageStop (List Nat × List (Nat × Nat)) :=
  match s.imageRead rq va 128 with
  | (s, .error e) => (s, .error e)
  | (s, .ok h) =>
    if headerMalformed h count then (s, .error (stWeaveImage, headerInfo))
    else
      match s.readStreams rq (va + bits h 128 32) count with
      | (s, .error e) => (s, .error e)
      | (s, .ok st) =>
        match s.readAgens rq (va + bits h 96 32) (bits h 80 7) with
        | (s, .error e) => (s, .error e)
        | (s, .ok ag) => (s, .ok (ag, st))

/-- Counter k of a Stake's credits (R195, R244). -/
def creditFld (k : Nat) : Fld :=
  if k % 4 = 0 then R.stakeCreditsCredit4j else if k % 4 = 1 then R.stakeCreditsCredit4j1
  else if k % 4 = 2 then R.stakeCreditsCredit4j2 else R.stakeCreditsCredit4j3

/-- Credit counter k of a Stake. -/
def State.credit (s : State) (st k : Nat) : Nat := s.rg (creditFld k) (st * 4 + k / 4)

/-- Set a credit counter. -/
def State.setCredit (s : State) (st k v : Nat) : State := s.rset (creditFld k) (st * 4 + k / 4) v

/-- The Coils of a range of Stakes. -/
def coilsOf (first count : Nat) : List Nat := (below 16).filter (fun c => rangesMeet first count (96 * c) 96)

/-- A Stake begins its stream: credits at 0, state held (R176, R219, R244). -/
def State.startStake (s : State) (w : Weave) (st : Nat) (str : Option (Nat × Nat)) : State :=
  let s := (below 16).foldl (fun s k => s.setCredit st k 0) s
  let s := ((s.rset R.stakeStatusState st 1).rset R.stakeStatusContext st w.ctx).rset
    R.stakeStatusDescIndex st 0
  let x : StakeSt := ⟨w.id, w.image + (str.getD (0, 0)).1, (str.getD (0, 0)).2, 0, [], 0, [], [], none⟩
  { s with stakes := smSet s.stakes st x }

/-- Start a weave: it takes its Stakes, its context's age starts again, the clocks of its Coils run, and its image
is read (R176, R180, R219, R761). -/
def State.startWeave (s : State) (w : Weave) : State :=
  let s := s.setCtx w.ctx { s.ctx w.ctx with ageFrom := s.beat }
  let s := (coilsOf w.first w.count).foldl (fun s c =>
    s.rset R.pwrStatusIdle 0 (putBits (s.rg R.pwrStatusIdle 0) c 1 0)) s
  let s := if w.ctx = 0 then s else s.radd R.partDispatchesCount w.part 1
  let rd := s.readImage ⟨w.ctx, w.first / 96⟩ w.image w.count
  let s := rd.1
  let w := match rd.2 with
    | .ok (ag, _) => { w with id := s.nextWeave, start := s.beat, agens := ag }
    | .error (st, info) => { w with id := s.nextWeave, start := s.beat, stop := some (st, 0, info) }
  let strs := match rd.2 with
    | .ok (_, l) => l
    | .error _ => []
  let s := { s with weaves := s.weaves ++ [w], nextWeave := s.nextWeave + 1 }
  (below w.count).foldl (fun s i => s.startStake w (w.first + i) (strs[i]?)) s

/-! ### Freeing Stakes (R176, R177) -/

/-- Forget a weave's Stakes. -/
def State.releaseStakes (s : State) (w : Weave) : State :=
  (below w.count).foldl (fun s i =>
    let s := (s.rset R.stakeStatusState (w.first + i) 0).rset R.stakeStatusContext (w.first + i) 0
    { s with stakes := smErase s.stakes (w.first + i) }) s

/-- A weave frees its Stakes; its context's vtime rises unless the Weave table launched it (R176,
R177). -/
def State.freeWeave (s : State) (w : Weave) : State :=
  let s := s.releaseStakes w
  let s := { s with weaves := s.weaves.filter (fun x => x.id != w.id) }
  if w.launch ∨ w.ctx = 0 then s
  else
    let share := s.rg R.partCtxSchedShare w.ctx
    s.radd R.partCtxVtimeVtime w.ctx (w.count * (s.beat - w.start) * 65536 / share)

/-! ### Waiting weaves (R171 to R178) -/

/-- Whether a context has a waiting or running weave of a WEAVE_RUN (R177, R178). -/
def State.busyCtx (s : State) (c : Nat) : Bool :=
  s.waiting.any (fun w => w.ctx == c) || s.weaves.any (fun w => w.ctx == c && !w.launch)

/-- The least of a list of numbers. -/
def listMin : List Nat → Option Nat
  | [] => none
  | x :: xs => match listMin xs with
    | none => some x
    | some m => some (min x m)

/-- Raise the vtime of a context that gains work after having none (R178). -/
def State.raiseVtime (s : State) (c : Nat) : State :=
  if c = 0 ∨ s.busyCtx c then s
  else
    let p := s.rg R.ctxCfgPartition c
    let l := ((s.ctxsOf p).filter (fun x => s.busyCtx x)).map (fun x => s.rg R.partCtxVtimeVtime x)
    match listMin l with
    | none => s
    | some m => if s.rg R.partCtxVtimeVtime c < m then s.rset R.partCtxVtimeVtime c m else s

/-- WEAVE_RUN's work: check the Stakes, then the run bound, then wait (R171, R172, R178). -/
def State.weaveRun (s : State) (c : Nat) (p : Packet) : State × Option Done :=
  let w := p.words
  let first := bits w 320 11
  let count := bits w 336 11
  let bound := bits w 352 32
  if ¬ (upFrom first count).all (fun st => s.mayStake c st) then (s, some (Done.plain stWeaveStakes))
  else if bound = 0 ∨ (c ≠ 0 ∧ s.rg R.partCfgMaxRunBound (s.rg R.ctxCfgPartition c) < bound) then
    (s, some (Done.plain stRunBound))
  else
    let first_ := !(s.waiting.any (fun x => x.ctx == c))
    let s := s.raiseVtime c
    let s := if first_ then s.setCtx c { s.ctx c with ageFrom := s.beat } else s
    let s := s.rset R.partCtxStateWaiting c 1
    ({ s with waiting := s.waiting ++ [⟨c, p.ring, p.slot, bits w 256 48, first, count, bound, s.beat⟩] }, none)

/-- Whether a dispatched WEAVE_RUN has become a waiting or running weave. -/
def State.weaveJoined (s : State) (ctx ring slot : Nat) : Bool :=
  s.waiting.any (fun w => w.ctx == ctx && w.ring == ring && w.slot == slot) ||
    s.weaves.any (fun w => w.ctx == ctx && w.ring == ring && w.slot == slot && !w.launch)

/-- Whether a WEAVE_RUN of a context that was dispatched earlier has yet to become a waiting weave (R173). -/
def State.weaveAhead (s : State) (ctx ring slot : Nat) : Bool :=
  ((s.ctx ctx).jobs.takeWhile (fun j => !(j.at_ ring slot))).any (fun j =>
    pkOp j.pkt.words == 0x20 && j.fin.isNone && !(s.weaveJoined ctx j.pkt.ring j.pkt.slot))

/-- WEAVE_RUN: checks its Stakes and run bound and becomes a waiting weave, in order of dispatch (R171, R173). -/
def execWeaveRun (ctx ring slot : Nat) (s : State) : Host.Outcome State Fault Refusal :=
  match s.running ctx ring slot 0x20 with
  | none => .next s
  | some p =>
    if s.weaveJoined ctx ring slot || s.weaveAhead ctx ring slot then .next s
    else
      let r := s.weaveRun ctx p
      match r.2 with
      | some d => .next (r.1.finish ctx ring slot d)
      | none => .next r.1

/-- Age of a context in Rounds (R180). -/
def State.age (s : State) (c : Nat) : Nat :=
  if s.waiting.any (fun w => w.ctx == c) then s.beat - (s.ctx c).ageFrom else 0

/-- CONTEXT_URGENT: a context's age reaches the urgency of its partition (R180). -/
def execContextUrgent (ctx : Nat) (s : State) : Host.Outcome State Fault Refusal :=
  let p := s.rg R.ctxCfgPartition ctx
  if ctx ≠ 0 ∧ s.waiting.any (fun w => w.ctx == ctx) ∧ s.rg R.partCfgUrgency p ≤ s.age ctx ∧
      ¬ s.rb R.partCtxStateUrgent ctx then
    .next ((s.rset R.partCtxStateUrgent ctx 1).radd R.partStatusUrgent p 1)
  else .next s

/-- OVER_BOUND: a weave has not freed its Stakes at boundary t + b.  One of context 0, which belongs to no partition,
counts in no PART_OVERRUNS (R172, R179). -/
def execOverBound (id : Nat) (s : State) : Host.Outcome State Fault Refusal :=
  match s.weaves.find? (fun w => w.id == id) with
  | none => .next s
  | some w =>
    if w.overBound ∨ s.beat < w.start + w.bound then .next s
    else
      let s := { s with weaves := s.weaves.map (fun (x : Weave) => if x.id = id then { x with overBound := true } else x) }
      let s := s.rset R.partCtxStateOverBound w.ctx 1
      .next (if w.ctx = 0 then s else s.radd R.partOverrunsCount w.part 1)

/-- Start the head weave of a context (R173, R180). -/
def State.startHead (s : State) (h : WaitWeave) : State :=
  let part := s.rg R.ctxCfgPartition h.ctx
  let s := { s with waiting := s.waiting.filter (fun x =>
      !(x.ctx == h.ctx && x.ring == h.ring && x.slot == h.slot)) }
  let s := if s.rb R.partCtxStateUrgent h.ctx then
    (s.rset R.partCtxStateUrgent h.ctx 0).rset R.partStatusUrgent part (s.rg R.partStatusUrgent part - 1) else s
  let s := if s.waiting.any (fun x => x.ctx == h.ctx) then s else s.rset R.partCtxStateWaiting h.ctx 0
  s.startWeave ⟨0, h.ctx, part, h.ring, h.slot, h.image, h.first, h.count, h.bound, 0, false, 0, 0, 0, 0xFFFF,
    none, false, false, false, [], none⟩

/-- Head weaves: the oldest waiting weave of each context (R173). -/
def headsOf : List WaitWeave → List WaitWeave → List WaitWeave
  | [], acc => acc
  | w :: ws, acc => headsOf ws (if acc.any (fun x => x.ctx == w.ctx) then acc else acc ++ [w])

/-- Insert by a key, keeping equal keys in order. -/
def insertBy {α : Type} (k : α → Nat) (x : α) : List α → List α
  | [] => [x]
  | y :: ys => if k x ≤ k y then x :: y :: ys else y :: insertBy k x ys

/-- Sort by a key, keeping equal keys in order. -/
def sortBy {α : Type} (k : α → Nat) : List α → List α
  | [] => []
  | x :: xs => insertBy k x (sortBy k xs)

/-- Whether a context is urgent at a dispatch point: its age has reached the urgency of its partition (R180). -/
def State.isUrgent (s : State) (c : Nat) : Bool :=
  s.rb R.partCtxStateUrgent c || decide (s.rg R.partCfgUrgency (s.rg R.ctxCfgPartition c) ≤ s.age c)

/-- Candidates of a partition's dispatch point in the order of R174. -/
def State.candidates (s : State) (p : Nat) : List WaitWeave :=
  let hs := sortBy (fun w => w.ctx)
    ((headsOf s.waiting []).filter (fun w => w.ctx != 0 && s.rg R.ctxCfgPartition w.ctx == p))
  let urgent := hs.filter (fun w => s.isUrgent w.ctx)
  let other := hs.filter (fun w => !s.isUrgent w.ctx)
  sortBy (fun w => 2 ^ 64 - s.age w.ctx) urgent ++ sortBy (fun w => s.rg R.partCtxVtimeVtime w.ctx) other

/-- Whether an occurrence of an entry due at base + k × C, k at most an optional last, falls in Rounds
t to t + b − 1 (R82, R175). -/
def occursIn (base C : Nat) (last : Option Nat) (t b : Nat) : Bool :=
  let k := if t ≤ base then 0 else cdiv (t - base) C
  decide (base + k * C < t + b) && (match last with | none => true | some l => decide (k ≤ l))

/-- The last occurrence of the armed or running table, when it has one (R84). -/
def State.lastOccurrence (s : State) : Option Nat :=
  match s.wtab.lastOcc with
  | some k => some k
  | none => if s.wtab.armN = 0 then none else some (s.wtab.armN - 1)

/-- stake_first of a WEAVE_LAUNCH entry. -/
def weFirst (e : Nat) : Nat := bits e 128 11
/-- stake_count of a WEAVE_LAUNCH entry. -/
def weCount (e : Nat) : Nat := bits e 144 11

/-- Whether a WEAVE_LAUNCH entry keeps a candidate off some Stakes (R175). -/
def State.launchBlocks (s : State) (first count t b : Nat) : Bool :=
  s.wtab.waiting.any (fun e => weKind e.words == 1 && rangesMeet (weFirst e.words) (weCount e.words) first count) ||
  (s.tableOn && s.wtab.table.any (fun e => weKind e == 1 && rangesMeet (weFirst e) (weCount e) first count &&
    occursIn (s.wtab.armS + weOffset e) s.wtab.armC s.lastOccurrence t b))

/-- One pass over a partition's candidates at a dispatch point, with the ranges reserved by urgent
candidates ahead (R175, R181). -/
def dispatchLoop : List WaitWeave → List (Nat × Nat) → State → State
  | [], _, s => s
  | w :: ws, res, s =>
    let ok := s.rangeFree w.first w.count && !(res.any (fun r => rangesMeet r.1 r.2 w.first w.count)) &&
      !(s.launchBlocks w.first w.count s.round w.bound)
    if ok then dispatchLoop ws res (s.startHead w)
    else
      let res := if s.isUrgent w.ctx then res ++ [(w.first, w.count)] else res
      dispatchLoop ws res s

/-- The dispatch point of every partition's head weaves and of context 0 (R172, R174). -/
def State.dispatchHeads (s : State) : State :=
  let s := (below 64).foldl (fun s p => dispatchLoop (s.candidates p) [] s) s
  match (headsOf s.waiting []).find? (fun w => w.ctx == 0) with
  | none => s
  | some w => if s.rangeFree w.first w.count then s.startHead w else s

/-! ### Running streams (R229 to R236) -/

/-- The weave that a Stake runs. -/
def State.weaveOf (s : State) (st : Nat) : Option Weave :=
  match smGet s.stakes st with
  | none => none
  | some x => s.weaves.find? (fun w => w.id == x.weave)

/-- Replace a weave. -/
def State.setWeave (s : State) (w : Weave) : State :=
  { s with weaves := s.weaves.map (fun x => if x.id = w.id then w else x) }

/-- Stop a weave with a status, the Stake and info (R221, R222); the first stop stands. -/
def State.stopWeave (s : State) (w : Weave) (st stake info : Nat) : State :=
  if w.stop.isSome then s else s.setWeave { w with stop := some (st, stake, info) }

/-- Replace what a Stake holds. -/
def State.setStake (s : State) (st : Nat) (x : StakeSt) : State := { s with stakes := smSet s.stakes st x }

/-- The requester that a Stake is for a weave. -/
def stakeRq (w : Weave) (st : Nat) : Rq := ⟨w.ctx, 18 + st⟩

/-- Whether two descriptors name a common accumulator tile (R230). -/
def tilesMeet (a b : Nat) : Bool := (dTiles a).any (fun t => (dTiles b).contains t)

/-- Whether a dispatched descriptor may start: no earlier one that has not completed names its tiles, and none of its
queue waits ahead of it (R229, R230). -/
def StakeSt.clear (x : StakeSt) (idx w : Nat) : Bool :=
  !(x.started.any (fun d => decide (d.idx < idx) && tilesMeet d.words w)) &&
  !(x.queued.any (fun q => decide (q.1 < idx) && (tilesMeet q.2 w || sameQueue (dOp q.2) (dOp w))))

/-- What the dispatched descriptors that wait will take from a credit counter as they start (R231). -/
def StakeSt.promised (x : StakeSt) (k : Nat) : Nat :=
  ((x.queued.filter (fun q => dWaitCredit q.2 == k)).map (fun q => dWaitCount q.2)).sum

/-- Whether the next descriptor of a stream may be dispatched: its barrier and its wait hold it back no longer (R223,
R229, R231). -/
def State.mayDispatch (s : State) (st : Nat) (x : StakeSt) (w : Nat) : Bool :=
  (!dBarrier w || (x.started.isEmpty && x.queued.isEmpty)) &&
  (dWaitCount w == 0 || decide (dWaitCount w + x.promised (dWaitCredit w) ≤ s.credit st (dWaitCredit w)))

/-- A descriptor starts: it consumes its credit and resolves its functions (R231, R344). -/
def State.startDesc (s : State) (stake : Nat) (x : StakeSt) (idx w : Nat) : State :=
  let s := if dWaitCount w = 0 then s else
    s.setCredit stake (dWaitCredit w) (s.credit stake (dWaitCredit w) - dWaitCount w)
  (s.setStake stake { x with started := x.started ++ [⟨idx, w, s.resolve stake w, none⟩] }).refreshSlots stake

/-- A started descriptor of a Stake. -/
def StakeSt.desc (x : StakeSt) (idx : Nat) : Option DescRun := x.started.find? (fun d => d.idx == idx)

/-- Record how a descriptor's work ended. -/
def State.descEnd (s : State) (stake idx : Nat) (d : Done) : State :=
  match smGet s.stakes stake with
  | none => s
  | some x => s.setStake stake { x with started := x.started.map (fun y =>
      if y.idx = idx then { y with fin := some d } else y) }

/-- The ways in which a descriptor's work ends: a status with the address concerned, or a malformed
item (R221, R222). -/
def Done.malformed (idx : Nat) : Done := ⟨stWeaveImage, 0, idx⟩

/-- A started descriptor of some op whose work may run: it has not ended, and every earlier descriptor
of its queue has (R229). -/
def State.descReady (s : State) (stake idx op : Nat) : Option (StakeSt × Weave × DescRun) :=
  match smGet s.stakes stake, s.weaveOf stake with
  | some x, some wv =>
    match x.desc idx with
    | some d =>
      if d.fin.isSome ∨ dOp d.words ≠ op ∨
          x.started.any (fun e => decide (e.idx < idx) && e.fin.isNone && sameQueue (dOp e.words) op) then none
      else some (x, wv, d)
    | none => none
  | _, _ => none

/-- Run the work of a started descriptor of some op.  `work` answers the state and how the descriptor
ended.  Work of a WEAVE_RUN waits while a regulator holds its transfers back (R187). -/
def State.runDesc (s : State) (stake idx op : Nat) (work : Weave → DescRun → State × Done) : State :=
  match s.descReady stake idx op with
  | some (_, wv, d) =>
    let r := work wv d
    if !wv.launch && s.regulated r.1 wv.ctx then s else r.1.descEnd stake idx r.2
  | none => s

/-- Whether a status stops the weave (R221). -/
def stopsWeave (st : Nat) : Bool :=
  stClass st == 2 || stClass st == 3 || stClass st == 5 || st == stTableUnbound || st == stWeaveImage

/-- Signal a credit counter; it saturates at 65,535 (R232). -/
def State.signal (s : State) (stake k n : Nat) : State :=
  let v := s.credit stake k + n
  let s := if 65535 < v then s.rset R.stakeStatusCreditOverflow stake 1 else s
  s.setCredit stake k (min v 65535)

/-- The index of the oldest uncompleted descriptor (R244). -/
def StakeSt.oldest (x : StakeSt) : Nat :=
  min ((listMin (x.started.map DescRun.idx ++ x.queued.map Prod.fst)).getD x.next) x.next

end Sys2Proof.Machine
end

