-- ==== Sys2Proof/Machine/Operands.lean ====
section
/-!
DEFINITION. Operand forms: the places that an operand record names, the address generators, and the
reading and writing of elements through them (R223 to R225, R248, R283 to R294).
-/

namespace Sys2Proof.Machine

/-! ### Work that may end with a status -/

/-- A state with a result, or with how the work ended. -/
abbrev Got (α : Type) := State × Except Done α

/-- Continue where the work has not ended. -/
def Got.next {α β : Type} (x : Got α) (f : State → α → Got β) : Got β :=
  match x with
  | (s, .error e) => (s, .error e)
  | (s, .ok a) => f s a

/-- Work through a list in order, until some work ends with a status. -/
def State.each {α β : Type} (s : State) (f : State → α → Got β) : List α → Got (List β)
  | [] => (s, .ok [])
  | x :: xs => Got.next (f s x) (fun s b => Got.next (s.each f xs) (fun s bs => (s, .ok (b :: bs))))

/-- Work that ends as a malformed item (R221); the descriptor's index is filled in by `endOf`. -/
def badItem : Done := ⟨stWeaveImage, 0, 0⟩

/-- A test that makes the work end as a malformed item where it fails. -/
def State.check (s : State) (ok : Bool) : Got Unit := (s, if ok then .ok () else .error badItem)

/-- The status with which work waits for something outside it: the command is not enabled. -/
abbrev stWaits : Nat := 0x10000

/-- The end of a descriptor's work (R222): a malformed item carries the descriptor's index. -/
def endOf {α : Type} (idx : Nat) (x : Got α) : State × Done :=
  match x with
  | (s, .ok _) => (s, Done.plain stOk)
  | (s, .error d) => (s, if d.status = stWeaveImage then Done.malformed idx else d)

/-- Run a descriptor's work; work that waits leaves the state as it was. -/
def State.runWork (s : State) (stake idx op : Nat) (work : Weave → DescRun → Got Unit) : State :=
  s.runDesc stake idx op (fun wv d =>
    let r := endOf idx (work wv d)
    if r.2.status = stWaits then (s, r.2) else r)

/-! ### Places -/

/-- Where an operand lies: space 0 a Tray, 1 memory, 2 the accumulator file (R224). -/
structure Place where
  space : Nat
  stake : Nat
  rq : Rq
  base : Nat
  deriving DecidableEq, Repr

/-- The place that an operand names; space 3 is the Tray of a Stake of the weave (R224). -/
def placeOf (wv : Weave) (stake remote : Nat) (o : Opnd) : Place :=
  match o.space with
  | 0 => ⟨0, stake, stakeRq wv stake, o.addr % 2 ^ 21⟩
  | 1 => ⟨1, stake, stakeRq wv stake, o.addr⟩
  | 2 => ⟨2, stake, stakeRq wv stake, o.addr % 4⟩
  | _ => ⟨0, remote, stakeRq wv stake, o.addr % 2 ^ 21⟩

/-- Whether a Stake belongs to a weave. -/
def inWeave (wv : Weave) (st : Nat) : Bool := decide (wv.first ≤ st ∧ st < wv.first + wv.count)

/-- A byte of the accumulator file, from a tile's first byte on (R208). -/
def State.accByte (s : State) (st tile o : Nat) : Byte :=
  let e := o % 65536 / 4
  BitVec.ofNat 8 (s.acc st (tile + o / 65536) (e / 128) (e % 128) / 256 ^ (o % 4))

/-- Set a byte of the accumulator file. -/
def State.setAccByte (s : State) (st tile o : Nat) (b : Byte) : State :=
  let e := o % 65536 / 4
  let t := tile + o / 65536
  s.setAcc st t (e / 128) (e % 128) (putBits (s.acc st t (e / 128) (e % 128)) (8 * (o % 4)) 8 b.toNat)

/-- Store bytes into the accumulator file. -/
def State.setAccBytes (s : State) (st tile : Nat) : Nat → List Byte → State
  | _, [] => s
  | o, b :: bs => State.setAccBytes (s.setAccByte st tile o b) st tile (o + 1) bs

/-- What an access at an address outside 0 to 2^48 − 1 ends with (R288); the walk gives the same from 2^48 on. -/
def outside (a : Int) : Done := ⟨stXltNotPresent, 0, ofSigned 64 a⟩

/-- Read n bytes at a byte offset of a place (R288). -/
def State.placeRead (s : State) (p : Place) (off : Int) (n : Nat) : Got (List Byte) :=
  let a := (p.base : Int) + off
  match p.space with
  | 0 => if a < 0 ∨ (trayBytes : Int) < a + n then (s, .error badItem) else (s, .ok (s.trayN p.stake a.toNat n))
  | 1 =>
    if a < 0 then (s, .error (outside a))
    else
      let r := s.vread p.rq a.toNat n
      (r.s, if r.st = 0 then .ok r.bs else .error ⟨r.st, 0, a.toNat + r.off⟩)
  | _ =>
    if off < 0 ∨ ((4 - p.base) * 65536 : Nat) < off + n then (s, .error badItem)
    else (s, .ok ((upFrom off.toNat n).map (fun o => s.accByte p.stake p.base o)))

/-- Write bytes at a byte offset of a place (R288). -/
def State.placeWrite (s : State) (p : Place) (off : Int) (bs : List Byte) : Got Unit :=
  let a := (p.base : Int) + off
  match p.space with
  | 0 =>
    if a < 0 ∨ (trayBytes : Int) < a + bs.length then (s, .error badItem)
    else (s.setTrayN p.stake a.toNat bs, .ok ())
  | 1 =>
    if a < 0 then (s, .error (outside a))
    else
      let r := s.vwrite p.rq a.toNat bs
      (r.s, if r.st = 0 then .ok () else .error ⟨r.st, 0, a.toNat + r.off⟩)
  | _ =>
    if off < 0 ∨ ((4 - p.base) * 65536 : Nat) < off + bs.length then (s, .error badItem)
    else (s.setAccBytes p.stake p.base off.toNat bs, .ok ())

/-! ### Elements (R248) -/

/-- A run of elements in consecutive bytes: its first byte, its length, and the bit offset of each
element, the last first. -/
structure ReadRun where
  start : Int
  len : Nat
  offs : List Nat
  deriving DecidableEq, Repr

/-- Split elements of w bits into runs; an absent element is a gap.  The runs are built last first. -/
def readRuns (w : Nat) : List (Option Int) → List (Option ReadRun) → List (Option ReadRun)
  | [], acc => acc
  | none :: es, acc => readRuns w es (none :: acc)
  | some e :: es, acc =>
    let b := e * (w : Int)
    let a := b / 8
    let o := (b % 8).toNat
    let n := (o + w + 7) / 8
    match acc with
    | some r :: rs =>
      if r.start ≤ a ∧ a ≤ r.start + r.len then
        let d := (a - r.start).toNat
        readRuns w es (some { r with len := max r.len (d + n), offs := (8 * d + o) :: r.offs } :: rs)
      else readRuns w es (some ⟨a, n, [o]⟩ :: some r :: rs)
    | rs => readRuns w es (some ⟨a, n, [o]⟩ :: rs)

/-- Read elements of w bits of an array that begins at a place; absent elements are not accessed
(R248, R292). -/
def State.gather (s : State) (p : Place) (w : Nat) (es : List (Option Int)) : Got (List (Option Nat)) :=
  Got.next (s.each (fun s r => match r with
    | none => (s, .ok [none])
    | some r => Got.next (s.placeRead p r.start r.len) (fun s bs =>
        let v := leNat bs
        (s, .ok (r.offs.reverse.map (fun o => some (bits v o w)))))) (readRuns w es []).reverse)
    (fun s l => (s, .ok l.flatten))

/-- A run of bytes to write: its first byte, and value and mask of each byte, the last first. -/
structure WriteRun where
  start : Int
  len : Nat
  cells : List (Nat × Nat)
  deriving DecidableEq, Repr

/-- Add a byte, under a mask, to the runs, the last run first. -/
def addCell (a : Int) (v m : Nat) : List WriteRun → List WriteRun
  | r :: rs =>
    if a = r.start + r.len then { r with len := r.len + 1, cells := (v, m) :: r.cells } :: rs
    else if a + 1 = r.start + r.len then
      match r.cells with
      | (v0, m0) :: cs =>
        { r with cells := (Nat.lor (Nat.land v0 (255 - m)) (Nat.land v m), Nat.lor m0 m) :: cs } :: rs
      | [] => ⟨a, 1, [(v, m)]⟩ :: r :: rs
    else ⟨a, 1, [(v, m)]⟩ :: r :: rs
  | [] => [⟨a, 1, [(v, m)]⟩]

/-- Add the bytes of an element of w bits at bit offset o of byte a. -/
def addElem (a : Int) (v m : Nat) : Nat → List WriteRun → List WriteRun
  | 0, rs => rs
  | n + 1, rs => addElem (a + 1) (v / 256) (m / 256) n (addCell a (v % 256) (m % 256) rs)

/-- Split writes of elements of w bits into runs, in order. -/
def writeRuns (w : Nat) (l : List (Int × Nat)) : List WriteRun :=
  (l.foldl (fun rs e =>
    let b := e.1 * (w : Int)
    let o := (b % 8).toNat
    addElem (b / 8) (e.2 % 2 ^ w * 2 ^ o) ((2 ^ w - 1) * 2 ^ o) ((o + w + 7) / 8) rs) []).reverse

/-- Write elements of w bits of an array that begins at a place. -/
def State.scatter (s : State) (p : Place) (w : Nat) (l : List (Int × Nat)) : Got Unit :=
  Got.next (s.each (fun s (r : WriteRun) =>
    let cs := r.cells.reverse
    if cs.all (fun c => c.2 == 255) then s.placeWrite p r.start (cs.map (fun c => BitVec.ofNat 8 c.1))
    else Got.next (s.placeRead p r.start r.len) (fun s old =>
      s.placeWrite p r.start ((old.zip cs).map (fun x =>
        BitVec.ofNat 8 (Nat.lor (Nat.land x.1.toNat (255 - x.2.2)) (Nat.land x.2.1 x.2.2))))))
    (writeRuns w l)) (fun s _ => (s, .ok ()))

/-! ### Address generators (R283 to R289) -/

/-- A dimension of an address-generator record (R284). -/
structure AgDim where
  pitch : Int
  bound : Nat
  stride : Nat
  dilation : Nat
  pad : Nat
  deriving DecidableEq, Repr

/-- An address-generator record (R283). -/
structure Agen where
  origin : Int
  dims : List AgDim
  deriving DecidableEq, Repr

/-- A record as its fields (R283, R284). -/
def agenFields (r : Nat) : Agen :=
  ⟨toSigned 48 r, (below (bits r 48 2 + 1)).map (fun n =>
    ⟨toSigned 32 (bits r (96 * n + 128) 32), bits r (96 * n + 160) 24, bits r (96 * n + 184) 8,
     bits r (96 * n + 192) 8, bits r (96 * n + 200) 8⟩)⟩

/-- Entry 0: a dense, row-major walk (R216, R287). -/
def agenDense (inner outer : Nat) : Agen := ⟨0, [⟨1, inner, 1, 1, 0⟩, ⟨inner, outer, 1, 1, 0⟩]⟩

/-- The record that an operand selects (R215). -/
def agenOf (wv : Weave) (o : Opnd) (inner outer : Nat) : Agen :=
  if o.agen = 0 then agenDense inner outer
  else match wv.agens[o.agen - 1]? with
    | some r => agenFields r
    | none => agenDense inner outer

/-- The sum over the dimensions of coordinate × pitch, and whether every coordinate is in bounds. -/
def agenSum : List AgDim → List Nat → List Nat → Int × Bool
  | [], _, _ => (0, true)
  | d :: ds, u, w =>
    let c := ((u.headD 0 * d.stride + w.headD 0 * d.dilation : Nat) : Int) - d.pad
    let r := agenSum ds u.tail w.tail
    (c * d.pitch + r.1, decide (0 ≤ c ∧ c < d.bound) && r.2)

/-- The element offset for an index and taps, or none out of bounds (R285). -/
def Agen.offset (g : Agen) (u w : List Nat) : Option Int :=
  let r := agenSum g.dims u w
  if r.2 then some (g.origin + r.1) else none

/-- A position of a packed operand: the image element, or none out of bounds (R458, R459). -/
def Agen.packed (g : Agen) (u : List Nat) (n : Nat) : Option Int :=
  let r := agenSum (g.dims.map (fun d => { d with stride := 1, dilation := 1, pad := 0 })) u []
  if r.2 then some (g.origin + n) else none

/-! ### Rows of an array in a place -/

/-- Read n elements of w bits from a byte offset of a Tray, as raw codes (R209). -/
def State.trayElems (s : State) (stake off w n : Nat) : Got (List Nat) :=
  Got.next (s.gather ⟨0, stake, ⟨0, 0⟩, off⟩ w ((below n).map (fun i => some (i : Int)))) (fun s l =>
    (s, .ok (l.map (fun x => x.getD 0))))

end Sys2Proof.Machine
end

