-- ==== Sys2Proof/Machine/Plait.lean ====
section
/-!
DEFINITION. Plait: prefix codes, blocks, packed tensors, table slots, expanding and packing (R424 to
R449, R455 to R462), and the packets and descriptors that use them alone.
-/

namespace Sys2Proof.Machine

/-! ### Prefix codes (R435 to R440) -/

/-- The 256 code lengths of a table of 128 bytes, given as a number (R435). -/
def plaitLens (t : Nat) : List Nat := (below 256).map (fun s => bits t (4 * s) 4)

/-- How many symbols have a length. -/
def lenCount (lens : List Nat) (l : Nat) : Nat := (lens.filter (fun x => x == l)).length

/-- Whether a table is valid under a cap (R438). -/
def lensValid (cap : Nat) (lens : List Nat) : Bool :=
  lens.all (fun l => decide (l ≤ cap)) && lens.any (fun l => l != 0) &&
  decide (((lens.filter (fun l => l != 0)).map (fun l => 2 ^ (cap - l))).sum ≤ 2 ^ cap)

/-- A length of a canonical code: its first codeword and its symbols, rising (R436). -/
abbrev CodeLen := Nat × List Nat

/-- The codewords by length, from length l on, n of them; `code` is the first of length l − 1 and
`cnt` the number of that length. -/
def codeLens (lens : List Nat) : Nat → Nat → Nat → Nat → List CodeLen
  | 0, _, _, _ => []
  | n + 1, l, code, cnt =>
    let c := (code + cnt) * 2
    let syms := (below 256).filter (fun s => (lens[s]?).getD 0 == l)
    (c, syms) :: codeLens lens n (l + 1) c syms.length

/-- The canonical code of a table (R436). -/
def codeOf (cap : Nat) (lens : List Nat) : List CodeLen := codeLens lens cap 1 0 0

/-- Decode one symbol from a stream of bits, longer codewords in turn. -/
def decodeSym : List CodeLen → Nat → List Bool → Option (Nat × List Bool)
  | [], _, _ => none
  | _, _, [] => none
  | (first, syms) :: ls, code, b :: bs =>
    let c := code * 2 + b2n b
    match if first ≤ c then syms[c - first]? else none with
    | some s => some (s, bs)
    | none => decodeSym ls c bs

/-- Decode one symbol with each code of a list in turn. -/
def decodeSyms : List (List CodeLen) → List Bool → Option (List Nat × List Bool)
  | [], bs => some ([], bs)
  | c :: cs, bs =>
    match decodeSym c 0 bs with
    | none => none
    | some (x, bs) => match decodeSyms cs bs with
      | none => none
      | some (l, bs) => some (x :: l, bs)

/-- The bits of a byte string, each byte from bit 0 upward (R437). -/
def bitsOf (l : List Byte) : List Bool := l.flatMap (fun b => (below 8).map (fun i => bit b.toNat i))

/-- Decode a stream that holds one symbol of each code of a list, and then only padding (R439). -/
def decodeStream (codes : List (List CodeLen)) (l : List Byte) : Option (List Nat) :=
  match decodeSyms codes (bitsOf l) with
  | some (x, rest) => if rest.length < 8 ∧ rest.all (fun b => !b) then some x else none
  | none => none

/-- The codeword of a symbol: its bits, the most significant first (R436, R437). -/
def codeword (lens : List Nat) (code : List CodeLen) (s : Nat) : List Bool :=
  let l := (lens[s]?).getD 0
  match code[l - 1]? with
  | some (first, syms) =>
    let c := first + (syms.takeWhile (fun x => x != s)).length
    (below l).map (fun i => bit c (l - 1 - i))
  | none => []

/-- Bits as bytes, filled from bit 0 upward, the last padded with zeros (R437). -/
def packBits (l : List Bool) : List Byte :=
  (pieces 8 l).map (fun g => BitVec.ofNat 8 (g.foldr (fun b n => b2n b + 2 * n) 0))

/-- A node of the construction of R440: weight, order, and the leaves below it with their depths. -/
structure HNode where
  weight : Nat
  order : Nat
  leaves : List (Nat × Nat)
  deriving DecidableEq, Repr

/-- Whether a node comes before another (R440). -/
def HNode.before (a b : HNode) : Bool :=
  decide (a.weight < b.weight ∨ (a.weight = b.weight ∧ a.order < b.order))

/-- The first node of a list and the others. -/
def firstNode : List HNode → Option (HNode × List HNode)
  | [] => none
  | x :: xs => match firstNode xs with
    | none => some (x, [])
    | some (y, ys) => if x.before y then some (x, xs) else some (y, x :: ys)

/-- Join nodes until one is left (R440). -/
def joinNodes : Nat → Nat → List HNode → List HNode
  | 0, _, l => l
  | n + 1, k, l =>
    match firstNode l with
    | none => l
    | some (a, l1) => match firstNode l1 with
      | none => l
      | some (b, l2) =>
        joinNodes n (k + 1) (⟨a.weight + b.weight, 256 + k, (a.leaves ++ b.leaves).map (fun x => (x.1, x.2 + 1))⟩ :: l2)

/-- The code lengths for symbol counts under a cap (R440); the fuel bounds the repetitions. -/
def buildLens (cap : Nat) : Nat → List Nat → List Nat
  | 0, _ => (below 256).map (fun _ => 8)
  | n + 1, f =>
    let nodes := ((below 256).filter (fun s => (f[s]?).getD 0 != 0)).map (fun s => HNode.mk ((f[s]?).getD 0) s [(s, 0)])
    let leaves := (joinNodes 255 0 nodes).flatMap HNode.leaves
    let lens := (below 256).map (fun s => (((leaves.find? (fun x => x.1 == s)).map Prod.snd).getD 0))
    if lens.all (fun l => decide (l ≤ cap)) then lens
    else buildLens cap n (f.map (fun x => if x = 0 then 0 else 1 + x / 2))

/-- The lengths of a table as 128 bytes (R435). -/
def lensBytes (lens : List Nat) : List Byte :=
  (pieces 2 lens).map (fun p => BitVec.ofNat 8 (p.headD 0 + 16 * (p.tail.headD 0)))

/-- Add the bytes of a plane to symbol counts, which saturate (R441). -/
def countSyms (f : List Nat) (l : List Byte) : List Nat :=
  (below 256).map (fun s => min (2 ^ 32 - 1) ((f[s]?).getD 0 + (l.filter (fun b => b.toNat == s)).length))

/-! ### Planes (R428, R429) -/

/-- Plane width of a format (R428). -/
def planeWidth (fmt : Nat) : Nat :=
  if fmt = 0x00 ∨ fmt = 0x10 ∨ fmt = 0x13 then 4 else if fmt = 0x01 ∨ fmt = 0x02 then 2 else 1

/-- The planes of a block's image bytes (R428). -/
def planesOf (w : Nat) (img : List Byte) : List (List Byte) :=
  let els := pieces w img
  (below w).map (fun q => els.map (fun e => (e[w - 1 - q]?).getD 0))

/-- The image bytes of a block from its planes (R428). -/
def imageOf (w : Nat) (planes : List (List Byte)) : List Byte :=
  (below (4096 / w)).flatMap (fun i =>
    (below w).map (fun k => (((planes[w - 1 - k]?).getD [])[i]?).getD 0))

/-! ### Block headers (R430) -/

/-- ehrisk. -/
def bhEhrisk (h : Nat) : Bool := bit h 2
/-- shared. -/
def bhShared (h : Nat) : Bool := bit h 3
/-- Mode of plane q. -/
def bhMode (h q : Nat) : Nat := bits h (64 + 2 * q) 2
/-- const of plane q. -/
def bhConst (h q : Nat) : Nat := bits h (72 + 8 * q) 8
/-- sub_len of sub-stream s. -/
def bhSub (h s : Nat) : Nat := bits h (112 + 9 * s) 9

/-- The named fields of a block header. -/
def bhFields : List (Nat × Nat) :=
  [(0, 2), (2, 1), (3, 1), (4, 4), (8, 16), (24, 7), (32, 32), (64, 8), (72, 32), (112, 144), (256, 13)]

/-- Planes of a block with a mode. -/
def planesIn (h w m : Nat) : List Nat := (below w).filter (fun q => bhMode h q == m)

/-- Bytes of the payload of a coded block: inline tables and streams (R432, R434). -/
def payloadLen (h w : Nat) : Nat :=
  (if bhShared h then 0 else 128 * (planesIn h w 1).length) +
  (if bhEhrisk h then (planesIn h w 0).length * (4096 / w) + bits h 256 13
   else ((below 16).map (bhSub h)).sum)

/-- Whether a coded block's header is malformed (R430, R432 to R434). -/
def codedMalformed (h w : Nat) : Bool :=
  clearFields h bhFields != 0 ||
  bits h 24 7 != 1 + (payloadLen h w + 63) / 64 || decide (64 < bits h 24 7) ||
  (below 4).any (fun q => bhMode h q == 3 || (decide (w ≤ q) && (bhMode h q != 0 || bhConst h q != 0))) ||
  (if bhEhrisk h then bits h 112 144 != 0
   else bits h 256 13 != 0 || (below 16).any (fun s =>
    match bhMode h (s / (16 / w)) with
    | 0 => bhSub h s != 256
    | 1 => decide (bhSub h s < 32 ∨ 352 < bhSub h s)
    | _ => bhSub h s != 0))

/-- Whether a block's header is malformed (R430 to R434). -/
def blockBad (w h : Nat) : Bool :=
  if bits h 0 2 = 0 then bits h 24 7 != 65 || clearFields h [(0, 2), (24, 7), (32, 32)] != 0
  else bits h 0 2 != 1 || codedMalformed h w

/-- Cut a list into runs of given lengths. -/
def cuts {α : Type} : List Nat → List α → List (List α)
  | [], _ => []
  | n :: ns, l => l.take n :: cuts ns (l.drop n)

/-- The sub-streams of a plane, decoded in turn (R429, R433). -/
def decodePlane (h w q : Nat) (code : List CodeLen) (subs : List (List Byte)) : Option (List Byte) :=
  let mine := (subs.drop (q * (16 / w))).take (16 / w)
  match bhMode h q with
  | 0 => some mine.flatten
  | 1 =>
    mine.foldr (fun l acc => match acc, decodeStream ((below 256).map (fun _ => code)) l with
      | some r, some x => some (x.map (BitVec.ofNat 8) ++ r)
      | _, _ => none) (some [])
  | _ => some ((below (4096 / w)).map (fun _ => BitVec.ofNat 8 (bhConst h q)))

/-- All of a list of options, or none. -/
def allSome {α : Type} : List (Option α) → Option (List α)
  | [] => some []
  | none :: _ => none
  | some x :: xs => match allSome xs with
    | none => none
    | some l => some (x :: l)

/-- The image bytes of a block of plane width w, from its header and payload and, where it is shared,
the table object (R431 to R439); none where the block is malformed. -/
def blockImage (w h : Nat) (payload : List Byte) (tab : Nat) : Option (List Byte) :=
  if blockBad w h then none
  else if bits h 0 2 = 0 then some (payload.take 4096)
  else
    let cap := if bhEhrisk h then 15 else 11
    let coded := planesIn h w 1
    let nt := if bhShared h then 0 else coded.length
    let inl := cuts ((below nt).map (fun _ => 128)) payload
    let rest := payload.drop (128 * nt)
    let lens := (below w).map (fun q =>
      if bhShared h then plaitLens (bits tab (512 + 1024 * q) 1024)
      else plaitLens (leNat ((inl[(coded.takeWhile (fun x => x != q)).length]?).getD [])))
    let lensOf := fun q => (lens[q]?).getD []
    if ¬ coded.all (fun q => lensValid cap (lensOf q)) then none
    else
      let codes := lens.map (codeOf cap)
      let codeQ := fun q => (codes[q]?).getD []
      if ¬ bhEhrisk h then
        let subs := cuts ((below 16).map (bhSub h)) rest
        match allSome ((below w).map (fun q => decodePlane h w q (codeQ q) subs)) with
        | none => none
        | some ps => some (imageOf w ps)
      else
        let n := 4096 / w
        let raws := planesIn h w 0
        let rawB := cuts (raws.map (fun _ => n)) rest
        let stream := (rest.drop (n * raws.length)).take (bits h 256 13)
        match decodeStream (coded.flatMap (fun q => (below n).map (fun _ => codeQ q))) stream with
        | none => none
        | some x =>
          let xs := pieces n (x.map (BitVec.ofNat 8))
          some (imageOf w ((below w).map (fun q => match bhMode h q with
            | 0 => (rawB[(raws.takeWhile (fun y => y != q)).length]?).getD []
            | 1 => (xs[(coded.takeWhile (fun y => y != q)).length]?).getD []
            | _ => (below n).map (fun _ => BitVec.ofNat 8 (bhConst h q)))))

/-! ### Table objects and slots (R444 to R449) -/

/-- Whether a table object is malformed (R444). -/
def tableMalformed (t : Nat) : Bool :=
  let n := bits t 56 2 + 1
  let cap := if bit t 58 then 15 else 11
  bits t 0 32 != 0x42544C50 || bits t 32 8 != 1 ||
  clearFields (bits t 0 512) [(0, 32), (32, 8), (40, 16), (56, 2), (58, 1)] != 0 ||
  (below 4).any (fun q =>
    if q < n then !(lensValid cap (plaitLens (bits t (512 + 1024 * q) 1024)))
    else bits t (512 + 1024 * q) 1024 != 0)

/-- First slot number of a Coil's slot set. -/
def coilSet (c : Nat) : Nat := 16 * c
/-- First slot number of a Border die's slot set. -/
def borderSet (b : Nat) : Nat := 256 + 16 * b

/-- The six fields of a slot's register: generation, loaded, closed, ehrisk, planes, queued, and its
element (R471). -/
def slotFlds (k : Nat) : Fld × Fld × Fld × Fld × Fld × Nat :=
  if k < 256 then
    (R.plaitCslotGeneration, R.plaitCslotLoaded, R.plaitCslotClosed, R.plaitCslotEhrisk, R.plaitCslotPlanes, k)
  else
    (R.plaitBslotGeneration, R.plaitBslotLoaded, R.plaitBslotClosed, R.plaitBslotEhrisk, R.plaitBslotPlanes, k - 256)

/-- Generation held in a slot. -/
def State.slotGen (s : State) (k : Nat) : Nat := s.rg (slotFlds k).1 (slotFlds k).2.2.2.2.2
/-- Whether a slot holds a table. -/
def State.slotLoaded (s : State) (k : Nat) : Bool := s.rb (slotFlds k).2.1 (slotFlds k).2.2.2.2.2
/-- Whether a load closes a slot. -/
def State.slotClosed (s : State) (k : Nat) : Bool := s.rb (slotFlds k).2.2.1 (slotFlds k).2.2.2.2.2

/-- Set or clear a slot's closed bit. -/
def State.setClosed (s : State) (k : Nat) (b : Bool) : State :=
  s.rset (slotFlds k).2.2.1 (slotFlds k).2.2.2.2.2 (b2n b)

/-- Write a table object into a slot (R445, R448). -/
def State.writeSlot (s : State) (k t : Nat) : State :=
  let f := slotFlds k
  let i := f.2.2.2.2.2
  let s := { s with plait := { s.plait with tables := smSet s.plait.tables k t } }
  let s := (s.rset f.1 i (bits t 40 16)).rset f.2.1 i 1
  (s.rset f.2.2.2.1 i (bits t 58 1)).rset f.2.2.2.2.1 i (bits t 56 2)

/-- Empty a slot: its fields return to their reset values (R449, R471). -/
def State.emptySlot (s : State) (k : Nat) : State :=
  let f := slotFlds k
  let i := f.2.2.2.2.2
  let s := { s with plait := { s.plait with tables := smErase s.plait.tables k } }
  ((((s.rset f.1 i 0).rset f.2.1 i 0).rset f.2.2.2.1 i 0).rset f.2.2.2.2.1 i 0).setClosed k false

/-- Whether a context may use a slot of a slot set (R446). -/
def State.maySlot (s : State) (ctx set i : Nat) : Bool :=
  if set < 256 then s.mayCslot ctx (set / 16) i else s.mayBslot ctx i

/-- The table of a shared block, as R446 checks it: the object, or how the expansion ends. -/
def State.sharedTable (s : State) (ctx set w h : Nat) : Got Nat :=
  let i := bits h 4 4
  let k := set + i
  let gen := bits h 8 16
  let coming := (s.plait.loads.find? (fun l => l.left.contains k)).map (fun l => bits l.table 40 16)
  if s.slotClosed k ∧ coming = some gen ∧ s.slotGen k ≠ gen then (s, .error (Done.plain stWaits))
  else if ¬ s.slotLoaded k ∨ ¬ s.maySlot ctx set i then
    (s.radd R.plaitNoTableCount 0 1, .error (Done.plain stPlaitNoTable))
  else if s.slotGen k ≠ gen ∨ s.slotClosed k then
    (s.radd R.plaitStaleCount 0 1, .error (Done.plain stPlaitStaleTable))
  else
    let t := smGetD s.plait.tables k 0
    if bit t 58 ≠ bhEhrisk h ∨ bits t 56 2 + 1 < w then (s, .error (Done.plain stPlaitMalformed))
    else (s, .ok t)

/-- Expand one block: its header and payload bytes, for a context at a slot set.  A RAW block too is subject to R446
where it says shared (R443, R446, R456, R457). -/
def State.expandBytes (s : State) (ctx set w : Nat) (blk : List Byte) : Got (List Byte) :=
  let h := leNat (blk.take 64)
  let t := if bits h 0 2 ≤ 1 ∧ bhShared h then s.sharedTable ctx set w h else (s, .ok 0)
  Got.next t (fun s t =>
    match blockImage w h (blk.drop 64) t with
    | none => (s, .error (Done.plain stPlaitMalformed))
    | some img =>
      let s := if bits h 0 2 = 1 ∧ bhEhrisk h then s.radd R.plaitEhriskBlocksCount 0 1 else s
      if crc32c img ≠ bits h 32 32 then
        (s.radd R.plaitCrcErrorsCount 0 1, .error (Done.plain stPlaitCrc))
      else (s, .ok img))

/-! ### Packed tensors (R424 to R427) -/

/-- blocks. -/
def ihBlocks (h : Nat) : Nat := bits h 64 19
/-- image_bytes. -/
def ihBytes (h : Nat) : Nat := bits h 96 31
/-- fmt. -/
def ihFmt (h : Nat) : Nat := bits h 40 8

/-- Whether an index header is malformed (R425, R427). -/
def indexMalformed (h : Nat) : Bool :=
  clearFields h [(0, 32), (32, 8), (40, 8), (48, 1), (64, 19), (96, 31), (128, 48)] != 0 ||
  bits h 0 32 != 0x54414C50 || bits h 32 8 != 1 || !(fmtCodes.contains (ihFmt h)) ||
  decide (ihBytes h = 0 ∨ 1073741824 < ihBytes h) || ihBlocks h != (ihBytes h + 4095) / 4096

/-- Offset of the data region for a block count (R424). -/
def dataStart (blocks : Nat) : Nat := (64 + 4 * blocks + 63) / 64 * 64

/-- Read and check the index header of the packed tensor at a place. -/
def State.readIndex (s : State) (p : Place) : Got Nat :=
  Got.next (s.placeRead p 0 64) (fun s bs =>
    let h := leNat bs
    (s, if indexMalformed h then .error (Done.plain stPlaitMalformed) else .ok h))

/-- Read the bytes of block b of a packed tensor and check its entry (R426, R427). -/
def State.readBlock (s : State) (p : Place) (h b : Nat) : Got (List Byte) :=
  Got.next (s.placeRead p (64 + 4 * b : Nat) 4) (fun s bs =>
    let e := leNat bs
    let n := bits e 0 7
    let o := bits e 7 25
    if n = 0 ∨ 65 * ihBlocks h < o + n then (s, .error (Done.plain stPlaitMalformed))
    else Got.next (s.placeRead p (dataStart (ihBlocks h) + 64 * o : Nat) (64 * n)) (fun s blk =>
      if bits (leNat (blk.take 64)) 24 7 ≠ n then (s, .error (Done.plain stPlaitMalformed))
      else (s, .ok blk)))

/-- Expand block b of the packed tensor at a place. -/
def State.expandBlock (s : State) (p : Place) (set h b : Nat) : Got (List Byte) :=
  Got.next (s.readBlock p h b) (fun s blk => s.expandBytes p.rq.ctx set (planeWidth (ihFmt h)) blk)

/-- The numbers of a list in rising order without repeats. -/
def risingSet (l : List Nat) : List Nat := (l.foldl (fun (m : SMap Unit) k => smSet m k ()) []).map Prod.fst

/-- What has been read of a packed operand: its index header, and its blocks expanded so far, each read once. -/
structure PackRd where
  head : Option Nat
  blocks : SMap (List Byte)
  deriving DecidableEq, Repr

/-- Nothing read. -/
def PackRd.empty : PackRd := ⟨none, []⟩

/-- Bits of an image that some expanded blocks hold. -/
def PackRd.elem (c : PackRd) (o w : Nat) : Nat :=
  let byteAt := fun k => ((smGetD c.blocks (k / 4096) [])[k % 4096]?).getD 0
  bits (leNat ((upFrom (o / 8) ((o % 8 + w + 7) / 8)).map byteAt)) (o % 8) w

/-- Expand the blocks of some numbers, those that have been expanded apart. -/
def State.expandBlocks (s : State) (p : Place) (set h : Nat) (c : PackRd) (l : List Nat) : Got PackRd :=
  Got.next (s.each (fun s b => Got.next (s.expandBlock p set h b) (fun s img => (s, .ok (b, img))))
      (l.filter (fun b => (smGet c.blocks b).isNone)))
    (fun s bl => (s, .ok ⟨some h, bl.foldl (fun m x => smSet m x.1 x.2) c.blocks⟩))

/-- Read image elements of w bits of a packed tensor; absent positions are zero and are not read, and where all are
absent no access is made (R292, R459, R460).  A position beyond the image is a malformed item. -/
def State.gatherPacked (s : State) (p : Place) (set w : Nat) (c : PackRd) (es : List (Option Int)) :
    Got (PackRd × List (Option Nat)) :=
  if es.all Option.isNone then (s, .ok (c, es.map (fun _ => none)))
  else
    Got.next (match c.head with
      | some h => (s, .ok h)
      | none => s.readIndex p) (fun s h =>
    let bad := es.any (fun e => match e with
      | none => false
      | some e => decide (e < 0 ∨ (ihBytes h * 8 : Nat) < (e + 1) * w))
    if bad then (s, .error badItem)
    else
      let need := risingSet (es.flatMap (fun e => match e with
        | none => []
        | some e => [e.toNat * w / 32768, (e.toNat * w + w - 1) / 32768]))
      Got.next (s.expandBlocks p set h c need) (fun s c =>
        (s, .ok (c, es.map (fun e => e.map (fun e => c.elem (e.toNat * w) w))))))

/-! ### Packing (R440 to R443) -/

/-- Coded bits of a sub-stream. -/
def subCost (lens : List Nat) (l : List Byte) : Nat :=
  ((l.map (fun b => (lens[b.toNat]?).getD 0)).sum + 7) / 8

/-- A shared table in use: its slot, its generation and its lengths by plane. -/
structure SharedTab where
  slot : Nat
  gen : Nat
  lens : List (List Nat)
  deriving DecidableEq, Repr

/-- The choice for one plane (R442): mode, const, lengths and stored sub-streams. -/
structure PlaneCode where
  mode : Nat
  cst : Nat
  lens : List Nat
  subs : List (List Byte)
  deriving DecidableEq, Repr

/-- Code one plane of a block of plane width w (R441, R442). -/
def packPlane (w q : Nat) (sh : Option SharedTab) (l : List Byte) : PlaneCode :=
  let subs := pieces 256 l
  if l.all (fun b => b == l.headD 0) then ⟨2, (l.headD 0).toNat, [], subs.map (fun _ => [])⟩
  else
    let lens := match sh with
      | some t => (t.lens[q]?).getD []
      | none => buildLens 11 64 (countSyms [] l)
    let cost := (subs.map (subCost lens)).sum + (if sh.isSome then 0 else 128)
    if cost < 4096 / w ∧ l.all (fun b => (lens[b.toNat]?).getD 0 != 0) then
      let code := codeOf 11 lens
      ⟨1, 0, lens, subs.map (fun x => packBits (x.flatMap (fun b => codeword lens code b.toNat)))⟩
    else ⟨0, 0, [], subs⟩

/-- Pad a list of bytes with zeros to a multiple of n. -/
def padTo (n : Nat) (l : List Byte) : List Byte := l ++ (below ((n - l.length % n) % n)).map (fun _ => 0)

/-- Pack the 4,096 image bytes of a block (R442, R443): the block's bytes. -/
def packBlock (w : Nat) (sh : Option SharedTab) (img : List Byte) : List Byte :=
  let ps := ((planesOf w img).zip (below w)).map (fun x => packPlane w x.2 sh x.1)
  let coded := ps.filter (fun p => p.mode == 1)
  let tabs := if sh.isSome then [] else coded.flatMap (fun p => lensBytes p.lens)
  let subs := ps.flatMap PlaneCode.subs
  let payload := tabs ++ subs.flatten
  let crc := crc32c img * 2 ^ 32
  if payload.length ≤ 4032 then
    let body := padTo 64 payload
    let h0 := 1 + (1 + body.length / 64) * 2 ^ 24 + crc
    let h1 := match sh, coded with
      | some t, _ :: _ => 8 + t.slot * 16 + t.gen * 256
      | _, _ => 0
    let h2 := ((ps.zip (below w)).map (fun x => x.1.mode * 2 ^ (64 + 2 * x.2) + x.1.cst * 2 ^ (72 + 8 * x.2))).sum
    let h3 := ((subs.zip (below 16)).map (fun x => x.1.length * 2 ^ (112 + 9 * x.2))).sum
    natLe 64 (h0 + h1 + h2 + h3) ++ body
  else natLe 64 (65 * 2 ^ 24 + crc) ++ img

/-- Count what a packer coded (R470): image bytes, and the block written. -/
def State.notePack (s : State) (n : Nat) (blk : List Byte) : State :=
  let s := (s.radd R.plaitImageInBytes 0 n).radd R.plaitStoredOutBytes 0 blk.length
  if bits (leNat (blk.take 1)) 0 2 = 0 then s.radd R.plaitRawBlocksCount 0 1 else s

/-- The 64 bytes of an index header (R425). -/
def indexHeader (fmt layout n table : Nat) : List Byte :=
  natLe 64 (0x54414C50 + 2 ^ 32 + fmt * 2 ^ 40 + layout * 2 ^ 48 + (n + 4095) / 4096 * 2 ^ 64 + n * 2 ^ 96
    + table * 2 ^ 128)

/-- Write a compact packed tensor block by block: each block's bytes come from `get`, and its index
entry follows it; `at_` counts the sectors written.  Answers the sectors of the data region. -/
def State.writeBlocks (s : State) (dst : Place) (blocks : Nat) (get : State → Nat → Got (List Byte)) :
    List Nat → Nat → Got Nat
  | [], at_ => (s, .ok at_)
  | b :: bs, at_ =>
    Got.next (get s b) (fun s blk =>
      Got.next (s.placeWrite dst (dataStart blocks + 64 * at_ : Nat) blk) (fun s _ =>
        Got.next (s.placeWrite dst (64 + 4 * b : Nat) (natLe 4 (blk.length / 64 + at_ * 128))) (fun s _ =>
          s.writeBlocks dst blocks get bs (at_ + blk.length / 64))))

/-- Write a compact packed tensor: header, padding of the index region, blocks (R424, R426).
Answers its total size in bytes. -/
def State.writeCompact (s : State) (dst : Place) (fmt n table : Nat)
    (get : State → Nat → Got (List Byte)) : Got Nat :=
  let blocks := (n + 4095) / 4096
  let pad := dataStart blocks - (64 + 4 * blocks)
  Got.next (s.placeWrite dst 0 (indexHeader fmt 0 n table)) (fun s _ =>
    Got.next (if pad = 0 then (s, .ok ()) else
        s.placeWrite dst (64 + 4 * blocks : Nat) ((below pad).map (fun _ => 0))) (fun s _ =>
      Got.next (s.writeBlocks dst blocks get (below blocks) 0) (fun s k =>
        (s, .ok (dataStart blocks + 64 * k)))))

/-- Image bytes of block b of a plain source of n bytes, padded with zeros (R424). -/
def State.plainBlock (s : State) (src : Place) (n b : Nat) : Got (List Byte) :=
  Got.next (s.placeRead src (4096 * b : Nat) (min 4096 (n - 4096 * b))) (fun s bs => (s, .ok (padTo 4096 bs)))

/-- Code a plain source into a compact tensor (R464, R466).  Answers its total size. -/
def State.packTensor (s : State) (src dst : Place) (fmt n table : Nat) (sh : Option SharedTab) : Got Nat :=
  let w := planeWidth fmt
  s.writeCompact dst fmt n table (fun s b =>
    Got.next (s.plainBlock src n b) (fun s img =>
      let blk := packBlock w sh img
      (s.notePack (min 4096 (n - 4096 * b)) blk, .ok blk)))

/-- Expand the first n image bytes of a packed tensor into a plain destination (R464, R466).  Earlier
blocks stand where one fails (R457). -/
def State.expandTensor (s : State) (src dst : Place) (set n : Nat) : Got Unit :=
  Got.next (s.readIndex src) (fun s h =>
    if ihBytes h < n then (s, .error (Done.plain stPlaitMalformed))
    else Got.next (s.each (fun s b =>
      Got.next (s.expandBlock src set h b) (fun s img =>
        s.placeWrite dst (4096 * b : Nat) (img.take (min 4096 (n - 4096 * b)))))
      (below ((n + 4095) / 4096))) (fun s _ => (s, .ok ())))

/-! ### pack_out (R461, R462, R296) -/

/-- The image of block b with elements of w bits at their positions, zero elsewhere (R248, R296).  An element of six bits
may lie in two blocks. -/
def packImage (w b : Nat) (l : List (Int × Nat)) : List Byte :=
  let n := (l.filter (fun e => decide (32768 * b < (e.1.toNat + 1) * w ∧ e.1.toNat * w < 32768 * (b + 1)))).foldl
    (fun n e => putBits n (e.1.toNat * w + 8 - 32768 * b) w e.2) 0
  natLe 4096 (n / 256)

/-- Write output elements of w bits, (stream position, value) of the in-bound ones, into the slotted
tensor at a place: each block that holds one is coded with inline tables and written with its entry;
its other positions are zero.  With no element there is no access (R294). -/
def State.packOut (s : State) (dst : Place) (w : Nat) (l : List (Int × Nat)) : Got Unit :=
  if l.isEmpty then (s, .ok ())
  else
    Got.next (s.readIndex dst) (fun s h =>
    if ¬ bit h 48 then (s, .error (Done.plain stPlaitMalformed))
    else if l.any (fun e => decide (e.1 < 0 ∨ (ihBytes h * 8 : Nat) < (e.1 + 1) * w)) then (s, .error badItem)
    else
      let need := risingSet (l.flatMap (fun e => [e.1.toNat * w / 32768, (e.1.toNat * w + w - 1) / 32768]))
      Got.next (s.each (fun s b =>
        let blk := packBlock (planeWidth (ihFmt h)) none (packImage w b l)
        let s := s.notePack 4096 blk
        Got.next (s.placeWrite dst (dataStart (ihBlocks h) + 4160 * b : Nat) blk) (fun s _ =>
          s.placeWrite dst (64 + 4 * b : Nat) (natLe 4 (blk.length / 64 + 65 * b * 128)))) need)
        (fun s _ => (s, .ok ())))

end Sys2Proof.Machine
end

