-- ==== Sys2Proof/Machine/Epilogue.lean ====
section
/-!
DEFINITION. Reading operands as values, and the epilogue: scaling, activation, conversion and writing
of a descriptor's output (R225, R251 to R253, R258 to R273, R291 to R297, R458 to R461).
-/

namespace Sys2Proof.Machine

/-! ### Operand checks and values -/

/-- Whether an operand's scale field is wrong for a format (R224, R251). -/
def scaleBad (fmt : Nat) (o : Opnd) : Bool :=
  if fmt = 0x03 ∨ fmt = 0x04 then badScale o.scale else if isMx fmt then false else o.scale != 0

/-- Whether a packed operand's origin is not a multiple of the elements per block (R459). -/
def originBad (wv : Weave) (fmt : Nat) (packed : Bool) (o : Opnd) : Bool :=
  packed && (agenOf wv o 0 0).origin * (fmtBits fmt : Int) % 32768 != 0

/-- Whether an operand is used and lies in one of some spaces, with a space-3 Stake in the weave
(R224). -/
def opndOk (wv : Weave) (remote : Nat) (spaces : List Nat) (o : Opnd) : Bool :=
  o.used && spaces.contains o.space && (o.space != 3 || inWeave wv remote)

/-- Per-tensor scale of an operand (R251). -/
def tensorScale (fmt : Nat) (o : Opnd) : Num :=
  if fmt = 0x03 ∨ fmt = 0x04 then scaleNum o.scale else Num.ofInt 1

/-- Read the elements of an operand at given positions: each is absent out of bounds (R291, R292).
A packed operand is expanded at a slot set (R458), after what has been read of it. -/
def State.fetchOp (s : State) (p : Place) (packed : Bool) (set fmt : Nat) (c : PackRd) (es : List (Option Int)) :
    Got (PackRd × List (Option Nat)) :=
  if packed then s.gatherPacked p set (fmtBits fmt) c es
  else Got.next (s.gather p (fmtBits fmt) es) (fun s l => (s, .ok (c, l)))

/-- MX block scale bytes of a Stake's Tray at given indexes; absent ones are not read (R253). -/
def State.fetchScales (s : State) (stake off : Nat) (l : List (Option Nat)) : Got (List (Option Nat)) :=
  s.gather ⟨0, stake, ⟨0, 0⟩, off⟩ 8 (l.map (fun x => x.map (fun k => (k : Int))))

/-- The exact values of an operand's elements, scales included (R251, R252): each position comes with the index of its
scale byte. -/
def State.opValues (s : State) (stake fmt : Nat) (p : Place) (o : Opnd) (c : PackRd) (es : List (Option Int × Nat)) :
    Got (PackRd × List (Option Num)) :=
  Got.next (s.fetchOp p o.packed (coilSet (stake / 96)) fmt c (es.map Prod.fst)) (fun s raw =>
    if isMx fmt then
      Got.next (s.fetchScales stake o.scale (es.map (fun x => x.1.map (fun _ => x.2)))) (fun s sc =>
        (s, .ok (raw.1, (raw.2.zip sc).map (fun x => match x.1, x.2 with
          | some v, some e => some ((elemNum fmt v).mul (e8m0 e))
          | _, _ => none))))
    else
      (s, .ok (raw.1, raw.2.map (fun x => x.map (fun v =>
        if fmt = 0x03 ∨ fmt = 0x04 then (elemNum fmt v).mul (tensorScale fmt o) else elemNum fmt v)))))

/-- Values of the positions of an operand, row by row; a packed block is read once. -/
def State.opRows (stake fmt : Nat) (p : Place) (o : Opnd) : State → PackRd → List (List (Option Int × Nat)) →
    Got (PackRd × List (List (Option Num)))
  | s, c, [] => (s, .ok (c, []))
  | s, c, r :: rs =>
    Got.next (s.opValues stake fmt p o c r) (fun s x =>
      Got.next (State.opRows stake fmt p o s x.1 rs) (fun s y => (s, .ok (y.1, x.2 :: y.2))))

/-! ### The epilogue (R225, R266 to R271) -/

/-- An output element: its row, column, the indices its operand takes, and its 32 raw bits. -/
structure OutEl where
  i : Nat
  j : Nat
  u : List Nat
  v : Nat
  deriving DecidableEq, Repr

/-- Whether the epilogue of a descriptor is malformed: operand C, formats, scale and pack_out (R225, R458, R461). -/
def outMalformed (wv : Weave) (remote : Nat) (packOk : Bool) (w : Nat) : Bool :=
  let o := dOpnd w 2
  !(opndOk wv remote [0, 1, 3] o) || !(fmtCodes.contains (dFmtOut w)) || dFmtOut w == 0x13 ||
  badScale (bits w 704 32) || (bit w 656 && !packOk) || o.packed || scaleBad (dFmtOut w) o ||
  originBad wv (dFmtOut w) (bit w 656) o

/-- Steps 1 and 2 of R225 on one element, for the table slot of act where it is used (R266). -/
def State.outWord (s : State) (stake w : Nat) (isInt : Bool) (slot : Option Nat) (v : Nat) : Nat :=
  let x := if isInt then Num.ofInt (toSigned 32 v) else f32 v
  let y := toF32 (x.mul (scaleNum (bits w 704 32)))
  match slot with
  | some k => s.sfuSlotEval stake k y 0
  | none => y

/-- Group consecutive elements with equal keys. -/
def groupRuns {α : Type} (k : α → Nat) : List α → List (List α)
  | [] => []
  | x :: xs => match groupRuns k xs with
    | [] => [[x]]
    | g :: gs => match g with
      | [] => [x] :: gs
      | y :: ys => if k x = k y then (x :: y :: ys) :: gs else [x] :: (y :: ys) :: gs

/-- The slot of act: none where act is 0; the work ends where the function was unbound (R225, R344). -/
def State.actSlot (s : State) (d : DescRun) : Got (Option Nat) :=
  let act := bits d.words 648 8
  if act = 0 then (s, .ok none)
  else match d.binds.find? (fun b => b.1 == act) with
    | some b => (s, .ok (some b.2))
    | none => (s, .error (Done.plain stTableUnbound))

/-- The output code of each element, and the scale byte of each MX block with its index (R267, R268).
Elements come in row-major order with their offset, which is none out of bounds. -/
def outCodes (w seed : Nat) (isInt : Bool) (val : Nat → Nat) (els : List (OutEl × Option Int)) :
    List (Option Int × Nat) × List (Nat × Nat) :=
  let f := dFmtOut w
  let rm := fun (e : OutEl) => rndOf (bits w 640 2) seed (bits w 672 32) (e.i * 128 + e.j)
  let copy := isInt && bits w 704 32 == 0 && bits w 648 8 == 0 && f == 0x10
  if isMx f then
    let G := (dN w + 31) / 32
    let gs := groupRuns (fun (x : OutEl × Option Int) => x.1.i * G + x.1.j / 32) els
    let rs := gs.map (fun g =>
      let m := mxBlock f (g.map (fun x => (if x.2.isSome then f32 (val x.1.v) else Num.zero, rm x.1)))
      let key := match g with
        | x :: _ => x.1.i * G + x.1.j / 32
        | [] => 0
      ((g.zip m.2).map (fun x => (x.1.2, x.2)), if g.any (fun x => x.2.isSome) then [(key, m.1)] else []))
    (rs.flatMap Prod.fst, rs.flatMap Prod.snd)
  else
    (els.map (fun x => (x.2, if copy then x.1.v else elemConv f (rm x.1) (f32 (val x.1.v)))), [])

/-- Present pairs of a list. -/
def present {α : Type} (l : List (Option Int × α)) : List (Int × α) :=
  l.flatMap (fun x => match x.1 with
    | some e => [(e, x.2)]
    | none => [])

/-- Where an output element goes: its offset, or none out of bounds (R291, R461). -/
def outOffset (w : Nat) (g : Agen) (e : OutEl) : Option Int :=
  if bit w 656 then g.packed e.u (e.i * dN w + e.j) else g.offset e.u []

/-- Write output codes through operand C, and the scale bytes of MX blocks (R269, R294, R461). -/
def State.writeOut (s : State) (wv : Weave) (stake remote w : Nat) (c : List (Option Int × Nat) × List (Nat × Nat)) :
    Got Unit :=
  let o := dOpnd w 2
  let p := placeOf wv stake remote o
  let b := fmtBits (dFmtOut w)
  Got.next (if bit w 656 then s.packOut p b (present c.1) else s.scatter p b (present c.1)) (fun s _ =>
    let sp : Place := if o.space = 1 then { p with base := p.base + o.scale } else { p with base := o.scale }
    s.scatter sp 8 (c.2.map (fun x => ((x.1 : Int), x.2))))

/-- The epilogue: convert the output elements, in row-major order, and write the in-bound ones through
operand C (R225).  `inner` and `outer` are the dimensions of its dense walk. -/
def State.output (s : State) (wv : Weave) (stake remote : Nat) (d : DescRun) (isInt : Bool)
    (inner outer : Nat) (els : List OutEl) : Got Unit :=
  let w := d.words
  let g := agenOf wv (dOpnd w 2) inner outer
  Got.next (s.actSlot d) (fun s slot =>
    s.writeOut wv stake remote w (outCodes w (s.rg R.ctxSeedSeed wv.ctx) isInt (s.outWord stake w isInt slot)
      (els.map (fun e => (e, outOffset w g e)))))

/-! ### Accumulation (R258 to R265, R293) -/

/-- The products of two lists of values, in K-groups of 32, absent ones left out (R258, R293). -/
def productGroups (a b : List (Option Num)) : List (List Num) :=
  (pieces 32 (a.zip b)).map (fun g => g.flatMap (fun x => match x.1, x.2 with
    | some p, some q => [p.mul q]
    | _, _ => []))

/-- Add float group values to an accumulator word (R259 to R262). -/
def accFloat (acc : Nat) (gs : List (List Num)) : Nat :=
  gs.foldl (fun a g => if g.isEmpty then a else fadd a (toF32 (Num.sum g))) acc

/-- A finite integer value as an integer. -/
def Num.toInt : Num → Int
  | .fin neg m e => mantAt neg m e 0
  | _ => 0

/-- Add integer group values to an accumulator word, clamping; whether any addition clamped (R264,
R265). -/
def accInt (acc : Nat) (gs : List (List Num)) : Nat × Bool :=
  gs.foldl (fun a g =>
    if g.isEmpty then a
    else
      let x := toSigned 32 a.1 + (Num.sum g).toInt
      let y := max (-2147483648) (min 2147483647 x)
      (ofSigned 32 y, a.2 || decide (x ≠ y))) (acc, false)

/-- Set a tile's saturation flag (R210). -/
def State.setSat (s : State) (stake t : Nat) : State :=
  if s.satFlags.contains (stake * 4 + t) then s else { s with satFlags := s.satFlags ++ [stake * 4 + t] }

/-- Clear a tile's saturation flag (R210). -/
def State.clearSat (s : State) (stake t : Nat) : State :=
  { s with satFlags := s.satFlags.filter (fun k => k != stake * 4 + t) }

/-- Add groups into element (row, column) of the tiles from `first` on (R227, R260, R264). -/
def State.accumulate (s : State) (stake first : Nat) (isInt : Bool) (i j : Nat) (gs : List (List Num)) : State :=
  let t := first + i / 128
  if isInt then
    let r := accInt (s.acc stake t (i % 128) j) gs
    let s := s.setAcc stake t (i % 128) j r.1
    if r.2 then s.setSat stake t else s
  else s.setAcc stake t (i % 128) j (accFloat (s.acc stake t (i % 128) j) gs)

/-- Give every element of some tiles a free value (R457). -/
def State.freeTiles (s : State) (stake : Nat) (tiles : List Nat) : State :=
  tiles.foldl (fun s t => (below 16384).foldl (fun s k =>
    let f := s.fresh
    f.2.setAcc stake t (k / 128) (k % 128) f.1) s) s

/-- Work on operands of a matrix descriptor; where a block's CRC fails its tiles are unspecified
(R457). -/
def guardTiles {α : Type} (stake w : Nat) (x : Got α) : Got α :=
  match x with
  | (s, .error d) =>
    if d.status = stPlaitCrc then (s.freeTiles stake (upFrom (dAccFirst w) (dAccCount w + 1)), .error d)
    else (s, .error d)
  | r => r

/-- Preload the named tiles from a source at a Tray offset in a format (R209, R210, R257). -/
def State.preload (s : State) (stake w src fmt : Nat) (isInt : Bool) : Got Unit :=
  let tiles := upFrom (dAccFirst w) (dAccCount w + 1)
  let mode := dPreload w
  let conv := fun (v : Nat) => if isInt then ofSigned 32 (toSigned (fmtBits fmt) v) else toF32 (elemNum fmt v)
  let put := fun (s : State) (i j v : Nat) => s.setAcc stake (dAccFirst w + i / 128) (i % 128) j v
  let s1 := if mode = 0 then s else tiles.foldl (fun s t => s.clearSat stake t) s
  let rows := 128 * tiles.length
  match mode with
  | 0 => (s1, .ok ())
  | 1 => ((below rows).foldl (fun s i => (below 128).foldl (fun s j => put s i j 0) s) s1, .ok ())
  | 2 => Got.next (s.trayElems stake src (fmtBits fmt) (dN w)) (fun _ l =>
      ((below rows).foldl (fun s i => (l.zip (below (dN w))).foldl (fun s x => put s i x.2 (conv x.1)) s) s1, .ok ()))
  | 3 => Got.next (s.trayElems stake src (fmtBits fmt) (dM w)) (fun _ l =>
      ((l.zip (below (dM w))).foldl (fun s x => (below 128).foldl (fun s j => put s x.2 j (conv x.1)) s) s1, .ok ()))
  | _ => Got.next (s.trayElems stake src (fmtBits fmt) (dM w * dN w)) (fun _ l =>
      ((l.zip (below (dM w * dN w))).foldl (fun s x => put s (x.2 / dN w) (x.2 % dN w) (conv x.1)) s1, .ok ()))

/-- Whether a descriptor's preload names a source it may not (R246, R257). -/
def preloadMalformed (w fmt : Nat) (isInt : Bool) : Bool :=
  !(fmtCodes.contains fmt) ||
  (decide (2 ≤ dPreload w) && !(if isInt then fmt == 0x10 || fmt == 0x11 else decide (fmt ≤ 2)))

/-- An epilogue reads the tiles: count and note a set saturation flag (R222, R244). -/
def State.noteSat (s : State) (wv : Weave) (stake w : Nat) : State :=
  if (upFrom (dAccFirst w) (dAccCount w + 1)).any (fun t => s.satFlags.contains (stake * 4 + t)) then
    let s := s.radd R.stakeSaturationsCount stake 1
    { s with weaves := s.weaves.map (fun x => if x.id = wv.id then { x with sat := true } else x) }
  else s

/-- The elements of the named tiles within M rows and N columns, row by row. -/
def State.tileEls (s : State) (stake first m n : Nat) : List OutEl :=
  (below m).flatMap (fun i => (below n).map (fun j => ⟨i, j, [j, i], s.acc stake (first + i / 128) (i % 128) j⟩))

end Sys2Proof.Machine
end

