-- ==== Sys2Proof/Machine/Matrix.lean ====
section
/-!
DEFINITION. The matrix engine's descriptors: MM, CONV and WCONV (R196, R227, R254 to R265, R278, R286,
R301 to R313).
-/

namespace Sys2Proof.Machine

/-- Class of an input format (R254), 0 where it is none: 1 narrow float, 2 narrow integer, 3 scaled
8-bit, 4 MX 8-bit, 5 integer 8-bit, 6 16-bit, 7 32-bit. -/
def fmtClass (c : Nat) : Nat :=
  match c with
  | 0x0A => 1 | 0x0B => 1 | 0x0C => 1 | 0x12 => 2 | 0x03 => 3 | 0x04 => 3 | 0x08 => 4 | 0x09 => 4
  | 0x0D => 4 | 0x11 => 5 | 0x01 => 6 | 0x02 => 6 | 0x00 => 7 | _ => 0

/-- Whether two formats pair (R254, R255). -/
def fmtPair (a b : Nat) : Bool := fmtClass a != 0 && fmtClass a == fmtClass b

/-- K_t of an input format (R196). -/
def weightRows (c : Nat) : Nat := if fmtClass c = 1 ∨ fmtClass c = 2 then 256 else 128

/-- Whether the inputs accumulate as INT32 (R208, R254). -/
def isIntClass (c : Nat) : Bool := fmtClass c == 2 || fmtClass c == 5

/-- Whether parameter bits outside some fields are set. -/
def paramsBad (w : Nat) (l : List (Nat × Nat)) : Bool := clearFields (bits w 768 192 * 2 ^ 768) l != 0

/-! ### Weight tiles (R278) -/

/-- What a matrix descriptor reads for one weight tile: the tile, a row for each step of its reduction, and the rows of
operand A that stream past it. -/
structure TileRead where
  b : List (List (Option Int × Nat))
  a : List (List (Option Int × Nat))
  deriving DecidableEq, Repr

/-- Read the weight tiles in turn, each with the rows that stream past it; answers the rows and the tile (R278). -/
def State.readTiles (stake fa fb : Nat) (pa : Place) (oa : Opnd) (pb : Place) (ob : Opnd) :
    State → PackRd → PackRd → List TileRead → Got (List (List (List (Option Num)) × List (List (Option Num))))
  | s, _, _, [] => (s, .ok [])
  | s, ca, cb, t :: ts =>
    Got.next (State.opRows stake fb pb ob s cb t.b) (fun s b =>
      Got.next (State.opRows stake fa pa oa s ca t.a) (fun s a =>
        Got.next (State.readTiles stake fa fb pa oa pb ob s a.1 b.1 ts) (fun s l => (s, .ok ((a.2, b.2) :: l)))))

/-- Read the weight tiles of a descriptor's operands A and B. -/
def State.opTiles (s : State) (wv : Weave) (stake w : Nat) (l : List TileRead) :
    Got (List (List (List (Option Num)) × List (List (Option Num)))) :=
  let a := dOpnd w 0
  let b := dOpnd w 1
  State.readTiles stake (dFmtA w) (dFmtB w) (placeOf wv stake 0 a) a (placeOf wv stake 0 b) b s PackRd.empty PackRd.empty l

/-- The n columns of a weight tile. -/
def tileCols (n : Nat) (rows : List (List (Option Num))) : List (List (Option Num)) :=
  (below n).map (fun j => rows.map (fun r => (r[j]?).getD none))

/-- The K chunks of a reduction (R196, R278). -/
def kChunks (w : Nat) : List (List Nat) := pieces (weightRows (dFmtA w)) (below (dK w))

/-! ### MM -/

/-- Whether an MM or the MM part of an MMR is malformed (R227, R246, R251, R255 to R257, R458). -/
def mmMalformed (wv : Weave) (packOk : Bool) (w : Nat) : Bool :=
  let a := dOpnd w 0
  let b := dOpnd w 1
  let remote := bits w 808 11
  decide (dM w = 0 ∨ 128 * (dAccCount w + 1) < dM w ∨ dN w = 0 ∨ 128 < dN w ∨ dK w = 0) ||
  !(fmtCodes.contains (dFmtOut w)) || !(fmtPair (dFmtA w) (dFmtB w)) ||
  !(opndOk wv remote [0, 2] a) || !(opndOk wv remote [0] b) || scaleBad (dFmtB w) b ||
  originBad wv (dFmtA w) a.packed a || originBad wv (dFmtB w) b.packed b ||
  (if a.space = 2 then
    a.scale != 0 || a.packed || !([0x00, 0x01, 0x02, 0x03, 0x04, 0x11].contains (dFmtA w)) ||
    decide (128 < dK w ∨ 3 < a.addr % 4 + (dM w - 1) / 128)
   else scaleBad (dFmtA w) a) ||
  preloadMalformed w (bits w 800 8) (isIntClass (dFmtA w)) || (dEpilogue w && outMalformed wv remote packOk w)

/-- The parameters of an MM. -/
def mmParams : List (Nat × Nat) := [(768, 21), (800, 8), (808, 11)]

/-- Values of an operand A that lies in accumulator tiles, converted to fmt_a, for a K chunk (R201, R256). -/
def State.accRows (s : State) (stake w : Nat) (ks : List Nat) : List (List (Option Num)) :=
  let a := dOpnd w 0
  let f := dFmtA w
  (below (dM w)).map (fun i => ks.map (fun k =>
    let v := s.acc stake (a.addr % 4 + i / 128) (i % 128) k
    let x := if f = 0x11 then f32 (toF32 (Num.ofInt (toSigned 32 v))) else f32 v
    some (elemNum f (elemConv f .even x))))

/-- Offsets and scale indexes of the rows of an MM's operand A in a K chunk (R253, R286, R458). -/
def mmRowsA (wv : Weave) (w : Nat) (ks : List Nat) : List (List (Option Int × Nat)) :=
  let o := dOpnd w 0
  let g := agenOf wv o (dK w) (dM w)
  let kt := weightRows (dFmtA w)
  let G := (dK w + 31) / 32
  (below (dM w)).map (fun i => ks.map (fun k =>
    let q := k / kt * kt
    (if o.packed then g.packed [k, i] (k / kt * (dM w * kt) + i * min kt (dK w - q) + k % kt)
     else g.offset [k, i] [], i * G + k / 32)))

/-- Offsets and scale indexes of an MM's operand B in a K chunk (R253, R286, R458). -/
def mmTileB (wv : Weave) (w : Nat) (ks : List Nat) : List (List (Option Int × Nat)) :=
  let o := dOpnd w 1
  let g := agenOf wv o (dN w) (dK w)
  let G := (dK w + 31) / 32
  ks.map (fun k => (below (dN w)).map (fun j =>
    (if o.packed then g.packed [j, k] (k * dN w + j) else g.offset [j, k] [], j * G + k / 32)))

/-- Add every product of rows and columns into the named tiles (R260, R264). -/
def State.addProducts (s : State) (stake first : Nat) (isInt : Bool) (rows cols : List (List (Option Num))) :
    State :=
  (rows.zip (below rows.length)).foldl (fun s r =>
    (cols.zip (below cols.length)).foldl (fun s c =>
      s.accumulate stake first isInt r.2 c.2 (productGroups r.1 c.1)) s) s

/-- The multiplication of an MM into its tiles: operands read, tiles preloaded, products added. -/
def State.mmCore (s : State) (wv : Weave) (stake w : Nat) : Got Unit :=
  let acc := decide ((dOpnd w 0).space = 2)
  let isInt := isIntClass (dFmtA w)
  let ks := kChunks w
  guardTiles stake w (
    Got.next (s.opTiles wv stake w (ks.map (fun k => ⟨mmTileB wv w k, if acc then [] else mmRowsA wv w k⟩))) (fun s l =>
      let l := (ks.zip l).map (fun x => (if acc then s.accRows stake w x.1 else x.2.1, x.2.2))
      Got.next (s.preload stake w (bits w 768 21) (bits w 800 8) isInt) (fun s _ =>
        (l.foldl (fun s x => s.addProducts stake (dAccFirst w) isInt x.1 (tileCols (dN w) x.2)) s, .ok ()))))

/-- The work of an MM descriptor (R227, R278). -/
def State.mm (s : State) (wv : Weave) (stake : Nat) (d : DescRun) : Got Unit :=
  let w := d.words
  if mmMalformed wv true w ∨ paramsBad w mmParams then (s, .error badItem)
  else Got.next (s.mmCore wv stake w) (fun s _ =>
    if ¬ dEpilogue w then (s, .ok ())
    else
      let s := s.noteSat wv stake w
      s.output wv stake (bits w 808 11) d (isIntClass (dFmtA w)) (dN w) (dM w)
        (s.tileEls stake (dAccFirst w) (dM w) (dN w)))

/-- MM: C += A × B into accumulator tiles, with preload and epilogue (R227). -/
def execMm (stake idx : Nat) (s : State) : Host.Outcome State Fault Refusal :=
  .next (s.runWork stake idx 0x01 (fun wv d => s.mm wv stake d))

/-! ### Shared parameters of CONV, WCONV and POOL (R301 to R303) -/

/-- kw. -/
def cvKw (w : Nat) : Nat := bits w 768 8
/-- kh. -/
def cvKh (w : Nat) : Nat := bits w 776 8
/-- kt. -/
def cvKt (w : Nat) : Nat := bits w 784 8
/-- out_w. -/
def cvOutW (w : Nat) : Nat := bits w 792 16
/-- out_h. -/
def cvOutH (w : Nat) : Nat := bits w 808 16
/-- pos_base. -/
def cvPos (w : Nat) : Nat := bits w 824 32
/-- pre_src. -/
def cvSrc (w : Nat) : Nat := bits w 856 21
/-- pre_fmt. -/
def cvFmt (w : Nat) : Nat := bits w 880 8
/-- remote_stake. -/
def cvRemote (w : Nat) : Nat := bits w 888 11

/-- Whether the shared parameters are malformed (R301). -/
def cvMalformed (w : Nat) : Bool :=
  paramsBad w [(768, 8), (776, 8), (784, 8), (792, 16), (808, 16), (824, 32), (856, 21), (880, 8), (888, 11),
    (899, 1), (900, 2)] ||
  decide (cvKw w = 0 ∨ cvKh w = 0 ∨ cvKt w = 0 ∨ cvOutW w = 0 ∨ cvOutH w = 0) || !(fmtCodes.contains (cvFmt w))

/-- Coordinates (ox, oy, ot) of a linear position for a row width (R302). -/
def cvCoords (w qw p : Nat) : Nat × Nat × Nat := (p % qw, p / qw % cvOutH w, p / (qw * cvOutH w))

/-- The taps (tx, ty, tt) in ascending order (R303). -/
def cvTaps (w : Nat) : List (Nat × Nat × Nat) :=
  (below (cvKt w)).flatMap (fun tt => (below (cvKh w)).flatMap (fun ty => (below (cvKw w)).map (fun tx => (tx, ty, tt))))

/-! ### CONV -/

/-- Whether a CONV is malformed (R304, R246, R257). -/
def convMalformed (wv : Weave) (w : Nat) : Bool :=
  let a := dOpnd w 0
  let b := dOpnd w 1
  cvMalformed w ||
  decide (dM w = 0 ∨ 128 * (dAccCount w + 1) < dM w ∨ dN w = 0 ∨ 128 < dN w ∨ dK w = 0) ||
  !(fmtCodes.contains (dFmtOut w)) || !(fmtPair (dFmtA w) (dFmtB w)) ||
  !(opndOk wv 0 [0] a) || a.packed || !(opndOk wv 0 [0] b) || scaleBad (dFmtA w) a || scaleBad (dFmtB w) b ||
  originBad wv (dFmtB w) b.packed b ||
  preloadMalformed w (cvFmt w) (isIntClass (dFmtA w)) || (dEpilogue w && outMalformed wv (cvRemote w) true w)

/-- Offsets and scale indexes of operand A's rows at one tap, in a K chunk (R305). -/
def convRowsA (wv : Weave) (w : Nat) (t : Nat × Nat × Nat) (ks : List Nat) : List (List (Option Int × Nat)) :=
  let g := agenOf wv (dOpnd w 0) (dK w) (dM w)
  let G := (dK w + 31) / 32
  (below (dM w)).map (fun i =>
    let c := cvCoords w (cvOutW w) (cvPos w + i)
    ks.map (fun k => (g.offset [k, c.1, c.2.1, c.2.2] [0, t.1, t.2.1, t.2.2], i * G + k / 32)))

/-- Offsets and scale indexes of operand B at tap number t, in a K chunk (R305, R458). -/
def convTileB (wv : Weave) (w t : Nat) (ks : List Nat) : List (List (Option Int × Nat)) :=
  let o := dOpnd w 1
  let g := agenOf wv o (dN w) (dK w)
  let G := (dK w + 31) / 32
  ks.map (fun k => (below (dN w)).map (fun j =>
    (if o.packed then g.packed [j, k, t] ((t * dK w + k) * dN w + j) else g.offset [j, k, t] [], j * G + k / 32)))

/-- The work of a CONV: the taps in turn, each as an MM (R306). -/
def State.conv (s : State) (wv : Weave) (stake : Nat) (d : DescRun) : Got Unit :=
  let w := d.words
  let isInt := isIntClass (dFmtA w)
  let taps := cvTaps w
  if convMalformed wv w then (s, .error badItem)
  else Got.next (guardTiles stake w (
      Got.next (s.opTiles wv stake w ((taps.zip (below taps.length)).flatMap (fun t =>
          (kChunks w).map (fun ks => ⟨convTileB wv w t.2 ks, convRowsA wv w t.1 ks⟩)))) (fun s l =>
        Got.next (s.preload stake w (cvSrc w) (cvFmt w) isInt) (fun s _ =>
          (l.foldl (fun s x => s.addProducts stake (dAccFirst w) isInt x.1 (tileCols (dN w) x.2)) s, .ok ())))))
    (fun s _ =>
      if ¬ dEpilogue w then (s, .ok ())
      else
        let s := s.noteSat wv stake w
        let els := (s.tileEls stake (dAccFirst w) (dM w) (dN w)).map (fun e =>
          let c := cvCoords w (cvOutW w) (cvPos w + e.i)
          { e with u := [e.j, c.1, c.2.1, c.2.2] })
        s.output wv stake (cvRemote w) d isInt (dN w) (dM w) els)

/-- CONV: direct convolution through the address generators (R304 to R306). -/
def execConv (stake idx : Nat) (s : State) : Host.Outcome State Fault Refusal :=
  .next (s.runWork stake idx 0x03 (fun wv d => s.conv wv stake d))

/-! ### WCONV -/

/-- Whether a WCONV is malformed (R308). -/
def wconvMalformed (wv : Weave) (w : Nat) : Bool :=
  let a := dOpnd w 0
  let b := dOpnd w 1
  cvMalformed w ||
  decide (dM w = 0 ∨ 128 < dM w ∨ dN w = 0 ∨ 128 < dN w ∨ dK w = 0) ||
  !(fmtCodes.contains (dFmtOut w)) || !(fmtPair (dFmtA w) (dFmtB w)) || decide (fmtClass (dFmtA w) < 6) ||
  cvKw w != 3 || dAccFirst w != 0 || dAccCount w != 3 || dPreload w != 1 ||
  (match (agenOf wv a (dK w) (dM w)).dims[1]? with
   | some x => x.stride != 1 || x.dilation != 1
   | none => true) ||
  !(opndOk wv 0 [0] a) || a.packed || !(opndOk wv 0 [0] b) || scaleBad (dFmtA w) a || scaleBad (dFmtB w) b ||
  originBad wv (dFmtB w) b.packed b ||
  (bit w 899 && decide (2 < cvFmt w)) || (dEpilogue w && outMalformed wv (cvRemote w) false w)

/-- The two input elements d_s that V_ξ is formed from (R310). -/
def wconvTaps (xi : Nat) : Nat × Nat :=
  match xi with
  | 0 => (0, 2)
  | 1 => (1, 2)
  | 2 => (2, 1)
  | _ => (1, 3)

/-- V_ξ from its two input elements, an absent one zero (R310). -/
def wconvV (fmt xi : Nat) (d : List (Option Num)) : Num :=
  let at_ := fun k => ((d[k]?).getD none).getD Num.zero
  elemNum fmt (elemConv fmt .even (if xi = 1 then (at_ 0).add (at_ 1) else (at_ 0).sub (at_ 1)))

/-- The rows V_ξ of a WCONV, from rows of two elements for each channel. -/
def wconvRows (w xi : Nat) (rows : List (List (Option Num))) : List (List (Option Num)) :=
  rows.map (fun r => (pieces 2 r).map (fun d => some (wconvV (dFmtA w) xi d)))

/-- Row width of a WCONV in Winograd tiles. -/
def wconvQ (w : Nat) : Nat := (cvOutW w + 1) / 2

/-- Offsets of operand A's elements for plane ξ at tap (ty, tt), in a K chunk (R309). -/
def wconvRowsA (wv : Weave) (w xi : Nat) (t : Nat × Nat) (ks : List Nat) : List (List (Option Int × Nat)) :=
  let g := agenOf wv (dOpnd w 0) (dK w) (dM w)
  (below (dM w)).map (fun r =>
    let c := cvCoords w (wconvQ w) (cvPos w + r)
    ks.flatMap (fun k => [(wconvTaps xi).1, (wconvTaps xi).2].map (fun x =>
      (g.offset [k, 2 * c.1, c.2.1, c.2.2] [0, x, t.1, t.2], 0))))

/-- Offsets of operand B for plane ξ at tap number t, in a K chunk (R309, R458). -/
def wconvTileB (wv : Weave) (w t xi : Nat) (ks : List Nat) : List (List (Option Int × Nat)) :=
  let b := dOpnd w 1
  let g := agenOf wv b (dN w) (dK w)
  ks.map (fun k => (below (dN w)).map (fun j =>
    (if b.packed then g.packed [j, k, t, xi] (((t * 4 + xi) * dK w + k) * dN w + j) else g.offset [j, k, t, xi] [], 0)))

/-- The work of a WCONV (R309 to R313): at each tap, the planes in turn. -/
def State.wconv (s : State) (wv : Weave) (stake : Nat) (d : DescRun) : Got Unit :=
  let w := d.words
  let taps := (below (cvKt w)).flatMap (fun tt => (below (cvKh w)).map (fun ty => (ty, tt)))
  let steps := (taps.zip (below taps.length)).flatMap (fun t => (below 4).flatMap (fun xi =>
    (kChunks w).map (fun ks => (t, xi, ks))))
  if wconvMalformed wv w then (s, .error badItem)
  else
    Got.next (guardTiles stake w (
      Got.next (s.opTiles wv stake w (steps.map (fun x =>
          ⟨wconvTileB wv w x.1.2 x.2.1 x.2.2, wconvRowsA wv w x.2.1 x.1.1 x.2.2⟩))) (fun s l =>
        Got.next (s.preload stake w 0 0 false) (fun s _ =>
          ((steps.zip l).foldl (fun s x =>
            s.addProducts stake x.1.2.1 false (wconvRows w x.1.2.1 x.2.1) (tileCols (dN w) x.2.2)) s, .ok ())))))
    (fun s _ =>
      if ¬ dEpilogue w then (s, .ok ())
      else Got.next (if bit w 899 then s.trayElems stake (cvSrc w) (fmtBits (cvFmt w)) (dN w)
          else (s, .ok ((below (dN w)).map (fun _ => 0)))) (fun s bias =>
        let bn := fun j => if bit w 899 then elemNum (cvFmt w) ((bias[j]?).getD 0) else Num.zero
        let m := fun (s : State) t r j => f32 (s.acc stake t r j)
        let els := (below (dM w)).flatMap (fun r =>
          let c := cvCoords w (wconvQ w) (cvPos w + r)
          (below 2).flatMap (fun e => (below (dN w)).map (fun j =>
            let y := if e = 0 then Num.sum [m s 0 r j, m s 1 r j, m s 2 r j, bn j]
              else Num.sum [m s 1 r j, (m s 2 r j).neg, (m s 3 r j).neg, bn j]
            (⟨2 * r + e, j, [j, 2 * c.1 + e, c.2.1, c.2.2], toF32 y⟩ : OutEl))))
        s.output wv stake (cvRemote w) d false (dN w) (dM w) els))

/-- WCONV: F(2, 3) Winograd convolution along x (R308 to R313). -/
def execWconv (stake idx : Nat) (s : State) : Host.Outcome State Fault Refusal :=
  .next (s.runWork stake idx 0x04 (fun wv d => s.wconv wv stake d))

end Sys2Proof.Machine
end

