-- ==== Sys2Proof/Machine/Move.lean ====
section
/-!
DEFINITION. The move queue's MOVE and PACK descriptors, and the COPY packet (R228, R440 to R444, R463
to R466, R816).
-/

namespace Sys2Proof.Machine

/-! ### MOVE (R228) -/

/-- length of a MOVE. -/
def mvLength (w : Nat) : Nat := bits w 768 32

/-- Whether a range of a Tray or of an accumulator tile lies within its bounds (R228). -/
def mvInside (o : Opnd) (n : Nat) : Bool :=
  match o.space with
  | 0 => decide (o.addr % 2 ^ 21 + n ≤ trayBytes)
  | 2 => decide (n ≤ 65536)
  | 3 => decide (o.addr % 2 ^ 21 + n ≤ trayBytes)
  | _ => true

/-- Whether a MOVE is malformed (R224, R228, R251). -/
def moveMalformed (wv : Weave) (w : Nat) : Bool :=
  let a := dOpnd w 0
  let c := dOpnd w 2
  let r := bits w 800 11
  paramsBad w [(768, 32), (800, 11)] || !(opndOk wv r [0, 1, 2, 3] a) || !(opndOk wv r [0, 1, 2, 3] c) ||
  a.packed || c.packed || scaleBad (dFmtA w) a || scaleBad (dFmtOut w) c || (a.space == 2 && decide (2 ≤ c.space)) || (c.space == 2 && decide (2 ≤ a.space)) ||
  !(mvInside a (mvLength w)) || !(mvInside c (mvLength w))

/-- Copy n bytes between places.  Bytes of memory read before a failing point are still written. -/
def State.moveBytes (s : State) (src dst : Place) (n : Nat) : Got Unit :=
  if src.space = 1 then
    let r := s.vread src.rq src.base n
    Got.next (r.s.placeWrite dst 0 r.bs) (fun s _ =>
      (s, if r.st = 0 then .ok () else .error ⟨r.st, 0, src.base + r.off⟩))
  else Got.next (s.placeRead src 0 n) (fun s bs => s.placeWrite dst 0 bs)

/-- MOVE: copies bytes between Tray, accumulator, memory and other Trays (R228). -/
def execMove (stake idx : Nat) (s : State) : Host.Outcome State Fault Refusal :=
  .next (s.runWork stake idx 0x0A (fun wv d =>
    let w := d.words
    let r := bits w 800 11
    if moveMalformed wv w then (s, .error badItem)
    else if mvLength w = 0 then (s, .ok ())
    else s.moveBytes (placeOf wv stake r (dOpnd w 0)) (placeOf wv stake r (dOpnd w 2)) (mvLength w)))

/-! ### PACK (R441, R463, R464) -/

/-- kind: 0 ENCODE, 1 DECODE, 2 COMPACT, 3 BUILD. -/
def pkKind (w : Nat) : Nat := bits w 768 2
/-- length. -/
def pkLength (w : Nat) : Nat := bits w 832 32
/-- table. -/
def pkTable (w : Nat) : Nat := bits w 864 48

/-- Whether a PACK is malformed (R224, R251, R458, R463, R464). -/
def packMalformed (wv : Weave) (w : Nat) : Bool :=
  let a := dOpnd w 0
  let b := dOpnd w 1
  let c := dOpnd w 2
  let r := bits w 800 11
  let k := pkKind w
  paramsBad w [(768, 2), (770, 1), (772, 4), (800, 11), (832, 32), (864, 48), (912, 16)] ||
  bits w 128 64 != 0 || dPreload w != 0 || dEpilogue w || dFmtB w != 0 || dFmtOut w != 0 || b.used ||
  decide (pkLength w = 0 ∨ 1073741824 < pkLength w) || pkTable w % 64 != 0 ||
  !(opndOk wv r [0, 1, 3] a) || a.agen != 0 || ((k == 0 || k == 3) && a.packed) ||
  (k != 3 && (!(opndOk wv r [0, 1, 3] c) || c.agen != 0)) || (k == 3 && c.used) || c.packed ||
  scaleBad (dFmtA w) a || c.scale != 0 ||
  ((k == 0 || k == 3) && !(fmtCodes.contains (dFmtA w)))

/-- The table object that a PACK names, with its checks for w planes of native code (R443, R444). -/
def State.readTable (s : State) (rq : Rq) (va w : Nat) : Got Nat :=
  Got.next (s.placeRead ⟨1, 0, rq, va⟩ 0 576) (fun s bs =>
    let t := leNat bs
    (s, if tableMalformed t ∨ bit t 58 ∨ bits t 56 2 + 1 < w then .error (Done.plain stPlaitMalformed) else .ok t))

/-- A table object as a packer uses it. -/
def sharedOf (slot t : Nat) : SharedTab :=
  ⟨slot, bits t 40 16, (below 4).map (fun q => plaitLens (bits t (512 + 1024 * q) 1024))⟩

/-- A PACK's descriptor with the kind that a command runs: its places, once it is well formed. -/
def State.runPack (s : State) (stake idx kind : Nat) (work : Weave → Nat → Place → Place → Got Unit) : State :=
  match s.descReady stake idx 0x0B with
  | none => s
  | some (_, _, d) =>
    if pkKind d.words ≠ kind then s
    else s.runWork stake idx 0x0B (fun wv d =>
      let w := d.words
      let r := bits w 800 11
      if packMalformed wv w then (s, .error badItem)
      else work wv w (placeOf wv stake r (dOpnd w 0)) (placeOf wv stake r (dOpnd w 2)))

/-- ENCODE: codes a plain operand into a compact packed tensor, with inline tables or with the shared
table that it names (R464). -/
def execEncode (stake idx : Nat) (s : State) : Host.Outcome State Fault Refusal :=
  .next (s.runPack stake idx 0 (fun _ w a c =>
    let f := dFmtA w
    if bit w 770 then
      Got.next (s.readTable a.rq (pkTable w) (planeWidth f)) (fun s t =>
        Got.next (s.packTensor a c f (pkLength w) (pkTable w) (some (sharedOf (bits w 772 4) t))) (fun s _ => (s, .ok ())))
    else Got.next (s.packTensor a c f (pkLength w) 0 none) (fun s _ => (s, .ok ()))))

/-- DECODE: expands a packed operand into plain data (R464). -/
def execDecode (stake idx : Nat) (s : State) : Host.Outcome State Fault Refusal :=
  .next (s.runPack stake idx 1 (fun _ w a c => s.expandTensor a c (coilSet (stake / 96)) (pkLength w)))

/-- Block b of a packed tensor, its header checked (R430 to R434, R464). -/
def State.checkedBlock (s : State) (p : Place) (h b : Nat) : Got (List Byte) :=
  Got.next (s.readBlock p h b) (fun s blk =>
    if blockBad (planeWidth (ihFmt h)) (leNat (blk.take 64)) then (s, .error (Done.plain stPlaitMalformed)) else (s, .ok blk))

/-- COMPACT: copies packed blocks into a compact tensor without expansion; it checks the index and the headers (R464). -/
def execCompact (stake idx : Nat) (s : State) : Host.Outcome State Fault Refusal :=
  .next (s.runPack stake idx 2 (fun _ _ a c =>
    Got.next (s.readIndex a) (fun s h =>
      Got.next (s.writeCompact c (ihFmt h) (ihBytes h) (bits h 128 48) (fun s b =>
        Got.next (s.checkedBlock a h b) (fun s blk =>
          (s.radd R.plaitStoredOutBytes 0 blk.length, .ok blk)))) (fun s _ => (s, .ok ())))))

/-- Counts of one more block of an image, plane by plane (R441). -/
def countBlock (w : Nat) (f : List (List Nat)) (img : List Byte) : List (List Nat) :=
  (f.zip ((below w).map (fun q => (pieces w img).flatMap (fun e => (e[w - 1 - q]?).toList)))).map
    (fun x => countSyms x.1 x.2)

/-- The bytes of a table object with some planes' lengths (R444). -/
def tableObject (gen : Nat) (lens : List (List Nat)) : List Byte :=
  padTo 576 (natLe 64 (0x42544C50 + 2 ^ 32 + gen * 2 ^ 40 + (lens.length - 1) * 2 ^ 56) ++ lens.flatMap lensBytes)

/-- BUILD: counts plane symbols over a plain operand and writes a table object (R441, R464). -/
def execBuild (stake idx : Nat) (s : State) : Host.Outcome State Fault Refusal :=
  .next (s.runPack stake idx 3 (fun _ w a _ =>
    let n := pkLength w
    let pw := planeWidth (dFmtA w)
    let ones := (below pw).map (fun _ => (below 256).map (fun _ => 1))
    Got.next ((below ((n + 4095) / 4096)).foldl (fun (g : Got (List (List Nat))) b =>
        Got.next g (fun s f =>
          Got.next (s.placeRead a (4096 * b : Nat) (min 4096 (n - 4096 * b))) (fun s img => (s, .ok (countBlock pw f img)))))
        (s, .ok ones)) (fun s f =>
      s.placeWrite ⟨1, stake, a.rq, pkTable w⟩ 0 (tableObject (bits w 912 16) (f.map (fun x => buildLens 11 64 x))))))

/-! ### COPY (R129, R466, R816) -/

/-- The work of a COPY: plain bytes, packing or expanding on the serving front's Border die. -/
def State.copyPacket (s : State) (c w : Nat) : State × Done :=
  let rq := s.frontRq c
  let src := bits w 256 48
  let dst := bits w 320 48
  let n := bits w 384 40
  let ps : Place := ⟨1, 0, rq, src⟩
  let pd : Place := ⟨1, 0, rq, dst⟩
  let fin := fun (d : Done) => { d with info := infoOf d.status d.info }
  if bits w 424 4 = 0 then
    let r := s.copyPlain rq src dst n
    (r.1, xferDone r.2)
  else if 1073741824 < n then (s, Done.plain stCmdLength)
  else if bits w 424 4 = 1 then
    match s.packTensor ps pd 0x11 n 0 none with
    | (s, .ok total) => (s, ⟨stOk, total, 0⟩)
    | (s, .error d) => (s, fin d)
  else
    match s.expandTensor ps pd (borderSet (s.ctx c).front) n with
    | (s, .ok _) => (s, Done.plain stOk)
    | (s, .error d) => (s, fin d)

/-- COPY: copies bytes, or packs or expands a Plait tensor; it waits for a slot that is being loaded. -/
def execCopy (ctx ring slot : Nat) (s : State) : Host.Outcome State Fault Refusal :=
  .next (
    let t := s.runPacket ctx ring slot 0x10 (fun p => s.copyPacket ctx p.words)
    match t.job ctx ring slot with
    | some ⟨_, some d⟩ => if d.status = stWaits then s else t
    | _ => t)

end Sys2Proof.Machine
end

