-- ==== Sys2Proof/Machine/Complete.lean ====
section
/-!
DEFINITION. Completion of descriptors and weaves, and the packets that load and bind tables (R221,
R222, R229 to R236, R345 to R348, R447, R448).
-/

namespace Sys2Proof.Machine

/-! ### Binds that wait (R346, R347) -/

/-- End a table packet: those behind it have their turn. -/
def State.tabEnd (s : State) (c ring slot : Nat) (d : Done) : State :=
  let s := { s with sfu := { s.sfu with queue := s.sfu.queue.filter (fun t =>
      !(t.ctx == c && t.ring == ring && t.slot == slot)) } }
  s.finish c ring slot d

/-- SFU_BIND packets whose previous slots no descriptor holds any more end (R347). -/
def State.settleBinds (s : State) : State :=
  let left := s.sfu.pend.map (fun b => { b with left := b.left.filter (fun k => s.slotHeld (k / 8) (k % 8)) })
  let s := { s with sfu := { s.sfu with pend := left.filter (fun b => !b.left.isEmpty) } }
  (left.filter (fun b => b.left.isEmpty)).foldl (fun s b => s.tabEnd b.ctx b.ring b.slot (Done.plain stOk)) s

/-! ### Descriptors (R229, R232, R234) -/

/-- What a Stake holds once a descriptor has left its queue. -/
def StakeSt.leave (x : StakeSt) (idx : Nat) : StakeSt :=
  { x with
    started := x.started.filter (fun e => e.idx != idx)
    vp := match x.vp with
      | some v => if v.idx = idx then none else some v
      | none => none }

/-- DESCRIPTOR_COMPLETE: the oldest unfinished descriptor of its queue, whose work has ended, leaves it.  Where it
ended with a status of R221, it stops the weave without having completed; otherwise it completes, is counted, and
its credit is signalled (R221, R229, R232, R244). -/
def execDescriptorComplete (stake idx : Nat) (s : State) : Host.Outcome State Fault Refusal :=
  match smGet s.stakes stake, s.weaveOf stake with
  | some x, some wv =>
    match x.desc idx with
    | some ⟨_, w, _, some d⟩ =>
      if x.started.any (fun e => decide (e.idx < idx) && sameQueue (dOp e.words) (dOp w)) then .next s
      else
        let bad := stopsWeave d.status
        let z := x.leave idx
        let y : StakeSt := if bad then { z with next := min x.next idx, fetched := [] } else { z with done := x.done + 1 }
        let s := (s.setStake stake y).rset R.stakeStatusDescIndex stake y.oldest
        let s := if bad then s.stopWeave wv d.status stake d.info
          else
            let s := s.radd R.stakeDescriptorsCount stake 1
            if bit w 28 then s.signal (bits w 32 11) (bits w 24 4) (bits w 48 8) else s
        .next ((s.refreshSlots stake).settleBinds)
    | _ => .next s
  | _, _ => .next s

/-! ### Weaves (R221, R222, R236) -/

/-- Whether every Stake of a weave has finished its stream, or has stopped with none in progress, and
no add of the weave is on its way. -/
def State.weaveEnded (s : State) (w : Weave) : Bool :=
  (upFrom w.first w.count).all (fun st => match smGet s.stakes st with
    | some x => x.weave == w.id && x.started.isEmpty &&
        (w.stop.isSome || (x.queued.isEmpty && decide (x.total ≤ x.next)))
    | none => false) &&
  !(s.ms.adds.any (fun r => decide (w.first ≤ r.who ∧ r.who < w.first + w.count) && !r.marker))

/-- detail of a WEAVE_RUN completion (R222). -/
def weaveDetail (w : Weave) (stake : Nat) : Nat := stake % 2048 + b2n w.sat * 2 ^ 31

/-- FLT_WEAVE_ERROR for a stopped WEAVE_LAUNCH weave (R136, R221, R691). -/
def State.weaveError (s : State) (w : Weave) (st stake info : Nat) : State :=
  s.raise { FaultInfo.mk0 fltWeaveError 0 stake with
    part := w.part, ctx := w.ctx, status := st, addr := infoOf st info }

/-- What a weave's completion does: the event counter, the fault or the completion (R136, R221, R222,
R236). -/
def State.endWeave (s : State) (w : Weave) : State :=
  match w.launch, w.stop with
  | true, none =>
    if w.event < s.rg R.ctxEventCfgCount w.ctx ∧ w.event ≠ 0xFFFF then
      s.setCounter w.ctx w.event (s.counter w.ctx w.event + 1) else s
  | true, some (st, stake, info) => if w.cut then s else s.weaveError w st stake info
  | false, none => s.finish w.ctx w.ring w.slot ⟨stOk, weaveDetail w 0, 0⟩
  | false, some (st, stake, info) => s.finish w.ctx w.ring w.slot ⟨st, weaveDetail w stake, info⟩

/-- WEAVE_COMPLETE: every Stake of a weave has finished; its Stakes are freed at the next boundary
(R176), or at once where a fault or a reset stopped it. -/
def execWeaveComplete (id : Nat) (s : State) : Host.Outcome State Fault Refusal :=
  match s.weaves.find? (fun w => w.id == id) with
  | none => .next s
  | some w =>
    if w.doneAt.isSome ∨ ¬ s.weaveEnded w then .next s
    else
      let s := s.setWeave { w with doneAt := some s.beat }
      let s := s.endWeave w
      .next (if w.cut then s.freeWeave w else s)

/-! ### SFU tables (R345 to R348) -/

/-- Whether two packets concern a common Coil, slot set or collective channel (R348, R447, R616). -/
def tabMeet (a b : Nat) : Bool :=
  if pkOp a = 0x30 ∨ pkOp b = 0x30 then pkOp a == pkOp b && bits a 256 5 == bits b 256 5
  else if pkOp a = 0x62 ∨ pkOp b = 0x62 then
    pkOp a == pkOp b && bit a 308 == bit b 308 &&
      (if bit a 308 then Nat.land (bits a 336 2) (bits b 336 2) != 0 else Nat.land (bits a 320 16) (bits b 320 16) != 0)
  else Nat.land (bits a 320 16) (bits b 320 16) != 0

/-- A running table packet whose turn has come: no earlier one that it meets is unfinished (R348,
R447). -/
def State.tabTurn (s : State) (c ring slot op : Nat) : Option Packet :=
  match s.running c ring slot op with
  | none => none
  | some p =>
    let ahead := s.sfu.queue.takeWhile (fun t => !(t.ctx == c && t.ring == ring && t.slot == slot))
    if ahead.any (fun t => tabMeet t.words p.words) then none else some p

/-- Read a table image: its body and its signature block (R330, R331, R345). -/
def State.readImageTable (s : State) (rq : Rq) (va : Nat) : Got (List Byte × List Byte) :=
  let p : Place := ⟨1, 0, rq, va⟩
  Got.next (s.placeRead p 0 64) (fun s h =>
    let n := tbLength (leNat h)
    Got.next (s.placeRead p 0 n) (fun s body =>
      Got.next (s.placeRead p (64 * ((n + 63) / 64) : Nat) 2820) (fun s sig => (s, .ok (body, sig)))))

/-- Write a table body into slot k of a Stake, which is then loaded and unbound (R345, R370). -/
def State.writeTable (s : State) (st k tab : Nat) : State :=
  let i := st * 8 + k
  let s := { s with sfu := { s.sfu with slots := smSet s.sfu.slots i tab } }
  let s := (s.rset R.sfuSlotFunction i (tbFn tab)).rset R.sfuSlotLoaded i 1
  let s := (s.rset R.sfuSlotEval i (b2n (tbEval tab))).rset R.sfuSlotKeyId i (tbKey tab)
  s.rset R.sfuSlotVerified i (tbVerified tab)

/-- The work of an SFU_TABLE_LOAD (R345). -/
def State.loadTable (s : State) (c w : Nat) : State × Done :=
  let va := bits w 256 48
  let k := bits w 304 3
  match s.readImageTable (s.frontRq c) va with
  | (s, .error d) => (s, { d with info := infoOf d.status d.info })
  | (s, .ok (body, sig)) =>
    let tab := leNat body
    let good : Bool := match s.keyOf (tbKey tab) with
      | some key => Config.xmssVerify key body sig
      | none => false
    let targets := s.sfuStakes c (bits w 320 16)
    if ¬ good then (s, Done.plain stTableSignature)
    else if bodyMalformed tab then (s, Done.plain stTableMalformed)
    else if targets.any (fun st => s.slotBoundFn st k || s.slotHeld st k) then
      (s.radd R.sfuBusyCount 0 1, Done.plain stTableBusy)
    else
      let s := targets.foldl (fun s st => (s.writeTable st k tab).refreshSlots st) s
      ((s.radd R.sfuLoadsCount 0 1).extend 4 (digest body), Done.plain stOk)

/-- SFU_TABLE_LOAD: reads, verifies and checks a signed table image and writes it into a slot of every
target Stake (R345); it waits while a regulator holds its reads back (R187). -/
def execSfuTableLoad (ctx ring slot : Nat) (s : State) : Host.Outcome State Fault Refusal :=
  match s.tabTurn ctx ring slot 0x60 with
  | none => .next s
  | some p =>
    let r := s.loadTable ctx p.words
    .next (if s.regulated r.1 ctx then s else r.1.tabEnd ctx ring slot r.2)

/-- Bind a function to slot k of a Stake, or with function 0 remove the binding that names slot k
(R346). -/
def State.bindSlot (s : State) (st f k : Nat) : State :=
  let s := if f = 0 then
      (if s.sfuBinding st (s.slotFn st k) = some k then s.setBinding st (s.slotFn st k) 0 else s)
    else s.setBinding st f (k + 1)
  s.refreshSlots st

/-- SFU_BIND: checks the slot on every target Stake and binds a function to it; it ends once no
descriptor holds the function's previous slot (R346, R347). -/
def execSfuBind (ctx ring slot : Nat) (s : State) : Host.Outcome State Fault Refusal :=
  match s.tabTurn ctx ring slot 0x61 with
  | none => .next s
  | some p =>
    if s.sfu.pend.any (fun b => b.ctx == ctx && b.ring == ring && b.slot == slot) then .next s
    else
      let f := bits p.words 256 8
      let k := bits p.words 264 3
      let targets := s.sfuStakes ctx (bits p.words 320 16)
      if f ≠ 0 ∧ ¬ targets.all (fun st => s.rb R.sfuSlotLoaded (st * 8 + k) && s.slotFn st k == f) then
        .next (s.tabEnd ctx ring slot (Done.plain stTableMalformed))
      else
        let old := targets.flatMap (fun st => match s.sfuBinding st f with
          | some j => if j ≠ k ∧ s.slotHeld st j then [st * 8 + j] else []
          | none => [])
        let s := targets.foldl (fun s st => s.bindSlot st f k) s
        if old.isEmpty then .next (s.tabEnd ctx ring slot (Done.plain stOk))
        else .next { s with sfu := { s.sfu with pend := s.sfu.pend ++ [⟨ctx, ring, slot, old⟩] } }

/-! ### Plait tables (R447, R448) -/

/-- The slots that a PLAIT_TABLE_LOAD names (R129). -/
def loadKeys (w : Nat) : List Nat :=
  let i := bits w 304 4
  if bit w 308 then (onesOf 2 (bits w 336 2)).map (fun b => borderSet b + i)
  else (onesOf 16 (bits w 320 16)).map (fun c => coilSet c + i)

/-- PLAIT_TABLE_LOAD: checks a table object and closes the named slot of every selected die (R447,
R448); it waits while a regulator holds its reads back (R187). -/
def execPlaitTableLoad (ctx ring slot : Nat) (s : State) : Host.Outcome State Fault Refusal :=
  match s.tabTurn ctx ring slot 0x62 with
  | none => .next s
  | some p =>
    if s.plait.loads.any (fun l => l.ctx == ctx && l.ring == ring && l.slot == slot) then .next s
    else
      let rd := s.placeRead ⟨1, 0, s.frontRq ctx, bits p.words 256 48⟩ 0 576
      if s.regulated rd.1 ctx then .next s
      else match rd with
      | (s, .error d) => .next (s.tabEnd ctx ring slot { d with info := infoOf d.status d.info })
      | (s, .ok bs) =>
        let t := leNat bs
        let keys := loadKeys p.words
        if tableMalformed t then .next (s.tabEnd ctx ring slot (Done.plain stPlaitMalformed))
        else if s.denied ctx p.words then .next (s.tabEnd ctx ring slot (Done.plain stCmdDenied))
        else if keys.isEmpty then .next (s.tabEnd ctx ring slot (Done.plain stOk))
        else
          let s := keys.foldl (fun s k => s.setClosed k true) s
          .next { s with plait := { s.plait with loads := s.plait.loads ++ [⟨ctx, ring, slot, t, keys⟩] } }

/-- PLAIT_SLOT_WRITE: no queued block names a closed slot's generation any more; the new table is
written, and the load ends with its last slot (R448). -/
def execPlaitSlotWrite (key : Nat) (s : State) : Host.Outcome State Fault Refusal :=
  match s.plait.loads.find? (fun l => l.left.contains key) with
  | none => .next s
  | some l =>
    let s := (s.writeSlot key l.table).setClosed key false
    let left := l.left.filter (fun k => k != key)
    let rest := s.plait.loads.filter (fun x => !(x.ctx == l.ctx && x.ring == l.ring && x.slot == l.slot))
    if left.isEmpty then
      let s := { s with plait := { s.plait with loads := rest } }
      .next ((s.extend 5 (digest (natLe 576 l.table))).tabEnd l.ctx l.ring l.slot (Done.plain stOk))
    else .next { s with plait := { s.plait with loads := { l with left := left } :: rest } }

end Sys2Proof.Machine
end

