-- ==== Sys2Proof/Machine/Vector.lean ====
section
/-!
DEFINITION. The vector queue's descriptors of fixed function: SFU, NORM, SMAX, POOL and CROP (R295,
R316 to R327, R353 to R368).
-/

namespace Sys2Proof.Machine

/-- The float formats that vector descriptors read (R316, R322, R353, R356). -/
def vecFmt (f : Nat) : Bool := decide (f ≤ 4)

/-- Read positions of an operand as FP32 words, FP8 scales applied with one rounding (R335). -/
def State.opWords (s : State) (stake fmt : Nat) (p : Place) (o : Opnd) (es : List (Option Int)) :
    Got (List (Option Nat)) :=
  Got.next (s.opValues stake fmt p o PackRd.empty (es.map (fun e => (e, 0)))) (fun s l =>
    (s, .ok (l.2.map (fun x => x.map toF32))))

/-- The Stake of a space-3 operand in an operation whose parameters name none: a free choice. -/
def State.anyRemote (s : State) (wv : Weave) : Nat × State :=
  let f := s.fresh
  (wv.first + f.1 % max 1 wv.count, f.2)

/-- The remote Stake of operand C for SFU, NORM and SMAX. -/
def State.vecRemote (s : State) (wv : Weave) (w : Nat) : Nat × State :=
  if (dOpnd w 2).space = 3 then s.anyRemote wv else (wv.first, s)

/-- Offsets of an M × N operand A, row by row (R354, R458). -/
def gridA (wv : Weave) (w : Nat) : List (List (Option Int)) :=
  let o := dOpnd w 0
  let g := agenOf wv o (dN w) (dM w)
  (below (dM w)).map (fun i => (below (dN w)).map (fun j =>
    if o.packed then g.packed [j, i] (i * dN w + j) else g.offset [j, i] []))

/-- Read operand A of an M × N vector descriptor as FP32 words, row by row. -/
def State.gridWords (s : State) (wv : Weave) (stake w : Nat) : Got (List (List (Option Nat))) :=
  let o := dOpnd w 0
  Got.next (State.opRows stake (dFmtA w) (placeOf wv stake 0 o) o s PackRd.empty
      ((gridA wv w).map (fun r => r.map (fun e => (e, 0))))) (fun s l =>
    (s, .ok (l.2.map (fun r => r.map (fun x => x.map toF32)))))

/-- Rows of optional words as output elements, absent words left out; the columns take u = (j, i). -/
def rowEls (rows : List (List (Option Nat))) : List OutEl :=
  (rows.zip (below rows.length)).flatMap (fun r => (r.1.zip (below r.1.length)).flatMap (fun x =>
    match x.1 with
    | some v => [⟨r.2, x.2, [x.2, r.2], v⟩]
    | none => []))

/-- Whether the parts common to SFU, NORM and SMAX are malformed (R353, R356). -/
def gridMalformed (wv : Weave) (w : Nat) : Bool :=
  decide (dM w = 0 ∨ dN w = 0) || dK w != 0 || !(vecFmt (dFmtA w)) || !(dEpilogue w) ||
  !(opndOk wv wv.first [0, 1] (dOpnd w 0)) || scaleBad (dFmtA w) (dOpnd w 0) ||
  originBad wv (dFmtA w) (dOpnd w 0).packed (dOpnd w 0) || outMalformed wv wv.first true w

/-! ### SFU -/

/-- Whether an SFU descriptor is malformed (R353). -/
def sfuMalformed (wv : Weave) (w : Nat) : Bool :=
  gridMalformed wv w || paramsBad w [(768, 8)] || d4 w != 0 || !(vecFmt (dFmtOut w)) || bits w 640 2 != 0 ||
  bits w 648 8 != 0 || bits w 704 32 != 0 || bits w 768 8 == 0

/-- The work of an SFU descriptor (R353, R354). -/
def State.sfu_ (s : State) (wv : Weave) (stake : Nat) (d : DescRun) : Got Unit :=
  let w := d.words
  let f := bits w 768 8
  if sfuMalformed wv w then (s, .error badItem)
  else
    match d.binds.find? (fun b => b.1 == f) with
    | none => (s, .error (Done.plain stTableUnbound))
    | some b => Got.next (s.gridWords wv stake w) (fun s rows =>
      let g := agenOf wv (dOpnd w 2) (dN w) (dM w)
      let codes := (rowEls rows).map (fun e => (outOffset w g e, s.sfuSlotEval stake b.2 e.v (dFmtOut w)))
      let r := s.vecRemote wv w
      r.2.writeOut wv stake r.1 w (codes, []))

/-- SFU: evaluates a special function elementwise (R354). -/
def execSfu (stake idx : Nat) (s : State) : Host.Outcome State Fault Refusal :=
  .next (s.runWork stake idx 0x08 (fun wv d => s.sfu_ wv stake d))

/-! ### Ordered sums (R241, R358) -/

/-- Combine a list of 2^k words by halves (R241). -/
def treeOf (f : Nat → Nat → Nat) : Nat → List Nat → Nat
  | 0, l => l.headD 0
  | k + 1, l =>
    let h := l.length / 2
    if h = 0 then l.headD 0 else treeOf f k (List.zipWith f (l.take h) (l.drop h))

/-- The ordered sum over W lanes of terms with their index q, rising; `fused` adds term × term (R358). -/
def orderedSum (W : Nat) (fused : Bool) (l : List (Nat × Nat)) : Nat :=
  let lanes := l.foldl (fun (m : SMap Nat) x =>
    let k := x.1 % W
    let a := smGetD m k 0
    smSet m k (if fused then ffma x.2 x.2 a else fadd a x.2)) []
  treeOf fadd 8 ((below W).map (fun k => smGetD lanes k 0))

/-- FP32 quotient of a word by a count, correctly rounded. -/
def divCount (a n : Nat) : Nat := toF32 ((f32 a).div (Num.ofInt n))

/-! ### NORM -/

/-- Whether a NORM is malformed (R355, R356). -/
def normMalformed (wv : Weave) (w : Nat) : Bool :=
  let kind := bits w 768 2
  let eps := bits w 864 32
  gridMalformed wv w ||
  paramsBad w [(768, 2), (770, 1), (771, 1), (772, 1), (773, 1), (800, 21), (832, 21), (856, 8), (864, 32),
    (896, 21)] ||
  kind == 3 || (if kind = 2 then d4 w == 0 || dN w % d4 w != 0 else d4 w != 0) ||
  !(f32 eps).isFin || (f32 eps).lt Num.zero || decide (2 < bits w 856 8) || bits w 896 3 != 0

/-- Mean and variance of a set of (q, x) (R359 to R362). -/
def normStats (w : Nat) (l : List (Nat × Nat)) : Nat × Nat :=
  let ehrisk := bit w 772
  let W := if ehrisk then 32 else 128
  let n := l.length
  if n = 0 then (0, 0)
  else if bits w 768 2 = 1 then (0, divCount (orderedSum W true l) n)
  else if ehrisk then
    let mu := divCount (orderedSum 32 false l) n
    let m2 := divCount (orderedSum 32 true l) n
    (mu, fmax 0 (fsub m2 (fmul mu mu)))
  else
    let x0 := match l with
      | x :: _ => x.2
      | [] => 0
    let d := l.map (fun x => (x.1, fsub x.2 x0))
    if (dOpnd w 0).space = 0 then
      let mu := fadd x0 (divCount (orderedSum 128 false d) n)
      (mu, divCount (orderedSum 128 true (l.map (fun x => (x.1, fsub x.2 mu)))) n)
    else
      let a := orderedSum 128 false d
      let q := orderedSum 128 true d
      let m1 := divCount a n
      (fadd x0 m1, divCount (fmax 0 (fsub q (fmul a m1))) n)

/-- The sets of a NORM: for each, its in-bound elements with their index (R357). -/
def normSets (w : Nat) (els : List OutEl) : List (List (Nat × Nat)) :=
  if bits w 768 2 = 2 then
    (below (dN w / d4 w)).map (fun g =>
      (els.filter (fun e => e.j / d4 w == g)).map (fun e => (e.i * d4 w + (e.j - g * d4 w), e.v)))
  else (below (dM w)).map (fun i => (els.filter (fun e => e.i == i)).map (fun e => (e.j, e.v)))

/-- Write pairs of words at a Tray offset, one pair for each set (R363, R365). -/
def State.writeStats (s : State) (stake dst : Nat) (l : List (Nat × Nat)) : Got Unit :=
  s.placeWrite ⟨0, stake, ⟨0, 0⟩, dst⟩ 0 (l.flatMap (fun x => natLe 4 x.1 ++ natLe 4 x.2))

/-- A parameter vector of n elements as FP32 words, or a constant where it is not enabled. -/
def State.parVector (s : State) (stake src fmt n : Nat) (en : Bool) (dflt : Nat) : Got (List Nat) :=
  if en then Got.next (s.trayElems stake src (fmtBits fmt) n) (fun s l =>
    (s, .ok (l.map (fun v => toF32 (elemNum fmt v)))))
  else (s, .ok ((below n).map (fun _ => dflt)))

/-- The work of a NORM descriptor (R355 to R363). -/
def State.norm (s : State) (wv : Weave) (stake : Nat) (d : DescRun) : Got Unit :=
  let w := d.words
  if normMalformed wv w then (s, .error badItem)
  else Got.next (s.gridWords wv stake w) (fun s rows =>
    Got.next (s.parVector stake (bits w 800 21) (bits w 856 8) (dN w) (bit w 770) 0x3F800000) (fun s gam =>
      Got.next (s.parVector stake (bits w 832 21) (bits w 856 8) (dN w) (bit w 771) 0) (fun s bet =>
        let els := rowEls rows
        let st := (normSets w els).map (fun l =>
          let x := normStats w l
          (x.1, toF32 (Num.rsqrt (f32 (fadd x.2 (bits w 864 32))))))
        let out := els.map (fun e =>
          let x := (st[if bits w 768 2 = 2 then e.j / d4 w else e.i]?).getD (0, 0)
          let c := if bits w 768 2 = 1 then e.v else fsub e.v x.1
          { e with v := ffma (fmul c x.2) ((gam[e.j]?).getD 0) ((bet[e.j]?).getD 0) })
        Got.next (if bit w 773 then s.writeStats stake (bits w 896 21) st else (s, .ok ())) (fun s _ =>
          let r := s.vecRemote wv w
          r.2.output wv stake r.1 d false (dN w) (dM w) out))))

/-- NORM: layer, RMS or group normalisation (R363). -/
def execNorm (stake idx : Nat) (s : State) : Host.Outcome State Fault Refusal :=
  .next (s.runWork stake idx 0x06 (fun wv d => s.norm wv stake d))

/-! ### SMAX -/

/-- −∞ as an FP32 word. -/
abbrev negInf : Nat := 0xFF800000

/-- The soft maximum of a row: m, l and the outputs (R366 to R368). -/
def softRow (w : Nat) (row : List (Option Nat)) : (Nat × Nat) × List (Option Nat) :=
  let sc := fun v => toF32 ((f32 v).mul (scaleNum (bits w 832 32)))
  let xs := (row.zip (below row.length)).flatMap (fun x => match x.1 with
    | some v => [(x.2, sc v)]
    | none => [])
  let m := xs.foldl (fun a x => fmax a x.2) negInf
  if m = negInf then ((m, 0), row.map (fun x => x.map (fun _ => 0)))
  else
    let ex := fun v => exp2Path (fmul (fsub v m) 0x3FB8AA3B)
    let es := xs.map (fun x => (x.1, ex x.2))
    let ehrisk := bit w 769
    let l := orderedSum (if ehrisk then 32 else 128) false es
    let y := fun e => if ehrisk then fmul e (fdiv 0x3F800000 l) else fdiv e l
    ((m, l), row.map (fun x => x.map (fun v => y (ex (sc v)))))

/-- Whether an SMAX is malformed (R356, R365). -/
def smaxMalformed (wv : Weave) (w : Nat) : Bool :=
  gridMalformed wv w || paramsBad w [(768, 1), (769, 1), (800, 21), (832, 32)] || d4 w != 0 ||
  badScale (bits w 832 32) || bits w 800 3 != 0

/-- The work of an SMAX descriptor (R365 to R368). -/
def State.smax (s : State) (wv : Weave) (stake : Nat) (d : DescRun) : Got Unit :=
  let w := d.words
  if smaxMalformed wv w then (s, .error badItem)
  else Got.next (s.gridWords wv stake w) (fun s rows =>
    let rs := rows.map (softRow w)
    Got.next (if bit w 768 then s.writeStats stake (bits w 800 21) (rs.map Prod.fst) else (s, .ok ())) (fun s _ =>
      let r := s.vecRemote wv w
      r.2.output wv stake r.1 d false (dN w) (dM w) (rowEls (rs.map Prod.snd))))

/-- SMAX: the row soft maximum (R366). -/
def execSmax (stake idx : Nat) (s : State) : Host.Outcome State Fault Refusal :=
  .next (s.runWork stake idx 0x07 (fun wv d => s.smax wv stake d))

/-! ### POOL -/

/-- Whether a POOL is malformed (R301, R316). -/
def poolMalformed (wv : Weave) (w : Nat) : Bool :=
  let a := dOpnd w 0
  cvMalformed w || decide (dM w = 0 ∨ dN w = 0 ∨ 128 < dN w) || dK w != 0 || d4 w != 0 || !(vecFmt (dFmtA w)) ||
  !(opndOk wv 0 [0] a) || a.packed || scaleBad (dFmtA w) a || !(dEpilogue w) || bits w 900 2 == 3 ||
  outMalformed wv (cvRemote w) false w

/-- Reduce a window of optional words (R318). -/
def poolWindow (mode : Nat) (l : List (Option Nat)) : Nat :=
  let xs := l.flatMap (fun x => match x with
    | some v => [v]
    | none => [])
  if mode = 0 then xs.foldl fmax negInf
  else
    let sum := xs.foldl fadd 0
    if mode = 2 then sum else if xs.isEmpty then 0 else divCount sum xs.length

/-- The work of a POOL descriptor (R316 to R318). -/
def State.pool (s : State) (wv : Weave) (stake : Nat) (d : DescRun) : Got Unit :=
  let w := d.words
  let a := dOpnd w 0
  if poolMalformed wv w then (s, .error badItem)
  else
    let g := agenOf wv a (dN w) (dM w)
    let taps := cvTaps w
    Got.next (s.each (fun s x =>
      let i := x / dN w
      let j := x % dN w
      let c := cvCoords w (cvOutW w) (cvPos w + i)
      Got.next (s.opWords stake (dFmtA w) (placeOf wv stake 0 a) a
          (taps.map (fun t => g.offset [j, c.1, c.2.1, c.2.2] [0, t.1, t.2.1, t.2.2]))) (fun s l =>
        (s, .ok (⟨i, j, [j, c.1, c.2.1, c.2.2], poolWindow (bits w 900 2) l⟩ : OutEl))))
      (below (dM w * dN w))) (fun s els => s.output wv stake (cvRemote w) d false (dN w) (dM w) els)

/-- POOL: reduces windows by maximum, sum or mean (R318). -/
def execPool (stake idx : Nat) (s : State) : Host.Outcome State Fault Refusal :=
  .next (s.runWork stake idx 0x0D (fun wv d => s.pool wv stake d))

/-! ### CROP -/

/-- out_w of a CROP. -/
def crW (w : Nat) : Nat := bits w 768 16
/-- out_h of a CROP. -/
def crH (w : Nat) : Nat := bits w 784 16

/-- Whether a record's dimensions 1 to 3 do not all have stride 1, dilation 1 and pad_lo 0, as those that it does not use
do not (R284, R322).  Entry 0 has them all (R287). -/
def cropDimsBad (wv : Weave) (w : Nat) : Bool :=
  let a := dOpnd w 0
  let l := (agenOf wv a (dN w) (dM w)).dims
  a.agen != 0 && (decide (l.length < 4) || (l.drop 1).any (fun x => x.stride != 1 || x.dilation != 1 || x.pad != 0))

/-- Whether a CROP is malformed (R321, R322). -/
def cropMalformed (wv : Weave) (w : Nat) : Bool :=
  let a := dOpnd w 0
  paramsBad w [(768, 16), (784, 16), (800, 1), (801, 1), (816, 11)] ||
  decide (crW w = 0 ∨ 8192 < crW w ∨ crH w = 0 ∨ 8192 < crH w ∨ dM w = 0 ∨ dN w = 0 ∨ 128 < dN w) ||
  dK w != 0 || d4 w != 0 || !(vecFmt (dFmtA w)) || !(opndOk wv 0 [0, 1] a) || a.packed ||
  scaleBad (dFmtA w) a ||
  cropDimsBad wv w ||
  !(opndOk wv 0 [0, 1] (dOpnd w 1)) || (dOpnd w 1).packed || !(dEpilogue w) ||
  outMalformed wv (bits w 816 11) false w

/-- Whether a box entry is malformed (R320). -/
def boxMalformed (b : Nat) : Bool :=
  clearFields b [(0, 16), (16, 16), (32, 16), (48, 16), (64, 16), (80, 1), (81, 1)] != 0 ||
  decide (bits b 32 16 ≤ bits b 0 16 ∨ bits b 48 16 ≤ bits b 16 16)

/-- Pixel index and fraction of the sample for output index o of n between edges lo and hi (R323). -/
def cropSample (lo hi n o : Nat) : Int × Nat :=
  let sx : Int := (lo * 8192 : Nat) + ((2 * o + 1) * (hi - lo) * 8192 / (2 * n) : Nat) - 32768
  (sx / 65536, (sx % 65536).toNat)

/-- The samples of a coordinate in nearest or bilinear mode: index and weight in 2^−16 (R324). -/
def cropTaps (bilinear : Bool) (x : Int × Nat) : List (Int × Nat) :=
  if bilinear then [(x.1, 65536 - x.2), (x.1 + 1, x.2)]
  else [(if 32768 ≤ x.2 then x.1 + 1 else x.1, 65536)]

/-- A read coordinate in a dimension of some bound: clamped, or none out of the frame (R325). -/
def cropCoord (zero : Bool) (bound : Option Nat) (x : Int) : Option Nat :=
  match bound with
  | none => if x < 0 then (if zero then none else some 0) else some x.toNat
  | some b =>
    if 0 ≤ x ∧ x < b then some x.toNat
    else if zero ∨ b = 0 then none
    else some (max 0 (min ((b : Int) - 1) x)).toNat

/-- The output elements of one pixel of a box (R323 to R325). -/
def State.cropPixel (s : State) (wv : Weave) (stake w b box oy ox : Nat) : Got (List OutEl) :=
  let a := dOpnd w 0
  let g := agenOf wv a (dN w) (dM w)
  let bnd := fun n => (g.dims[n]?).map AgDim.bound
  let ox' := if bit box 80 then crW w - 1 - ox else ox
  let xs := cropTaps (bit w 800) (cropSample (bits box 0 16) (bits box 32 16) (crW w) ox')
  let ys := cropTaps (bit w 800) (cropSample (bits box 16 16) (bits box 48 16) (crH w) oy)
  let taps := ys.flatMap (fun y => xs.map (fun x =>
    (cropCoord (bit w 801) (bnd 1) x.1, cropCoord (bit w 801) (bnd 2) y.1, x.2 * y.2)))
  let off := fun j (t : Option Nat × Option Nat × Nat) => match t.1, t.2.1 with
    | some x, some y => g.offset [j, x, y, bits box 64 16] []
    | _, _ => none
  let offs := (below (dN w)).flatMap (fun j => taps.map (off j))
  Got.next (s.opValues stake (dFmtA w) (placeOf wv stake 0 a) a PackRd.empty (offs.map (fun e => (e, 0))))
    (fun s vals =>
      (s, .ok (((pieces taps.length vals.2).zip (below (dN w))).map (fun v =>
        let y := Num.sum ((v.1.zip taps).map (fun t =>
          let x := t.1.getD Num.zero
          if bit w 800 then x.mul (.fin false t.2.2.2 (-32)) else x))
        (⟨(b * crH w + oy) * crW w + ox, v.2, [v.2, ox, oy, b], toF32 y⟩ : OutEl)))))

/-- The work of a CROP descriptor (R320 to R326). -/
def State.crop (s : State) (wv : Weave) (stake : Nat) (d : DescRun) : Got Unit :=
  let w := d.words
  if cropMalformed wv w then (s, .error badItem)
  else Got.next (s.each (fun s b =>
    Got.next (s.placeRead (placeOf wv stake 0 (dOpnd w 1)) (16 * b : Nat) 16) (fun s bs =>
      let box := leNat bs
      if boxMalformed box then (s, .error badItem)
      else if bit box 81 then (s, .ok ())
      else Got.next (s.each (fun s k => s.cropPixel wv stake w b box (k / crW w) (k % crW w))
          (below (crW w * crH w))) (fun s els =>
        s.output wv stake (bits w 816 11) d false (dN w) (dM w) els.flatten)))
    (below (dM w))) (fun s _ => (s, .ok ()))

/-- CROP: cuts boxes from frames and resamples them (R323). -/
def execCrop (stake idx : Nat) (s : State) : Host.Outcome State Fault Refusal :=
  .next (s.runWork stake idx 0x0C (fun wv d => s.crop wv stake d))

end Sys2Proof.Machine
end

