-- ==== Sys2Proof/Machine/Vprog.lean ====
section
/-!
DEFINITION. Vector microprograms: VPROG and its instructions (R237 to R243, R275 to R277).
-/

namespace Sys2Proof.Machine

/-! ### The instruction word (R239, R240) -/

/-- op of an instruction. -/
def iOp (x : Nat) : Nat := bits x 0 6
/-- d or v. -/
def iD (x : Nat) : Nat := bits x 6 5
/-- a. -/
def iA (x : Nat) : Nat := bits x 11 5
/-- b of VR. -/
def iB (x : Nat) : Nat := bits x 16 5
/-- c of VR. -/
def iC (x : Nat) : Nat := bits x 21 5

/-- The reserved bits of an opcode's format, or none where the opcode is undefined. -/
def iReserved (op : Nat) : Option (List (Nat × Nat)) :=
  if op = 0x14 then some [(24, 8)]
  else if 0x01 ≤ op ∧ op ≤ 0x1A then some [(26, 6)]
  else if op = 0x20 ∨ op = 0x21 then some []
  else if op = 0x22 ∨ op = 0x23 then some [(17, 15)]
  else if 0x30 ≤ op ∧ op ≤ 0x32 then some [(14, 2)]
  else if op = 0x33 ∨ op = 0x34 then some [(18, 14)]
  else if 0x38 ≤ op ∧ op ≤ 0x3A then some [(14, 2), (26, 6)]
  else if op = 0x3F then some [(6, 26)]
  else none

/-! ### Registers (R238) -/

/-- A vector register: 128 words. -/
def VprogSt.v (p : VprogSt) (k : Nat) : List Nat := smGetD p.vregs k ((below 128).map (fun _ => 0))

/-- Write a vector register. -/
def VprogSt.setV (p : VprogSt) (k : Nat) (l : List Nat) : VprogSt := { p with vregs := smSet p.vregs k l }

/-- A scalar register; s0 reads as 0. -/
def VprogSt.r (p : VprogSt) (k : Nat) : Nat := smGetD p.sregs k 0

/-- Write a scalar register; writes to s0 are discarded. -/
def VprogSt.setR (p : VprogSt) (k v : Nat) : VprogSt :=
  if k = 0 then p else { p with sregs := smPut 0 p.sregs k (v % 2 ^ 32) }

/-! ### Running -/

/-- End a VPROG: its descriptor ends and its registers are gone. -/
def State.vpEnd (s : State) (stake idx : Nat) (d : Done) : State :=
  match smGet s.stakes stake with
  | none => s
  | some x => (s.setStake stake { x with vp := none }).descEnd stake idx d

/-- Keep a VPROG's registers; a program past its last instruction ends as at END, and an undefined
opcode at the next instruction stops it (R243). -/
def State.vpKeep (s : State) (stake : Nat) (p : VprogSt) : State :=
  match p.prog[p.pc]? with
  | none => s.vpEnd stake p.idx (Done.plain stOk)
  | some x =>
    if (iReserved (iOp x)).isNone then s.vpEnd stake p.idx (Done.malformed p.idx)
    else match smGet s.stakes stake with
      | none => s
      | some y => s.setStake stake { y with vp := some p }

/-- Instructions that a VPROG may execute (R243). -/
abbrev vpLimit : Nat := 16777216

/-- Execute the instruction at the program counter, where its opcode is `op`.  `act` answers the state
and the registers, the program counter already advanced, or how the VPROG ends. -/
def State.vpStep (s : State) (stake op : Nat)
    (act : State → Weave → DescRun → VprogSt → Nat → State × Except Done VprogSt) : State :=
  match smGet s.stakes stake, s.weaveOf stake with
  | some x, some wv =>
    match x.vp with
    | none => s
    | some p =>
      match p.prog[p.pc]?, x.desc p.idx with
      | some i, some d =>
        if iOp i ≠ op ∨ vpLimit ≤ p.steps then s
        else if ((iReserved op).getD []).any (fun f => bits i f.1 f.2 != 0) then
          s.vpEnd stake p.idx (Done.malformed p.idx)
        else
          match act s wv d { p with pc := p.pc + 1, steps := p.steps + 1 } i with
          | (s, .ok p) => s.vpKeep stake p
          | (s, .error e) => s.vpEnd stake p.idx (if e.status = stWeaveImage then Done.malformed p.idx else e)
      | _, _ => s
  | _, _ => s

/-- An instruction that computes a vector register lane by lane from v[a], v[b] and v[c]. -/
def State.vpLanes (s : State) (stake op : Nat) (f : Nat → Nat → Nat → Nat) : State :=
  s.vpStep stake op (fun s _ _ p i =>
    (s, .ok (p.setV (iD i) (((p.v (iA i)).zip ((p.v (iB i)).zip (p.v (iC i)))).map (fun x => f x.1 x.2.1 x.2.2)))))

/-- An instruction that computes the registers alone. -/
def State.vpRegs (s : State) (stake op : Nat) (f : VprogSt → Nat → VprogSt) : State :=
  s.vpStep stake op (fun s _ _ p i => (s, .ok (f p i)))

/-! ### VPROG -/

/-- Whether a VPROG is malformed (R224, R237, R246, R251, R458). -/
def vprogMalformed (w : Nat) : Bool :=
  paramsBad w [(768, 21), (800, 10), (832, 32), (864, 32), (896, 32), (928, 32)] || bits w 768 2 != 0 ||
  decide (trayBytes < bits w 768 21 + 4 * (bits w 800 10 + 1)) ||
  !(fmtCodes.contains (dFmtA w)) || !(fmtCodes.contains (dFmtB w)) || !(fmtCodes.contains (dFmtOut w)) ||
  [(0, dFmtA w), (1, dFmtB w), (2, dFmtOut w)].any (fun x =>
    (dOpnd w x.1).used && ((dOpnd w x.1).packed || scaleBad x.2 (dOpnd w x.1)))

/-- VPROG: loads a microprogram from the Tray and begins it at instruction 0 (R237, R238). -/
def execVprog (stake idx : Nat) (s : State) : Host.Outcome State Fault Refusal :=
  match s.descReady stake idx 0x09 with
  | none => .next s
  | some (x, _, d) =>
    let w := d.words
    if x.vp.isSome then .next s
    else if vprogMalformed w then .next (s.descEnd stake idx (Done.malformed idx))
    else
      let prog := (below (bits w 800 10 + 1)).map (fun i => leNat (s.trayN stake (bits w 768 21 + 4 * i) 4))
      let off := fun k => if (dOpnd w k).space = 0 then (dOpnd w k).addr % 2 ^ 21 else 0
      let init := [(1, bits w 832 32), (2, bits w 864 32), (3, bits w 896 32), (4, bits w 928 32), (5, off 0),
        (6, off 1), (7, off 2)]
      let p : VprogSt := ⟨idx, prog, 0, 0, init.foldl (fun m e => smPut 0 m e.1 e.2) [], []⟩
      .next (s.vpKeep stake p)

/-- VPROG_INSTRUCTION_LIMIT: the 16,777,217th instruction without END stops the VPROG (R243). -/
def execVprogInstructionLimit (stake : Nat) (s : State) : Host.Outcome State Fault Refusal :=
  match smGet s.stakes stake with
  | some x => match x.vp with
    | some p =>
      if vpLimit ≤ p.steps ∧ ((p.prog[p.pc]?).map iOp) ≠ some 0x3F then
        .next (s.vpEnd stake p.idx (Done.malformed p.idx))
      else .next s
    | none => .next s
  | none => .next s

/-! ### Vector arithmetic -/

/-- VADD. -/
def execVadd (stake : Nat) (s : State) : Host.Outcome State Fault Refusal :=
  .next (s.vpLanes stake 0x01 (fun a b _ => fadd a b))
/-- VSUB. -/
def execVsub (stake : Nat) (s : State) : Host.Outcome State Fault Refusal :=
  .next (s.vpLanes stake 0x02 (fun a b _ => fsub a b))
/-- VMUL. -/
def execVmul (stake : Nat) (s : State) : Host.Outcome State Fault Refusal :=
  .next (s.vpLanes stake 0x03 (fun a b _ => fmul a b))
/-- VFMA: one rounding. -/
def execVfma (stake : Nat) (s : State) : Host.Outcome State Fault Refusal :=
  .next (s.vpLanes stake 0x04 ffma)
/-- VMAX (R276). -/
def execVmax (stake : Nat) (s : State) : Host.Outcome State Fault Refusal :=
  .next (s.vpLanes stake 0x05 (fun a b _ => fmax a b))
/-- VMIN (R276). -/
def execVmin (stake : Nat) (s : State) : Host.Outcome State Fault Refusal :=
  .next (s.vpLanes stake 0x06 (fun a b _ => fmin a b))
/-- VABS (R275). -/
def execVabs (stake : Nat) (s : State) : Host.Outcome State Fault Refusal :=
  .next (s.vpLanes stake 0x07 (fun a _ _ => toF32 (f32 a).abs))
/-- VNEG (R275). -/
def execVneg (stake : Nat) (s : State) : Host.Outcome State Fault Refusal :=
  .next (s.vpLanes stake 0x08 (fun a _ _ => toF32 (f32 a).neg))

/-- All ones for true. -/
def maskOf (b : Bool) : Nat := if b then 0xFFFFFFFF else 0

/-- VCMPLT (R276). -/
def execVcmplt (stake : Nat) (s : State) : Host.Outcome State Fault Refusal :=
  .next (s.vpLanes stake 0x09 (fun a b _ => maskOf ((f32 a).lt (f32 b))))
/-- VCMPEQ (R276). -/
def execVcmpeq (stake : Nat) (s : State) : Host.Outcome State Fault Refusal :=
  .next (s.vpLanes stake 0x0A (fun a b _ => maskOf ((f32 a).eqv (f32 b))))
/-- VSEL. -/
def execVsel (stake : Nat) (s : State) : Host.Outcome State Fault Refusal :=
  .next (s.vpLanes stake 0x0B (fun a b c => if c ≠ 0 then a else b))
/-- VAND. -/
def execVand (stake : Nat) (s : State) : Host.Outcome State Fault Refusal :=
  .next (s.vpLanes stake 0x0C (fun a b _ => Nat.land a b))
/-- VOR. -/
def execVor (stake : Nat) (s : State) : Host.Outcome State Fault Refusal :=
  .next (s.vpLanes stake 0x0D (fun a b _ => Nat.lor a b))
/-- VXOR. -/
def execVxor (stake : Nat) (s : State) : Host.Outcome State Fault Refusal :=
  .next (s.vpLanes stake 0x0E (fun a b _ => Nat.xor a b))
/-- VIADD: modulo 2^32. -/
def execViadd (stake : Nat) (s : State) : Host.Outcome State Fault Refusal :=
  .next (s.vpLanes stake 0x0F (fun a b _ => (a + b) % 2 ^ 32))
/-- VSHL: shift count modulo 32. -/
def execVshl (stake : Nat) (s : State) : Host.Outcome State Fault Refusal :=
  .next (s.vpLanes stake 0x10 (fun a b _ => a * 2 ^ (b % 32) % 2 ^ 32))
/-- VSHR: logical, shift count modulo 32. -/
def execVshr (stake : Nat) (s : State) : Host.Outcome State Fault Refusal :=
  .next (s.vpLanes stake 0x11 (fun a b _ => a / 2 ^ (b % 32)))
/-- VCVTI: INT32 to FP32, nearest even. -/
def execVcvti (stake : Nat) (s : State) : Host.Outcome State Fault Refusal :=
  .next (s.vpLanes stake 0x12 (fun a _ _ => toF32 (Num.ofInt (toSigned 32 a))))
/-- VCVTF: FP32 to INT32, nearest even, saturating (R276). -/
def execVcvtf (stake : Nat) (s : State) : Host.Outcome State Fault Refusal :=
  .next (s.vpLanes stake 0x13 (fun a _ _ => intConv .even 32 (f32 a)))

/-- VSFU: function func through the SFU, in the slot that the VPROG resolved as it started (R344). -/
def execVsfu (stake : Nat) (s : State) : Host.Outcome State Fault Refusal :=
  .next (s.vpStep stake 0x14 (fun s _ d p i =>
    match d.binds.find? (fun b => b.1 == bits i 16 8) with
    | none => (s, .error (Done.plain stTableUnbound))
    | some b => (s, .ok (p.setV (iD i) ((p.v (iA i)).map (fun x => s.sfuSlotEval stake b.2 x 0))))))

/-- VEXP2: 2^x through the exponential path (R339). -/
def execVexp2 (stake : Nat) (s : State) : Host.Outcome State Fault Refusal :=
  .next (s.vpLanes stake 0x15 (fun a _ _ => exp2Path a))

/-- VBCAST: every lane takes a scalar register. -/
def execVbcast (stake : Nat) (s : State) : Host.Outcome State Fault Refusal :=
  .next (s.vpStep stake 0x16 (fun s _ _ p i =>
    if 15 < iA i then (s, .error badItem)
    else (s, .ok (p.setV (iD i) ((below 128).map (fun _ => p.r (iA i)))))))

/-- VIDX: each lane takes its index. -/
def execVidx (stake : Nat) (s : State) : Host.Outcome State Fault Refusal :=
  .next (s.vpRegs stake 0x17 (fun p i => p.setV (iD i) (below 128)))

/-- VRSUM: the lanes summed by the tree of R241. -/
def execVrsum (stake : Nat) (s : State) : Host.Outcome State Fault Refusal :=
  .next (s.vpRegs stake 0x18 (fun p i =>
    let x := treeOf fadd 7 (p.v (iA i))
    p.setV (iD i) ((below 128).map (fun _ => x))))

/-- VRMAX: the maximum of the lanes by the tree of R241. -/
def execVrmax (stake : Nat) (s : State) : Host.Outcome State Fault Refusal :=
  .next (s.vpRegs stake 0x19 (fun p i =>
    let x := treeOf fmax 7 (p.v (iA i))
    p.setV (iD i) ((below 128).map (fun _ => x))))

/-- VMOVS: a scalar register takes one lane. -/
def execVmovs (stake : Nat) (s : State) : Host.Outcome State Fault Refusal :=
  .next (s.vpStep stake 0x1A (fun s _ _ p i =>
    if 15 < iD i ∨ 15 < iB i then (s, .error badItem)
    else (s, .ok (p.setR (iD i) (((p.v (iA i))[p.r (iB i) % 128]?).getD 0)))))

/-! ### Loads and stores -/

/-- The scalar register of a VM or VA instruction. -/
def iS (x : Nat) : Nat := bits x 11 4

/-- Bytes of an element of a VM instruction. -/
def vmBytes (i : Nat) : Nat := if bits i 15 2 = 1 ∨ bits i 15 2 = 2 then 2 else 4

/-- The Tray offset of a VM instruction, or none where it is misaligned or outside the Tray (R243). -/
def vmAddr (p : VprogSt) (i : Nat) : Option Nat :=
  let a := ofSigned 32 ((p.r (iS i) : Int) + toSigned 15 (bits i 17 15) * 64)
  if a % 64 ≠ 0 ∨ trayBytes < a + 128 * vmBytes i then none else some a

/-- VLD: 128 elements from the Tray, widened exactly (R277). -/
def execVld (stake : Nat) (s : State) : Host.Outcome State Fault Refusal :=
  .next (s.vpStep stake 0x20 (fun s _ _ p i =>
    match vmAddr p i with
    | none => (s, .error badItem)
    | some a =>
      let n := vmBytes i
      let raw := (below 128).map (fun k => leNat (s.trayN stake (a + n * k) n))
      (s, .ok (p.setV (iD i) (if n = 2 then raw.map (fun x => toF32 (elemNum (bits i 15 2) x)) else raw)))))

/-- VST: 128 elements to the Tray, converted with nearest even (R277). -/
def execVst (stake : Nat) (s : State) : Host.Outcome State Fault Refusal :=
  .next (s.vpStep stake 0x21 (fun s _ _ p i =>
    match vmAddr p i with
    | none => (s, .error badItem)
    | some a =>
      let f := bits i 15 2
      let c := fun x => if f = 3 then x else elemConv f .even (f32 x)
      (s.setTrayN stake a ((p.v (iD i)).flatMap (fun x => natLe (vmBytes i) (c x))), .ok p)))

/-- Whether a VA instruction's tile is one that the descriptor names (R243). -/
def vaTileOk (d : DescRun) (i : Nat) : Bool :=
  decide (dAccFirst d.words ≤ bits i 15 2 ∧ bits i 15 2 ≤ dAccFirst d.words + dAccCount d.words)

/-- VLDA: a row of an accumulator tile. -/
def execVlda (stake : Nat) (s : State) : Host.Outcome State Fault Refusal :=
  .next (s.vpStep stake 0x22 (fun s _ d p i =>
    if ¬ vaTileOk d i then (s, .error badItem)
    else (s, .ok (p.setV (iD i) ((below 128).map (fun j => s.acc stake (bits i 15 2) (p.r (iS i) % 128) j))))))

/-- VSTA: a row of an accumulator tile takes a vector register. -/
def execVsta (stake : Nat) (s : State) : Host.Outcome State Fault Refusal :=
  .next (s.vpStep stake 0x23 (fun s _ d p i =>
    if ¬ vaTileOk d i then (s, .error badItem)
    else (((p.v (iD i)).zip (below 128)).foldl (fun s x =>
      s.setAcc stake (bits i 15 2) (p.r (iS i) % 128) x.2 x.1) s, .ok p)))

/-! ### Scalars and branches -/

/-- sd of SI and SR. -/
def iSd (x : Nat) : Nat := bits x 6 4
/-- sa of SI and SR, sb of BR. -/
def iSa (x : Nat) : Nat := bits x 10 4

/-- SADDI: signed immediate. -/
def execSaddi (stake : Nat) (s : State) : Host.Outcome State Fault Refusal :=
  .next (s.vpRegs stake 0x30 (fun p i =>
    p.setR (iSd i) (ofSigned 32 ((p.r (iSa i) : Int) + toSigned 16 (bits i 16 16)))))
/-- SLUI. -/
def execSlui (stake : Nat) (s : State) : Host.Outcome State Fault Refusal :=
  .next (s.vpRegs stake 0x31 (fun p i => p.setR (iSd i) (bits i 16 16 * 65536)))
/-- SORI: unsigned immediate. -/
def execSori (stake : Nat) (s : State) : Host.Outcome State Fault Refusal :=
  .next (s.vpRegs stake 0x32 (fun p i => p.setR (iSd i) (Nat.lor (p.r (iSa i)) (bits i 16 16))))
/-- SADD: modulo 2^32. -/
def execSadd (stake : Nat) (s : State) : Host.Outcome State Fault Refusal :=
  .next (s.vpRegs stake 0x33 (fun p i => p.setR (iSd i) (p.r (iSa i) + p.r (bits i 14 4))))
/-- SMUL: the low 32 bits. -/
def execSmul (stake : Nat) (s : State) : Host.Outcome State Fault Refusal :=
  .next (s.vpRegs stake 0x34 (fun p i => p.setR (iSd i) (p.r (iSa i) * p.r (bits i 14 4))))

/-- A branch: to its target when the test holds; a target outside the program is malformed (R243). -/
def State.vpBranch (s : State) (stake op : Nat) (test : Nat → Nat → Bool) : State :=
  s.vpStep stake op (fun s _ _ p i =>
    let t := bits i 16 10
    if p.prog.length ≤ t then (s, .error badItem)
    else (s, .ok (if test (p.r (bits i 6 4)) (p.r (bits i 10 4)) then { p with pc := t } else p)))

/-- BNE. -/
def execBne (stake : Nat) (s : State) : Host.Outcome State Fault Refusal :=
  .next (s.vpBranch stake 0x38 (fun a b => a != b))
/-- BLT: signed. -/
def execBlt (stake : Nat) (s : State) : Host.Outcome State Fault Refusal :=
  .next (s.vpBranch stake 0x39 (fun a b => decide (toSigned 32 a < toSigned 32 b)))
/-- JMP. -/
def execJmp (stake : Nat) (s : State) : Host.Outcome State Fault Refusal :=
  .next (s.vpBranch stake 0x3A (fun _ _ => true))

/-- END: the microprogram ends, whatever its count of instructions. -/
def execEndProgram (stake : Nat) (s : State) : Host.Outcome State Fault Refusal :=
  match smGet s.stakes stake with
  | some x => match x.vp with
    | some p => match p.prog[p.pc]? with
      | some i =>
        if iOp i ≠ 0x3F then .next s
        else .next (s.vpEnd stake p.idx (if bits i 6 26 = 0 then Done.plain stOk else Done.malformed p.idx))
      | none => .next s
    | none => .next s
  | none => .next s

end Sys2Proof.Machine
end

