-- ==== Sys2Proof/Machine/Hbm.lean ====
section
/-!
DEFINITION. HBM stacks, the Creel's requests and ways, patrol scrub, the memory-side adders and
SCATTER_ADD (R475 to R515).
-/

namespace Sys2Proof.Machine

/-! ### Errors and health (R475 to R478, R485 to R490, R499) -/

/-- Mark the sector of an address, or its word of scratch, as holding an uncorrectable word. -/
def State.spoil (s : State) (a : Nat) : State :=
  match s.region a with
  | .scratch _ _ =>
    if s.ms.badWords.contains (a / 4) then s else { s with ms := { s.ms with badWords := s.ms.badWords ++ [a / 4] } }
  | _ => if s.ms.bad.contains (a / 64) then s else { s with ms := { s.ms with bad := s.ms.bad ++ [a / 64] } }

/-- Whether the stacks serve accesses: not in self-refresh, which a reset and Hold keep them in, and trained (R474). -/
def State.memUp (s : State) : Bool :=
  !s.pwr.off && s.pwr.stage == 0 && s.rg R.pwrStatusHoldState 0 == 0 && s.rg R.hdlStatusState 0 != 2

/-- A read of a channel met a correctable error: counted in the channel and in the count window; at
half of ce_limit the channel is SUSPECT, at ce_limit PENDING (R475, R476). -/
def State.noteCe (s : State) (ch : Nat) : State :=
  let n := smGetD s.ms.ceWindow ch 0 + 1
  let lim := s.rg R.memHealthCfgCeLimit 0
  let s := (s.rsat R.memChanCeCe ch 1)
  let s := { s with ms := { s.ms with ceWindow := smSet s.ms.ceWindow ch n } }
  if lim ≤ n then s.setPending ch
  else if lim ≤ 2 * n ∧ s.healthOf ch = 0 then s.changeHealth ch 1 else s

/-- Drop the Creel line of an address; answers whether its sector was dirty (R499, R505). -/
def State.dropLine (s : State) (c a : Nat) : State × Bool :=
  let la := a / 128
  let set := creelSet la
  let ls := smGetD s.ms.creel (c * 262144 + set) []
  match ls.find? (fun l => l.la == la) with
  | none => (s, false)
  | some l => (s.setLines c set (ls.filter (fun x => x.la != la)), if a / 64 % 2 = 0 then l.d0 else l.d1)

/-- What an error met by an access does first.  `err` is 0 for none; 1 to 36 the symbols of a 256-bit HBM word, or of a
Hamper transfer, that are in error, of which RS(36,32) corrects up to 2 (R485); 100 + b the bits of a 32-bit SRAM word
in error, of which SECDED corrects one (R489).  Errors of HBM meet an access that the Creel does not serve, those of the
Creel one that it serves.  Answers whether the request ends with ST_MEM_UNCORRECTABLE although the word can be read
again (R476, R487, R499). -/
def State.meetError (s : State) (a err : Nat) : State × Bool :=
  let fixed := decide (1 ≤ err ∧ err ≤ hbmLimit)
  let lost := decide (hbmLimit < err ∧ err ≤ 36)
  match s.region a with
  | .hbm =>
    match s.coilOf a, s.channelOf a with
    | some c, some (ch, _) =>
      if ¬ s.cached a then (if fixed then s.noteCe ch else if lost then s.spoil a else s, false)
      else if err = 101 then (s.rsat R.creelEccCeCount c 1, false)
      else if err < 102 then (s, false)
      else
        let r := (s.rsat R.creelEccUeCount c 1).dropLine c a
        if r.2 then ((r.1.radd R.creelWritebacksCount c 1).spoil a, true) else (r.1, true)
    | _, _ => (s, false)
  | .scratch c _ =>
    if err = 101 then (s.rsat R.creelEccCeCount c 1, false) else if 101 < err then (s.spoil a, false) else (s, false)
  | .hamper =>
    match s.hamperOf a with
    | some (ch, _) => (if fixed then s.rsat R.hampChanStateCe ch 1 else if lost then s.spoil a else s, false)
    | none => (s, false)
  | _ => (s, false)

/-- Whether a write reads the word that it changes: it covers no whole sector, or no whole word of scratch (R473,
R499). -/
def State.mergesAt (s : State) (a n : Nat) : Bool :=
  match s.region a with
  | .scratch _ _ => a % 4 != 0 || n % 4 != 0
  | _ => a % 64 != 0 || n % 64 != 0

/-- The node of the mesh that serves an address: the Coil of a window or of scratch, the Border die of a Hamper channel,
Border die 0 for host memory (R21, R22). -/
def State.memNode (s : State) (a : Nat) : Option Nat :=
  match s.region a with
  | .hbm => s.coilOf a
  | .scratch c _ => some c
  | .hamper => (s.hamperOf a).map (fun x => 16 + x.1 / 32)
  | .host => some 16
  | .unbacked => none

/-- A transfer between a requester and what serves an address crosses the mesh (R28 to R30). -/
def State.crossMesh (s : State) (src a : Nat) : State :=
  match s.memNode a with
  | none => s
  | some d => if d = src then s else s.emit (.mesh (meshRoute src d (.access a)))

/-- CREEL_REQUEST: a read or write of a requester (`who`: its node of the mesh and its context) at a module physical
address reaches its Creel, or the unit that owns the address, with the policy and the error that the access meets.  The requester is answered with
the bytes of a read, or zeros where the address is unbacked, and with the status, and by a poisoned completion where a
read met an error; `data` is what a write stores, empty for a read of n bytes (R28 to R30, R41, R496 to R499).  While the
stacks are in self-refresh nothing reaches them (R474). -/
def execCreelRequest (who : Nat × Nat) (addr n : Nat) (write noAlloc : Bool) (data : List Byte) (err : Nat) (s : State) :
    Host.Outcome State Fault Refusal :=
  if ¬ s.memUp then .next s
  else
    let s := s.crossMesh who.1 addr
    let e := if write ∧ ¬ s.mergesAt addr n then (s, false) else s.meetError addr err
    if e.2 then .next ((if write then e.1 else e.1.emit (.poisoned addr)).emit (.status stMemUncorrectable))
    else if write then
      let w := e.1.pwrite who.2 addr data noAlloc
      .next (w.s.emit (.status w.st))
    else
      let r := e.1.pread who.2 addr n noAlloc
      let s := r.s.emit (if r.st = 0 then .readData (leNat r.bs)
        else if r.st = stMemUnbacked then .readData 0 else .poisoned addr)
      .next (s.emit (.status r.st))

/-- CE_WINDOW_END: a count window of 2^window_log2 Rounds ends; counting restarts, and a channel that
was SUSPECT in it is GOOD (R475, R476). -/
def execCeWindowEnd (s : State) : Host.Outcome State Fault Refusal :=
  if s.round % 2 ^ s.rg R.memHealthCfgWindowLog2 0 ≠ 0 then .next s
  else
    let s := (below 1024).foldl (fun s ch => if s.healthOf ch = 1 then s.changeHealth ch 0 else s) s
    .next { s with ms := { s.ms with ceWindow := [] } }

/-- The module physical address of a channel address, the inverse of R482 (R483). -/
def State.chanAddr (s : State) (ch ca : Nat) : Option Nat :=
  let c := ch / 64
  let live := s.liveOf c
  let n := live.length
  if ¬ live.contains ch then none
  else
    let slot := (live.takeWhile (fun x => x != ch)).length
    let row := ca / 2048
    let k := (slot + n - row % n) % n
    some (s.rg R.memWindowBaseBase c + (row * n + k) * 2048 + ca % 2048)

/-- PATROL_SCRUB_READ: the controller reads a word of a live channel; it corrects, counts and reports
what it meets and passes no data (R483, R486 to R488).  `err` counts the symbols of the word in error, `last` says that the
pass ends with it. -/
def execPatrolScrubRead (ch ca err : Nat) (last : Bool) (s : State) : Host.Outcome State Fault Refusal :=
  if ¬ s.rb R.memScrubCfgEnable 0 ∨ ¬ s.memUp ∨ 0xC0000000 ≤ ca then .next s
  else
    match s.chanAddr ch ca with
    | none => .next s
    | some a =>
      let s := (s.rset R.memStatusScrubActive 0 (b2n (!last)))
      let s := if err = 0 then s else if err ≤ hbmLimit then s.noteCe ch else s.spoil a
      .next (if s.ms.bad.contains (a / 64) then s.noteUe a else s)

/-- MEM_MAPOUT: a write that requests it moves the named live channel to PENDING (R476). -/
def execMemMapout (value fn : Nat) (s : State) : Host.Outcome State Fault Refusal :=
  if ¬ s.barOpen 0x600000 then .next s else
  if fn = 0 ∧ bit value 31 then .next (s.setPending (bits value 0 10)) else .next s

/-! ### Ways (R491 to R493) -/

/-- First address of scratch way w of Coil c (R39). -/
def scratchBase (c w : Nat) : Nat := 0x200000000000 + c * 0x20000000 + w * 0x02000000

/-- Every byte of a scratch way is zero, and its bad words are gone. -/
def State.zeroWay (s : State) (c w : Nat) : State :=
  let b := scratchBase c w
  { s with
    mem := smFilter (fun a => !(decide (b ≤ a ∧ a < b + 0x02000000))) s.mem
    ms := { s.ms with badWords := s.ms.badWords.filter (fun k => !(decide (b / 4 ≤ k ∧ k < (b + 0x02000000) / 4))) } }

/-- Take a way out of a Coil's cache: in each set the line that the way held, if it held one, is
written back and dropped.  Which line a way holds is a free choice. -/
def State.dropWay (s : State) (c ways : Nat) : State :=
  (s.ms.creel.filter (fun e => e.1 / 262144 == c)).foldl (fun s e =>
    let f := s.fresh
    let i := f.1 % ways
    match e.2[i]? with
    | none => f.2
    | some l => (f.2.setLines c (e.1 % 262144) (e.2.eraseIdx i)).writeBack 0 c [l]) s

/-- CREEL_WAYCFG: a write converts ways to scratch, starting write-back and zeroing, or returns scratch
ways to the cache at once (R492, R493). -/
def execCreelWaycfg (coil value fn : Nat) (s : State) : Host.Outcome State Fault Refusal :=
  if ¬ s.barOpen 0x700000 then .next s else
  if fn ≠ 0 ∨ 16 ≤ coil ∨ s.rb R.creelWaycfgBusy coil then .next s
  else
    let old := s.rg R.creelWaycfgScratch coil
    let new := bits value 0 16
    let up := (below 16).filter (fun w => bit new w && !bit old w)
    let down := (below 16).filter (fun w => bit old w && !bit new w)
    let s := down.foldl (fun s w => s.zeroWay coil w) s
    let s := (up.zip (below up.length)).foldl (fun s x => s.dropWay coil (16 - popcount 16 old - x.2)) s
    let s := s.rset R.creelWaycfgScratch coil new
    if up.isEmpty then .next s
    else
      let m := (up.map (fun w => 2 ^ w)).sum
      .next ({ s with ms := { s.ms with converting := smSet s.ms.converting coil m } }.rset R.creelWaycfgBusy coil 1)

/-- SCRATCH_READY: the write-back and zeroing of a Coil's converted ways end (R492). -/
def execScratchReady (coil : Nat) (s : State) : Host.Outcome State Fault Refusal :=
  let m := smGetD s.ms.converting coil 0
  if ¬ s.rb R.creelWaycfgBusy coil then .next s
  else
    let s := (onesOf 16 m).foldl (fun s w => s.zeroWay coil w) s
    .next ({ s with ms := { s.ms with converting := smErase s.ms.converting coil } }.rset R.creelWaycfgBusy coil 0)

/-! ### Memory-side adders (R500 to R506) -/

/-- The sum of a stored element and an addend of a source format (R500, R501, R514). -/
def addElemCode (fmt src stored x : Nat) : Nat :=
  if fmt = 0x10 ∨ fmt = 0x13 then
    ofSigned (fmtBits fmt) (toSigned (fmtBits fmt) stored + toSigned (fmtBits src) x)
  else elemConv fmt .even ((elemNum fmt stored).add (elemNum src x))

/-- Formats that the adders take (R500). -/
def addFmt (f : Nat) : Bool := f == 0x00 || f == 0x01 || f == 0x10 || f == 0x13

/-- Add into the elements of a sector that a mask covers, in rising order. -/
def addSector (fmt src mask : Nat) : List Nat → Nat → List Nat → List Nat
  | [], _, _ => []
  | x :: xs, k, l =>
    if bit mask k then addElemCode fmt src x (l.headD 0) :: addSector fmt src mask xs (k + 1) l.tail
    else x :: addSector fmt src mask xs (k + 1) l

/-- Apply an add request to its sector: the Creel's line is written back and dropped, and the elements
are added to (R502 to R506).  Answers the status. -/
def State.applyAdd (s : State) (r : AddReq) : State × Status :=
  if ¬ addFmt r.fmt ∨ r.addr % 64 ≠ 0 ∨ s.region r.addr ≠ .hbm then (s, stMemAdderFormat)
  else
    match s.coilOf r.addr with
    | none => (s, stMemAdderFormat)
    | some c =>
      let la := r.addr / 128
      let ls := smGetD s.ms.creel (c * 262144 + creelSet la) []
      let s := (s.setLines c (creelSet la) (ls.filter (fun l => l.la != la))).writeBack r.ctx c (ls.filter (fun l => l.la == la))
      if s.ms.bad.contains (r.addr / 64) then (s.noteUe r.addr, stMemUncorrectable)
      else
        let b := fmtBits r.fmt / 8
        let old := (pieces b (s.bytes r.addr 64)).map leNat
        let new := addSector r.fmt r.src r.mask old 0 r.addends
        let s := s.setBytes r.addr (new.flatMap (natLe b))
        ((s.charge r.ctx 0 64).radd R.memAddOpsCount 0 (popcount (64 / b) r.mask), stOk)

/-- A request with its number, put behind the others. -/
def State.pushAdd (s : State) (r : AddReq) : State :=
  { s with ms := { s.ms with adds := s.ms.adds ++ [{ r with id := s.ms.nextAdd }], nextAdd := s.ms.nextAdd + 1 } }

/-- Element of a hoop's registers. -/
def hoopElem (coil hoop : Nat) : Nat := coil * 64 + hoop

/-- Whether an ordered add names a hoop, address or tag that it may not (R508). -/
def State.hoopBad (s : State) (r : AddReq) : Bool :=
  let h := hoopElem r.coil r.hoop
  let b := s.rg R.memHoopBaseBase h
  !(s.rb R.memHoopCfgEnable h) || decide (r.addr < b ∨ b + s.rg R.memHoopLenLength h ≤ r.addr) ||
  s.coilOf r.addr != some r.coil || decide (s.rg R.memHoopCfgN h ≤ r.tag ∨ r.tag < s.rg R.memHoopStateNextTag h)

/-- Whether a request waits behind an earlier one: of one port and VC, any (R574); of one Stake, one of its hoop, or one of
its line that is not held at the requester (R498, R508, R511); a done marker, any of its SCATTER_ADD (R509). -/
def AddReq.behind (r q : AddReq) : Bool :=
  q.who == r.who && decide (q.id < r.id) &&
  (decide (2048 ≤ r.who) || (q.ordered && r.ordered && q.coil == r.coil && q.hoop == r.hoop) ||
    (r.marker && !q.marker && q.idx == r.idx) ||
    (!q.marker && !q.held && q.addr / 128 == r.addr / 128))

/-- The request of some number, where it waits behind none (R498, R508). -/
def State.addReady (s : State) (id : Nat) : Option AddReq :=
  match s.ms.adds.find? (fun r => r.id == id) with
  | none => none
  | some r => if s.ms.adds.any (fun q => r.behind q) then none else some r

/-- Whether adds of a SCATTER_ADD are on their way; its done marker is none (R515). -/
def State.adding (s : State) (stake idx : Nat) : Bool :=
  s.ms.adds.any (fun q => q.who == stake && q.idx == idx && !q.marker)

/-- Note how a request ended with the SCATTER_ADD that made it: a status ends it so, and its last
request completes it (R515). -/
def State.addDone (s : State) (r : AddReq) (st : Status) : State :=
  let s := { s with ms := { s.ms with adds := s.ms.adds.filter (fun q => q.id != r.id) } }
  if 2048 ≤ r.who ∨ r.marker then s
  else
    match smGet s.stakes r.who with
    | none => s
    | some x =>
      match x.desc r.idx with
      | none => s
      | some d =>
        if d.fin.isNone ∧ st ≠ 0 then s.descEnd r.who r.idx ⟨st, 0, if st = stMemUncorrectable then r.addr else 0⟩
        else if d.fin.isNone ∧ ¬ s.adding r.who r.idx then s.descEnd r.who r.idx (Done.plain stOk) else s

/-- What an add comes to: nothing yet, while its context's regulator holds it back, unless a WEAVE_LAUNCH entry started
the weave that it is of (R187). -/
def State.gateAdd (s : State) (r : AddReq) (t : State) : State :=
  if decide (r.who < 2048) && (s.weaveOf r.who).any (fun w => w.launch) then t else s.gate r.ctx t

/-- ADD_REQUEST: an arrival-order add request is applied (R503, R504). -/
def execAddRequest (id : Nat) (s : State) : Host.Outcome State Fault Refusal :=
  match s.addReady id with
  | some r =>
    if r.marker ∨ r.ordered then .next s
    else
      let a := s.applyAdd r
      .next (s.gateAdd r (a.1.addDone r a.2))
  | none => .next s

/-- ORDERED_ADD: an ordered add is admitted when its tag is next_tag, held when it is later, or ended
with ST_MEM_ADDER_FORMAT (R508). -/
def execOrderedAdd (id : Nat) (s : State) : Host.Outcome State Fault Refusal :=
  match s.addReady id with
  | some r =>
    if r.marker ∨ ¬ r.ordered ∨ r.held then .next s
    else if s.hoopBad r then .next (s.addDone r stMemAdderFormat)
    else if r.tag = s.rg R.memHoopStateNextTag (hoopElem r.coil r.hoop) then
      let a := s.applyAdd r
      .next (s.gateAdd r (a.1.addDone r a.2))
    else
      .next { s with ms := { s.ms with adds := s.ms.adds.map (fun q => if q.id = id then { q with held := true } else q) } }
  | none => .next s

/-- HELD_ADD_ADMIT: next_tag reached a held add's tag (R508). -/
def execHeldAddAdmit (id : Nat) (s : State) : Host.Outcome State Fault Refusal :=
  match s.addReady id with
  | some r =>
    if ¬ r.held ∨ r.tag ≠ s.rg R.memHoopStateNextTag (hoopElem r.coil r.hoop) then .next s
    else
      let a := s.applyAdd r
      .next (s.gateAdd r (a.1.addDone r a.2))
  | none => .next s

/-- DONE_MARKER: a contributor's turn ends; next_tag advances, and wraps into the next epoch (R509). -/
def execDoneMarker (id : Nat) (s : State) : Host.Outcome State Fault Refusal :=
  match s.addReady id with
  | some r =>
    let h := hoopElem r.coil r.hoop
    let t := s.rg R.memHoopStateNextTag h
    if ¬ r.marker ∨ r.tag ≠ t then .next s
    else
      let s := if s.rg R.memHoopCfgN h ≤ t + 1 then
        (s.rset R.memHoopStateNextTag h 0).radd R.memHoopStateEpoch h 1 else s.rset R.memHoopStateNextTag h (t + 1)
      .next (s.addDone r stOk)
  | none => .next s

/-! ### SCATTER_ADD (R512 to R515) -/

/-- Whether a pair of formats may be added (R513). -/
def scatterPair (a out : Nat) : Bool :=
  (out == 0x00 && decide (a ≤ 2)) || (out == 0x01 && (a == 0x01 || a == 0x00)) ||
  (out == 0x10 && (a == 0x10 || a == 0x11)) || (out == 0x13 && (a == 0x13 || a == 0x10))

/-- Whether a SCATTER_ADD is malformed (R512, R513). -/
def scatterMalformed (wv : Weave) (w : Nat) : Bool :=
  let a := dOpnd w 0
  let b := dOpnd w 1
  let c := dOpnd w 2
  paramsBad w [(768, 1), (769, 6), (775, 10), (785, 1), (800, 11)] ||
  decide (dM w = 0 ∨ dN w = 0) || dK w != 0 || d4 w != 0 || dAccCount w != 0 || dPreload w != 0 || dEpilogue w ||
  dAccFirst w != 0 || !(opndOk wv (bits w 800 11) [0, 3] a) || a.packed || !(opndOk wv 0 [0] b) || b.packed ||
  dFmtB w != 0x10 || b.agen != 0 || !(opndOk wv 0 [1] c) || c.packed || !(scatterPair (dFmtA w) (dFmtOut w)) ||
  c.addr % (fmtBits (dFmtOut w) / 8) != 0 || a.scale != 0 || b.scale != 0 || c.scale != 0

/-- An addend on its way: the virtual address of its element, and its code. -/
abbrev Addend := Nat × Nat

/-- Gather consecutive addends of one sector, rising within it, into (sector, mask, codes). -/
def sectorsOf (b : Nat) : List Addend → List (Nat × Nat × List Nat)
  | [] => []
  | (va, x) :: l =>
    let k := va % 64 / b
    match sectorsOf b l with
    | (sec, mask, xs) :: rest =>
      if sec = va / 64 ∧ mask % 2 ^ (k + 1) = 0 then (sec, mask + 2 ^ k, x :: xs) :: rest
      else (va / 64, 2 ^ k, [x]) :: (sec, mask, xs) :: rest
    | [] => [(va / 64, 2 ^ k, [x])]

/-- Address of the first element of some width that the addends of a sector touch (R139). -/
def sectorFirst (b : Nat) (q : Nat × Nat × List Nat) : Nat := q.1 * 64 + b * (onesOf 64 q.2.1).headD 0

/-- The done marker of a SCATTER_ADD goes to the Coil that its adds go to, or that its operand C's address lies in where
none is in bounds (the latter is the model's choice, log entry 43), and is marked as of the hoop (R509, R515). -/
def State.scatterMark (s : State) (rq : Rq) (req : AddReq) (va : Nat) : Got Unit :=
  match s.ms.adds.find? (fun q => q.who == req.who && q.idx == req.idx && !q.marker) with
  | some q => (s.pushAdd { req with marker := true, ordered := true, coil := q.coil }, .ok ())
  | none =>
    let x := s.xlate rq va true
    if x.st ≠ 0 then (x.s, .error ⟨x.st, 0, va⟩)
    else (x.s.pushAdd { req with marker := true, ordered := true, coil := (x.s.coilOf x.pa).getD 0 }, .ok ())

/-- The work of a SCATTER_ADD up to its requests: each sector of each row becomes an add request
(R514). -/
def State.scatterAdd (s : State) (wv : Weave) (stake : Nat) (d : DescRun) : Got Unit :=
  let w := d.words
  let a := dOpnd w 0
  let c := dOpnd w 2
  let rq := stakeRq wv stake
  if scatterMalformed wv w then (s, .error badItem)
  else
    let b := fmtBits (dFmtOut w) / 8
    let req : AddReq := ⟨0, stake, d.idx, wv.ctx, false, bit w 768, 0, bits w 769 6, bits w 775 10, false, 0,
      dFmtOut w, dFmtA w, 0, []⟩
    let ga := agenOf wv a (dN w) (dM w)
    let gc := agenOf wv c (dN w) (dM w)
    Got.next (s.trayElems stake ((dOpnd w 1).addr % 2 ^ 21) 32 (dM w)) (fun s ix =>
      Got.next (s.each (fun s i =>
        Got.next (s.gather (placeOf wv stake (bits w 800 11) a) (fmtBits (dFmtA w))
              ((below (dN w)).map (fun j => ga.offset [j, i.1] []))) (fun s row =>
            let xi := toSigned 32 i.2
            let adds := (row.zip (below (dN w))).flatMap (fun e =>
              match if xi < 0 then none else gc.offset [e.2, xi.toNat] [] with
              | some o => [((c.addr : Int) + o * b, e.1.getD 0)]
              | none => [])
            match adds.find? (fun e => decide (e.1 < 0)) with
            | some e => (s, .error (outside e.1))
            | none => Got.next (s.each (fun s (q : Nat × Nat × List Nat) =>
                let t := s.xlate rq (q.1 * 64) true
                if t.st ≠ 0 then (t.s, .error ⟨t.st, 0, sectorFirst b q⟩)
                else (t.s.pushAdd { req with
                  coil := (t.s.coilOf t.pa).getD 0, addr := t.pa, mask := q.2.1, addends := q.2.2 }, .ok ()))
              (sectorsOf b (adds.map (fun e => (e.1.toNat, e.2))))) (fun s _ => (s, .ok ()))))
        ((below (dM w)).zip ix)) (fun s _ =>
          if bit w 785 then s.scatterMark rq req c.addr else (s, .ok ())))

/-- SCATTER_ADD: adds rows into memory through the memory-side adders (R514, R515).  The descriptor
ends when the last of its adds has been applied; its done marker follows them. -/
def execScatterAdd (stake idx : Nat) (s : State) : Host.Outcome State Fault Refusal :=
  match s.descReady stake idx 0x0E with
  | none => .next s
  | some (_, wv, d) =>
    if s.adding stake idx then .next s
    else
      let r := endOf idx (s.scatterAdd wv stake d)
      if r.2.status = 0 ∧ r.1.adding stake idx then .next r.1
      else .next (r.1.descEnd stake idx r.2)

end Sys2Proof.Machine
end

