-- ==== Sys2Proof/Machine/Round.lean ====
section
/-!
DEFINITION. Round time, lock, stretch, and the Weave table with its sequencer (R43 to R97, R813 to
R815), up to the acceptance of entries.
-/

namespace Sys2Proof.Machine

/-! ### Roles and ports -/

/-- The module is a follower (R48, R102). -/
def State.follower (s : State) : Bool := s.rb R.roundCfgRole 0

/-- The module holds lock (R103). -/
def State.locked (s : State) : Bool := s.rb R.roundStatusLocked 0

/-- The timing port in use (R64, R67, R103). -/
def State.timingPort (s : State) : Nat :=
  if s.rb R.roundStatusOnBackup 0 then s.rg R.roundCfgBackupPort 0 else s.rg R.roundCfgTimingPort 0

/-- Update the Round timing. -/
def State.setRnd (s : State) (r : RoundSt) : State := { s with rnd := r }

/-- Send a symbol on one port and owe its repeats there (R579). The third number of an owed symbol
is 100 + port for one port. -/
def State.sendOn (s : State) (y : Sym) (port : Nat) : State :=
  let s := if s.upPorts.contains port then s.sendSym port y else s
  s.setRnd { s.rnd with repeats := s.rnd.repeats ++ [(y, 2, 100 + port)] }

/-- The loss of lock or of the reference, as a fault of the Round logic (R63, R65). -/
def State.raiseLock (s : State) : State := s.raise (FaultInfo.mk0 fltRoundLock 8 0)

/-- Begin the lock sequence again from Round 0; a count that was held runs on (R59, R64, R67). -/
def State.restartLock (s : State) : State :=
  s.setRnd { s.rnd with
    attempt := 0, good := 0, meas := [], reqOut := none, syncMiss := 0, upCount := none, dropped := false
    holding := false }

/-- A port has left the trained state: a locked follower's timing port is noted for the loss of lock, and an attempt
that is under way begins again once the port is trained (R59, R62). -/
def State.timingDrop (s : State) (port : Nat) : State :=
  if ¬ s.follower ∨ port ≠ s.timingPort then s
  else if s.locked then s.setRnd { s.rnd with dropped := true }
  else s.restartLock

/-! ### Stretch (R72 to R78) -/

/-- L in Round t, as far as it is announced (R69). -/
def State.lenAt (s : State) (t : Nat) : Nat :=
  match s.rnd.newLen with
  | some (l, at_) => if at_ ≤ t then l else s.rnd.len
  | none => s.rnd.len

/-- The largest amount in force at Round t among the requests a master holds, limited so that L + s
is at most 65,535 (R74). -/
def State.stretchAt (s : State) (t : Nat) : Nat :=
  let latest := fun o => ((s.rnd.reqs.filter (fun r => r.1 == o && decide (r.2.2 ≤ t))).getLast?.map (fun r => r.2.1)).getD 0
  min ((s.rnd.reqs.map (fun r => latest r.1)).foldl max 0) (65535 - s.lenAt t)

/-- A master keeps a module's request, with the Round from which it counts: n + 4, or two Rounds on where it
comes later, which changes the stretch of that Round at once (R73, R75).  R75 gives a late change both the Round a + 2
and an announcement at boundary a, which has passed: the model keeps the Round, without an announcement for it, and
the ROUND_SYNC of the next boundary carries the amount on (log entry 29). -/
def State.keepRequest (s : State) (origin n amount : Nat) : State :=
  let soon := decide (s.round < n + 2)
  let s := s.setRnd { s.rnd with reqs := s.rnd.reqs ++ [(origin, amount, if soon then n + 4 else s.round + 2)] }
  if soon then s else s.setRnd { s.rnd with s2 := s.stretchAt (s.round + 2) }

/-- The module's own request: the larger of Withy's amount and its thermal and power amounts (R78). -/
def State.ownAmount (s : State) : Nat :=
  max (s.rg R.roundStretchReqAmount 0) (max s.rnd.thermal s.rnd.power)

/-- Make the module's own request: to itself as master, over the timing port as follower; without
lock it waits until the module holds lock (R72, R78, R814).  A second request of one Round goes out at once with the
same n, so that receivers drop it under R579 (log entry 30). -/
def State.request (s : State) : State :=
  let a := s.ownAmount
  if ¬ s.locked then s.setRnd { s.rnd with resend := true }
  else
    let s := (s.rset R.roundStretchStatusRequested 0 a).setRnd { s.rnd with resend := false }
    let me := s.rg R.waleCfgModuleId 0
    if s.follower then s.sendOn (.stretch me s.round a) s.timingPort
    else s.keepRequest me s.round a

/-- A new request when the own amount differs from the one in force. -/
def State.reRequest (s : State) : State :=
  if s.ownAmount = s.rg R.roundStretchStatusRequested 0 ∧ ¬ s.rnd.resend then s else s.request

/-- Temperature of a sensor in 1/16 °C (R738). -/
def State.temp (s : State) (k : Nat) : Int := toSigned 16 (s.rg R.hdlSensorValue k)

/-- Whether any compute-die sensor is at or above the threshold (R77). -/
def State.hot (s : State) : Bool :=
  (below 16).any (fun k => decide ((s.rg R.roundStretchCfgThresh 0 * 16 : Int) ≤ s.temp k))

/-- Whether every compute-die sensor is at least 5 °C below the threshold (R77). -/
def State.cool (s : State) : Bool :=
  (below 16).all (fun k => decide (s.temp k ≤ (s.rg R.roundStretchCfgThresh 0 * 16 : Int) - 80))

/-- Whether the input power is below its warning threshold by the hysteresis of 2 % (R739, R786). -/
def State.powerLow (s : State) : Bool :=
  decide (100 * s.rg R.hdlSensorValue 68 ≤ 98 * s.rg R.hdlSensorWarn 68)

/-- THERMAL_STRETCH_STEP: 64 Rounds on and still hot, the thermal amount rises by a step (R77). -/
def execThermalStretchStep (s : State) : Host.Outcome State Fault Refusal :=
  if s.rb R.roundStretchCfgEnable 0 ∧ s.rnd.thermal ≠ 0 ∧ s.hot ∧ s.rnd.thermalAt + 64 ≤ s.beat then
    let a := min (s.rg R.roundStretchCfgMaxTicks 0) (s.rnd.thermal + s.rg R.roundStretchCfgStepTicks 0)
    .next ((s.setRnd { s.rnd with thermal := a, thermalAt := s.beat }).reRequest)
  else .next s

/-- THERMAL_STRETCH_WITHDRAW: after 256 Rounds well below the threshold the thermal amount is
withdrawn (R77), also where enable has been cleared meanwhile (log entry 31). -/
def execThermalStretchWithdraw (s : State) : Host.Outcome State Fault Refusal :=
  if s.rnd.thermal ≠ 0 ∧ 256 ≤ s.rnd.thermalCool then
    .next ((s.setRnd { s.rnd with thermal := 0 }).reRequest)
  else .next s

/-- ROUND_STRETCH_REQ: Withy writes its amount (R78, R104). -/
def execRoundStretchReq (amount : Nat) (s : State) : Host.Outcome State Fault Refusal :=
  if ¬ s.barOpen 0x500000 then .next s else
  .next ((s.rset R.roundStretchReqAmount 0 amount).request)

/-- STRETCH: a request of another module; the master keeps it, a follower relays it (R72, R74, R579). -/
def execStretch (port origin n amount : Nat) (s : State) : Host.Outcome State Fault Refusal :=
  if ¬ s.upPorts.contains port ∨ s.rnd.seen.contains (origin, n) then .next s
  else
    let s := s.setRnd { s.rnd with seen := (origin, n) :: s.rnd.seen }
    if s.follower then .next ((s.symbolCross port [s.timingPort]).sendOn (.stretch origin n amount) s.timingPort)
    else .next (s.keepRequest origin n amount)

/-! ### Lock (R51 to R67) -/

/-- The count of the boundary that the next ROUND_SYNC marks: the own count where that boundary has passed and its
symbol has not come, which is the order of R58, else the own next one (R60, R61; log entry 32). -/
def State.markedCount (s : State) : Nat :=
  if s.rnd.upCount = some s.round then s.round + 1 else s.round

/-- A locked follower's count beside a received one: with a table armed or running any but its own raises
FLT_ROUND_LOCK; else a higher one is adopted at the boundary that the symbol marks (R61). -/
def State.matchCount (s : State) (own count : Nat) : State :=
  if count = own then s
  else if s.tableOn then s.raiseLock
  else if count < own then s
  else if own = s.round then (s.rset R.roundCountCount 0 count).setRnd { s.rnd with holding := false }
  else s.setRnd { s.rnd with setCount := some count }

/-- Take L from a ROUND_SYNC: at once, or at the boundary that the symbol marks where that is still to come (R68,
R69). -/
def State.takeLen (s : State) (count len : Nat) : State :=
  if s.locked ∧ s.round < count then
    (if len = s.rnd.len then s else s.setRnd { s.rnd with newLen := some (len, count) })
  else (s.rset R.roundCfgLenTicks 0 len).setRnd { s.rnd with len := len }

/-- ROUND_SYNC: a follower takes count, depth, L and the announced stretch from its timing port and
measures its offset, signed in 1/64 tick (R52, R53, R58, R59, R61, R68, R76). -/
def execRoundSync (port count depth len s2 : Nat) (offset : Int) (s : State) :
    Host.Outcome State Fault Refusal :=
  if ¬ s.follower ∨ port ≠ s.timingPort ∨ ¬ s.upPorts.contains port then .next s
  else if 8 < depth + 1 then
    .next (((s.rset R.roundStatusDepthExceeded 0 1)).setRnd { s.rnd with good := 0 })
  else
    let within := decide (-8 ≤ offset ∧ offset ≤ 8 ∧ s.rnd.meas.length = 16)
    let again := s.rnd.upCount.isSome && s.rnd.syncMiss == 0
    let own := s.markedCount
    let s := s.setRnd { s.rnd with
      upCount := some count, syncMiss := 0
      good := if !within then 0 else if again then s.rnd.good else s.rnd.good + 1 }
    let s := (s.rset R.roundStatusDepth 0 (depth + 1)).rset R.roundOffsetOffset 0 (ofSigned 32 offset)
    let s := if s.locked then s.matchCount own count else s
    let s := s.setRnd { s.rnd with
      s2 := if count ≤ s.round then s2 else s.rnd.s2
      sIn := if count ≤ s.round then none else some s2 }
    .next (s.takeLen count len)

/-- ROUND_LEN: the announcement of a new L and its Round (R69, R578). -/
def execRoundLen (port len round : Nat) (s : State) : Host.Outcome State Fault Refusal :=
  if s.follower ∧ port = s.timingPort ∧ s.upPorts.contains port ∧ s.round < round then
    .next (s.setRnd { s.rnd with newLen := some (len, round) })
  else .next s

/-- DELAY_REQ_SEND: a follower sends a delay request at its own time t1, one in a Round: from Round 1 of the
lock sequence until it has 16 measurements, and every 64 Rounds while locked (R56, R57).  Those are the Rounds whose
count is a multiple of 64 (the phase is the model's choice, log entry 33).  A request that was not answered is given up
for the next one. -/
def execDelayReqSend (t1 : Nat) (s : State) : Host.Outcome State Fault Refusal :=
  let due := if s.locked then s.round % 64 == 0 else decide (s.rnd.meas.length < 16 ∧ 1 ≤ s.rnd.attempt)
  if s.follower ∧ s.upPorts.contains s.timingPort ∧ s.rnd.reqAt ≠ some s.round ∧ due then
    let id := s.round % 256
    .next ((s.sendSym s.timingPort (.delayReq id t1)).setRnd { s.rnd with
      reqOut := some (id, t1), reqAt := some s.round })
  else .next s

/-- DELAY_REQ: the upstream module answers with the times of receipt and of its own sending (R56,
R577, R578). -/
def execDelayReq (port id t2 t3 : Nat) (s : State) : Host.Outcome State Fault Refusal :=
  if s.upPorts.contains port then .next (s.sendSym port (.delayResp id t2 t3)) else .next s

/-- The median of a list of measurements: the mean of the two middle ones, rounded down. -/
def median (l : List Int) : Int :=
  let o := sortBy (fun x : Int => (x + 2 ^ 62).toNat) l
  ((o[(o.length - 1) / 2]?).getD 0 + (o[o.length / 2]?).getD 0) / 2

/-- DELAY_RESP: the follower computes the one-way delay and keeps the newest 16 (R56, R57).  An odd difference is
halved downward, and the 48-bit times are subtracted as plain numbers, not modulo 2^48 (R577; log entry 34). -/
def execDelayResp (port id t2 t3 t4 : Nat) (s : State) : Host.Outcome State Fault Refusal :=
  match s.rnd.reqOut with
  | some (i, t1) =>
    if s.follower ∧ port = s.timingPort ∧ i = id then
      let d : Int := (((t4 : Int) - t1) - ((t3 : Int) - t2)) / 2
      let l := s.rnd.meas ++ [d]
      let l := l.drop (l.length - 16)
      let s := s.setRnd { s.rnd with meas := l, reqOut := none }
      .next (if l.length = 16 then s.rset R.roundDelayDelay 0 (ofSigned 32 (median l)) else s)
    else .next s
  | none => .next s

/-- FOLLOWER_LOCK: the offset has stayed within ±5 ns for 16 Rounds: lock, and load the upstream module's
present count under R60, which is the one last received and the boundaries since (R59, R60). -/
def execFollowerLock (s : State) : Host.Outcome State Fault Refusal :=
  match s.rnd.upCount with
  | some u =>
    let c := u + s.rnd.syncMiss
    if s.follower ∧ s.upPorts.contains s.timingPort ∧ ¬ s.locked ∧ 16 ≤ s.rnd.good ∧ s.rnd.meas.length = 16 ∧ s.rnd.attempt ≤ 64 then
      let s := s.rset R.roundStatusLocked 0 1
      if ¬ s.rnd.everLocked ∨ s.round ≤ c then
        .next ((s.rset R.roundCountCount 0 c).setRnd { s.rnd with everLocked := true, holding := false })
      else .next (s.setRnd { s.rnd with holding := true })
    else .next s
  | none => .next s

/-- NO_LOCK_RETRY: 64 Rounds without lock: no_lock, and a new attempt, on the other port when the
backup port is enabled (R59, R67). -/
def execNoLockRetry (s : State) : Host.Outcome State Fault Refusal :=
  if s.follower ∧ ¬ s.locked ∧ 64 ≤ s.rnd.attempt then
    let s := s.rset R.roundStatusNoLock 0 1
    let s := if s.rb R.roundCfgBackupEn 0 then
      s.rset R.roundStatusOnBackup 0 (1 - s.rg R.roundStatusOnBackup 0) else s
    .next s.restartLock
  else .next s

/-- LOSS_OF_LOCK: the timing port left the trained state, or 4 whole Rounds brought no ROUND_SYNC (R62 to R64): the
boundary that ends the Round of the last one counts as the first since it.  A follower that loses lock on the
backup port goes back to timing_port (the model's choice, log entry 35). -/
def execLossOfLock (s : State) : Host.Outcome State Fault Refusal :=
  if s.follower ∧ s.locked ∧ (s.rnd.dropped ∨ ¬ s.upPorts.contains s.timingPort ∨ 5 ≤ s.rnd.syncMiss) then
    let s := (s.rset R.roundStatusLocked 0 0).rset R.roundStatusLockLost 0 1
    if s.tableOn then .next s.restartLock.raiseLock
    else
      let s := if s.rb R.roundCfgBackupEn 0 then
        s.rset R.roundStatusOnBackup 0 (1 - s.rg R.roundStatusOnBackup 0) else s
      .next s.restartLock
  else .next s

/-- REFERENCE_LOSS: ROUND_REF is lost for more than 4 ticks (R65, R66). -/
def execReferenceLoss (s : State) : Host.Outcome State Fault Refusal :=
  let s := s.setRnd { s.rnd with refPresent := false, refRounds := 0, refNew := false }
  if s.follower then .next s
  else
    let s := (s.rset R.roundStatusLocked 0 0).rset R.roundStatusLockLost 0 1
    .next (if s.tableOn then s.raiseLock else s)

/-- REFERENCE_RETURN: ROUND_REF is present again; this Round does not count.  After an absence of at most 4
ticks, which is no loss, the Rounds counted before it stand (R66). -/
def execReferenceReturn (s : State) : Host.Outcome State Fault Refusal :=
  if s.rnd.refPresent then .next (s.setRnd { s.rnd with refNew := true })
  else .next (s.setRnd { s.rnd with refPresent := true, refNew := true, refRounds := 0 })

/-- MASTER_LOCK: 16 whole Rounds with the reference: the master holds lock (R66, R103). -/
def execMasterLock (s : State) : Host.Outcome State Fault Refusal :=
  if ¬ s.follower ∧ ¬ s.locked ∧ s.rnd.refPresent ∧ 16 ≤ s.rnd.refRounds then
    .next (s.rset R.roundStatusLocked 0 1)
  else .next s

/-- ROUND_COUNT_SET: a master without a table armed or running takes a count above its own next one
at the next boundary (R61). -/
def execRoundCountSet (value : Nat) (s : State) : Host.Outcome State Fault Refusal :=
  if ¬ s.barOpen 0x500000 then .next s else
  if ¬ s.follower ∧ ¬ s.tableOn ∧ s.round + 1 < value ∧ value < 2 ^ 64 then
    .next (s.setRnd { s.rnd with setCount := some value })
  else .next s

/-- The length part of a write to ROUND_CFG (R68 to R70, R102). -/
def State.writeLen (s : State) (l : Nat) : State :=
  if s.follower ∨ l < 25 ∨ l = s.rg R.roundCfgLenTicks 0 then s
  else if s.rg R.weaveStatusState 0 = 3 then s.rset R.roundStatusCfgRefused 0 1
  else (s.rset R.roundCfgLenTicks 0 l).setRnd { s.rnd with newLen := some (l, s.round + 17) }

/-- The port fields of a write to ROUND_CFG (R102). -/
def State.writePorts (s : State) (v : Nat) : State :=
  ((s.rset R.roundCfgTimingPort 0 (bits v 4 4)).rset R.roundCfgBackupPort 0 (bits v 8 4)).rset
    R.roundCfgBackupEn 0 (bits v 12 1)

/-- ROUND_LEN_WRITE: a write of ROUND_CFG that leaves the role as it is (R69, R70, R102). -/
def execRoundLenWrite (value : Nat) (s : State) : Host.Outcome State Fault Refusal :=
  if ¬ s.barOpen 0x500000 then .next s else
  if bits value 0 1 = s.rg R.roundCfgRole 0 then .next ((s.writePorts value).writeLen (bits value 16 16))
  else .next s

/-- ROLE_CHANGE: a write of ROUND_CFG that changes the role (R813).  The len_ticks of a write that makes the module the
master is a change of L under R69 (the model's choice, log entry 36). -/
def execRoleChange (value : Nat) (s : State) : Host.Outcome State Fault Refusal :=
  if ¬ s.barOpen 0x500000 then .next s else
  if bits value 0 1 = s.rg R.roundCfgRole 0 then .next s
  else
    let s := s.writePorts value
    let s := if bit value 0 then
        let s := (s.rset R.roundCfgRole 0 1).rset R.roundStatusLocked 0 0
        let s := (s.rset R.roundStatusOnBackup 0 0).rset R.roundCfgLenTicks 0 s.rnd.len
        (s.setRnd { s.rnd with newLen := none, everLocked := false, setCount := none }).restartLock
      else
        let s := ((s.rset R.roundCfgRole 0 0).rset R.roundStatusLocked 0 0).rset R.roundStatusDepth 0 0
        let s := (s.setRnd { s.rnd with refRounds := 0, refNew := true, newLen := none, setCount := none }).restartLock
        s.writeLen (bits value 16 16)
    .next (if s.tableOn then s.raiseLock else s)

/-! ### The Weave table (R79 to R84, R88 to R91) -/

/-- The body fields of each entry kind (R91). -/
def weBody (k : Nat) : List (Nat × Nat) :=
  match k with
  | 1 => [(64, 48), (128, 11), (144, 11), (160, 32), (192, 16)]
  | 2 => [(64, 4), (68, 4), (80, 16), (96, 32)]
  | 3 => [(64, 5), (80, 10), (96, 16), (112, 16), (128, 32)]
  | 4 => [(64, 48), (112, 16), (128, 16)]
  | 6 => [(64, 2), (80, 16), (96, 48)]
  | _ => []

/-- Whether an entry has a reserved bit set, an undefined kind or a field outside its range (R80,
R88, R90, R91, R588). -/
def weMalformed (e : Nat) : Bool :=
  let k := weKind e
  clearFields e ([(0, 24), (24, 4), (32, 12), (44, 6), (56, 8)] ++ weBody k) != 0 || decide (6 < k) ||
  (k == 1 && (bits e 64 7 != 0 || weCount e == 0 || decide (1536 < weFirst e + weCount e))) ||
  (k == 2 && (bits e 68 4 == 15 || bits e 80 16 == 0)) ||
  (k == 3 && bits e 112 16 == 0) ||
  (k == 4 && (bits e 64 6 != 0 || bits e 112 16 == 0 || bits e 128 16 == 0)) ||
  (k == 6 && (bits e 64 2 == 3 || bits e 80 16 == 0 || bits e 96 6 != 0))

/-- duration of an entry kind that has one (R91, R94). -/
def weDuration (e : Nat) : Nat :=
  match weKind e with
  | 2 => bits e 80 16
  | 3 => bits e 112 16
  | 4 => bits e 128 16
  | 6 => bits e 80 16
  | _ => 0

/-- Read and check n entries from address a, the i-th next; `prev` is the offset before it and `run`
how many entries in a row share it (R80).  Answers the entries, or a status and an entry index. -/
def State.loadEntries (s : State) (cyc : Nat) : Nat → Nat → Nat → Nat → Nat → State × Except (Nat × Nat) (List Nat)
  | 0, _, _, _, _ => (s, .ok [])
  | n + 1, a, i, prev, run =>
    let rd := s.pread noCtx a 32 true
    let e := leNat rd.bs
    let o := weOffset e
    let run' := if o = prev then run + 1 else 1
    if rd.st ≠ 0 then (rd.s, .error (rd.st, i))
    else if weMalformed e then (rd.s, .error (stWeaveMalformed, i))
    else if o < prev then (rd.s, .error (stWeaveOrder, i))
    else if cyc ≤ o then (rd.s, .error (stWeaveOffset, i))
    else if 256 < run' then (rd.s, .error (stWeaveCrowded, i))
    else
      match rd.s.loadEntries cyc n (a + 32) (i + 1) o run' with
      | (s, .ok l) => (s, .ok (e :: l))
      | (s, .error x) => (s, .error x)

/-- How many of load, arm, stop and stop_now a write of WEAVE_CTRL sets (R815). -/
def ctrlBits (v : Nat) : Nat := bits v 17 1 + bits v 18 1 + bits v 19 1 + bits v 20 1

/-- The RW fields of a write of WEAVE_CTRL (R105).  A cycle_len outside 1 to 2^24 is not taken (R31, R82; how such a
write ends is the model's choice, log entry 37). -/
def State.writeCtrl (s : State) (v : Nat) : State :=
  let c := bits v 32 25
  let s := s.rset R.weaveCtrlEntries 0 (bits v 0 17)
  if c = 0 ∨ 2 ^ 24 < c then s else s.rset R.weaveCtrlCycleLen 0 c

/-- A write of WEAVE_CTRL that sets one command bit, or is refused whole for setting more (R815). -/
def State.ctrlCmd (s : State) (v b : Nat) (act : State → State) : State :=
  if ¬ bit v b then s
  else if 1 < ctrlBits v then s.rset R.weaveStatusRefused 0 1
  else act (s.writeCtrl v)

/-- WEAVE_LOAD: a write of WEAVE_CTRL with load: loading starts with the entry count, image base and cycle length as
they stand, replacing any table (R79 to R81). -/
def execWeaveLoad (value : Nat) (s : State) : Host.Outcome State Fault Refusal :=
  if ¬ s.barOpen 0x500000 then .next s else
  .next (s.ctrlCmd value 17 (fun s =>
    if s.rg R.weaveStatusState 0 = 3 then s.rset R.weaveStatusRefused 0 1
    else ({ s with wtab := { WeaveTab.reset with
        loading := some (s.rg R.weaveCtrlEntries 0, s.rg R.weaveImageBaseBase 0 / 4096 * 4096, s.rg R.weaveCtrlCycleLen 0)
        active := s.wtab.active, late := s.wtab.late, quiet := s.wtab.quiet } }).rset R.weaveStatusState 0 0))

/-- WEAVE_LOAD_DONE: the table has been read and checked (R79, R80). -/
def execWeaveLoadDone (s : State) : Host.Outcome State Fault Refusal :=
  match s.wtab.loading with
  | none => .next s
  | some (n, base, cyc) =>
    let s := { s with wtab := { s.wtab with loading := none } }
    let err := fun (s : State) (st i : Nat) =>
      (s.rset R.weaveStatusError 0 st).rset R.weaveStatusErrorEntry 0 i
    if n = 0 ∨ 65536 < n then .next (err s stWeaveMalformed 0)
    else
      match s.loadEntries cyc n base 0 0 0 with
      | (s, .error x) => .next (err s x.1 x.2)
      | (s, .ok l) =>
        .next (err (({ s with wtab := { s.wtab with table := l } }).rset R.weaveStatusState 0 1) stOk 0)

/-- The first entry whose round_offset is not below the cycle length (R83). -/
def offsetBad (cyc : Nat) (l : List Nat) : Option Nat := l.findIdx? (fun e => decide (cyc ≤ weOffset e))

/-- WEAVE_ARM: a write of WEAVE_CTRL with arm (R83). -/
def execWeaveArm (value : Nat) (s : State) : Host.Outcome State Fault Refusal :=
  if ¬ s.barOpen 0x500000 then .next s else
  .next (s.ctrlCmd value 18 (fun s =>
    let st := s.rg R.weaveStatusState 0
    let S := s.rg R.weaveStartStart 0
    let cyc := s.rg R.weaveCtrlCycleLen 0
    if st = 0 ∨ st = 3 then s.rset R.weaveStatusRefused 0 1
    else if ¬ s.locked then s.rset R.weaveStatusError 0 stRoundUnlocked
    else if S < s.round + 16 then s.rset R.weaveStatusError 0 stWeaveStartPast
    else
      match offsetBad cyc s.wtab.table with
      | some i => (s.rset R.weaveStatusError 0 stWeaveOffset).rset R.weaveStatusErrorEntry 0 i
      | none =>
        let s := { s with wtab := { s.wtab with
            armS := S, armC := cyc, armN := s.rg R.weaveCyclesCycles 0, lastOcc := none } }
        let s := (s.rset R.weaveStatusState 0 2).rset R.weaveStatusError 0 stOk
        let s := ((s.rset R.weaveSlipMaxEntry 0 0).rset R.weaveSlipMaxSlip 0 0).rset R.weaveSlipTotalTotal 0 0
        (s.rset R.weaveOccurrenceK 0 0).rset R.fltStatusJobHalted 0 0))

/-- A run or an arm ends (R84). -/
def State.endRun (s : State) : State := (s.rset R.weaveStatusState 0 1).rset R.weaveStatusDone 0 1

/-- The occurrence that a Round lies in. -/
def State.occurrenceAt (s : State) (t : Nat) : Nat := (t - s.wtab.armS) / s.wtab.armC

/-- End a run whose last occurrence is over and whose last entry has been accepted (R84). -/
def State.checkRunEnd (s : State) : State :=
  match s.lastOccurrence with
  | some k =>
    if s.rg R.weaveStatusState 0 = 3 ∧ s.wtab.armS + (k + 1) * s.wtab.armC ≤ s.round ∧
        s.wtab.waiting.isEmpty then s.endRun else s
  | none => s

/-- WEAVE_STOP: the current occurrence becomes the last one (R84). -/
def execWeaveStop (value : Nat) (s : State) : Host.Outcome State Fault Refusal :=
  if ¬ s.barOpen 0x500000 then .next s else
  .next (s.ctrlCmd value 19 (fun s =>
    let st := s.rg R.weaveStatusState 0
    if st < 2 then s.rset R.weaveStatusRefused 0 1
    else if st = 2 then s.endRun
    else
      let k := s.occurrenceAt s.round
      let k := match s.lastOccurrence with | some l => min l k | none => k
      ({ s with wtab := { s.wtab with lastOcc := some k } }).checkRunEnd))

/-- Slip of a waiting entry at a Round (R93). -/
def waitSlip (t : Nat) (e : EntryOcc) : Nat := t - e.due

/-- Slip of an accepted, unfinished entry at a Round (R94). -/
def workSlip (t : Nat) (e : EntryOcc) : Nat := t - (e.due + weDuration e.words)

/-- Entries with their slip at a Round, those that wait first. -/
def State.slips (s : State) (t : Nat) : List (EntryOcc × Nat) :=
  s.wtab.waiting.map (fun e => (e, waitSlip t e)) ++ s.wtab.active.map (fun e => (e, workSlip t e))

/-- The occurrences with slip at a Round (R97). -/
def State.slipping (s : State) (t : Nat) : List (Nat × Nat) :=
  ((s.slips t).filter (fun x => x.2 != 0)).map (fun x => (x.1.idx, x.1.occ))

/-- Keep the occurrences that slip in this Round, before some of them leave the sequencer or end (R97). -/
def State.markLate (s : State) : State :=
  { s with wtab := { s.wtab with late := (s.wtab.late ++ s.slipping s.round).eraseDups } }

/-- WEAVE_STOP_NOW: issue ends at once, and entries that wait are dropped (R84). -/
def execWeaveStopNow (value : Nat) (s : State) : Host.Outcome State Fault Refusal :=
  if ¬ s.barOpen 0x500000 then .next s else
  .next (s.ctrlCmd value 20 (fun s =>
    if s.rg R.weaveStatusState 0 < 2 then s.rset R.weaveStatusRefused 0 1
    else
      let s := s.markLate
      ({ s with wtab := { s.wtab with waiting := [] } }).endRun))

/-! ### Slip (R92 to R97) -/

/-- Count the occurrences that slipped in the Round that ends, those that have left since among them (R97). -/
def State.accountSlip (s : State) : State :=
  let s := s.markLate
  { s with wtab := { s.wtab with late := [] } }.radd R.weaveSlipTotalTotal 0 s.wtab.late.length

/-- Record the largest slip seen, as a Round begins, with its entry (R97). -/
def State.recordSlip (s : State) (t : Nat) : State :=
  (s.slips t).foldl (fun s x =>
    if s.rg R.weaveSlipMaxSlip 0 < x.2 then
      (s.rset R.weaveSlipMaxSlip 0 x.2).rset R.weaveSlipMaxEntry 0 x.1.idx else s) s

/-- The entry of lowest occurrence, then of lowest index, among some. -/
def firstOcc : List (EntryOcc × Nat) → Option (EntryOcc × Nat)
  | [] => none
  | x :: xs => match firstOcc xs with
    | none => some x
    | some y => if x.1.occ < y.1.occ ∨ (x.1.occ = y.1.occ ∧ x.1.idx ≤ y.1.idx) then some x else some y

/-- FLT_SCHEDULE_OVERRUN: an entry's slip exceeds its budget, also that of an accepted entry whose run has ended; the
others raise no fault of their own (R84, R96). -/
def execFltScheduleOverrun (s : State) : Host.Outcome State Fault Refusal :=
  match firstOcc ((s.slips s.round).filter (fun x =>
      decide (weBudget x.1.words < x.2) && !(s.wtab.quiet.contains x.1))) with
  | none => .next s
  | some (e, slip) =>
    let s := { s with wtab := { s.wtab with quiet := s.wtab.waiting ++ s.wtab.active } }
    .next (s.raise { FaultInfo.mk0 fltScheduleOverrun 7 0 with
      part := wePart e.words, ctx := weCtx e.words, entry := e.idx, slip := slip, occ := e.occ })

/-! ### Issue (R82, R86, R89, R166) -/

/-- Whether an entry's context is bound to its partition and its resources lie within it (R89, R166,
R172). -/
def State.entryAllowed (s : State) (e : Nat) : Bool :=
  let c := weCtx e
  let p := wePart e
  c != 0 && s.ctxState c != ctxFree && s.rg R.ctxCfgPartition c == p && s.rb R.partCfgEnable p &&
  (match weKind e with
   | 1 => (upFrom (weFirst e) (weCount e)).all (fun st => s.hasSkein p (st / 24))
   | 3 => bit (s.rg R.partResCollChannels p) (bits e 64 5)
   | 6 => s.rb R.partResMirror p
   | _ => true)

/-- A poll for a RING_POLL entry goes behind the earlier ones of its kind, in place of any other of its context; one
that an entry of this Round has asked for keeps its place (R116, R117). -/
def State.ringPoll (s : State) (c : Nat) : State :=
  let f := (s.ctx c).front
  let q := s.pollQ (2 * f)
  if q.any (fun p => p.ctx == c && p.entry) then s
  else
    let q := q.filter (fun p => p.ctx != c)
    s.setPollQ (2 * f) (q.takeWhile Poll.entry ++ [⟨c, true⟩] ++ q.dropWhile Poll.entry)

/-- Issue the entries that fall due at Round t, in table order (R86). -/
def issueLoop (t : Nat) : List Nat → Nat → State → State
  | [], _, s => s
  | e :: es, i, s =>
    if s.rg R.weaveStatusState 0 ≠ 3 then s
    else
      let base := s.wtab.armS + weOffset e
      let occ := (t - base) / s.wtab.armC
      let due := decide (base ≤ t ∧ (t - base) % s.wtab.armC = 0) &&
        (match s.lastOccurrence with | none => true | some l => decide (occ ≤ l))
      if ¬ due then issueLoop t es (i + 1) s
      else if weKind e = 0 ∧ s.entryAllowed e then issueLoop t es (i + 1) s
      else if ¬ s.entryAllowed e then
        issueLoop t es (i + 1) (s.raise { FaultInfo.mk0 fltWeaveContext 7 0 with
          part := wePart e, ctx := weCtx e, entry := i })
      else if weKind e = 5 then issueLoop t es (i + 1) (s.ringPoll (weCtx e))
      else
        issueLoop t es (i + 1) { s with wtab := { s.wtab with
          waiting := s.wtab.waiting ++ [⟨i, occ, t, e⟩] } }

/-- An armed table whose occurrence 0 begins runs; entries due are issued (R82, R86). -/
def State.issue (s : State) : State :=
  let s := if s.rg R.weaveStatusState 0 = 2 ∧ s.wtab.armS ≤ s.round then s.rset R.weaveStatusState 0 3 else s
  if s.rg R.weaveStatusState 0 ≠ 3 then s
  else
    let k := s.occurrenceAt s.round
    let k := match s.lastOccurrence with | some l => min l k | none => k
    let s := s.rset R.weaveOccurrenceK 0 k
    issueLoop s.round s.wtab.table 0 s

/-- Remove an occurrence from those that wait; the Round of its acceptance counts as one of waiting (R97). -/
def State.unwait (s : State) (e : EntryOcc) : State :=
  let s := s.markLate
  { s with wtab := { s.wtab with
      waiting := s.wtab.waiting.filter (fun x => !(x.idx == e.idx && x.occ == e.occ)) } }

/-- Whether an earlier HAMPER_PREFETCH entry of a context is unfinished (R556). -/
def State.prefetchPending (s : State) (e : EntryOcc) : Bool :=
  (s.wtab.waiting ++ s.wtab.active).any (fun x =>
    weKind x.words == 4 && weCtx x.words == weCtx e.words && decide (x.due < e.due))

/-- Accept a WEAVE_LAUNCH entry whose Stakes are all free: the weave starts on them together (R92,
R175, R556). -/
def State.acceptLaunch (s : State) (e : EntryOcc) : State :=
  let w := e.words
  if s.rangeFree (weFirst w) (weCount w) ∧ ¬ s.prefetchPending e then
    (s.unwait e).startWeave ⟨0, weCtx w, wePart w, 0, 0, bits w 64 48, weFirst w, weCount w, bits w 160 32, 0,
      true, e.idx, e.occ, e.due, bits w 192 16, none, false, false, false, [], none⟩
  else s

/-- Whether two entries name the same target unit: Stakes that meet, the same VC of a port, or the mirror
ports (R92). -/
def sameUnit (a b : Nat) : Bool :=
  weKind a == weKind b &&
  (match weKind a with
   | 1 => rangesMeet (weFirst a) (weCount a) (weFirst b) (weCount b)
   | 2 => bits a 64 8 == bits b 64 8
   | 6 => true
   | _ => false)

/-- Whether an accepted, unfinished entry or an earlier waiting one has the unit of an entry. -/
def State.unitTaken (s : State) (e : EntryOcc) : Bool :=
  s.wtab.active.any (fun x => sameUnit x.words e.words) ||
  (s.wtab.waiting.takeWhile (fun x => !(x.idx == e.idx && x.occ == e.occ))).any (fun x => sameUnit x.words e.words)

/-- WEAVE_LAUNCH entries ahead of the head weaves at a dispatch point, each once its Stakes are free of earlier
scheduled work (R92, R174). -/
def State.dispatchLaunches (s : State) : State :=
  let ls := s.wtab.waiting.filter (fun e => weKind e.words == 1)
  ls.foldl (fun s e => if s.rg R.weaveStatusState 0 = 3 ∧ ¬ s.unitTaken e then s.acceptLaunch e else s) s

/-! ### The boundary (R43, R44) -/

/-- The Round count after a boundary; one that is held waits for the upstream module's, which advances at the same
boundary (R43, R60, R61). -/
def State.nextCount (s : State) : Nat :=
  match s.rnd.setCount with
  | some c => c
  | none =>
    if s.rnd.holding then
      match s.rnd.upCount with
      | some u => max s.round (u + s.rnd.syncMiss + 1)
      | none => s.round
    else (s.round + 1) % 2 ^ 64

/-- Stakes held are charged the cycles of the Round that ends: 32 arithmetic cycles in each of its
L + s reference ticks (R32, R44, R176, R189), which energy attribution sums (R190). -/
def State.chargeStakes (s : State) : State :=
  let ticks := s.rnd.len + s.rg R.roundStretchStatusApplied 0
  let cyc := 32 * ticks
  let s := { s with parts := { s.parts with ticks := s.parts.ticks + ticks } }
  s.weaves.foldl (fun s w => s.radd R.partAcctStakeCount w.ctx (w.count * cyc)) s

/-- Refill every partition's regulators (R185). -/
def State.refill (s : State) : State :=
  (below 64).foldl (fun s p => (below 4).foldl (fun s j =>
    s.setTokens p j (min (s.tokens p j + s.rg (regFields j).2.1 p) (s.burst p j))) s) s

/-- Send the owed repeats of STRETCH and FAULT symbols (R579). -/
def State.sendRepeats (s : State) : State :=
  let s := s.rnd.repeats.foldl (fun s r =>
    (s.upPorts.filter (fun n => if 100 ≤ r.2.2 then n + 100 == r.2.2 else n != r.2.2)).foldl
      (fun s n => s.sendSym n r.1) s) s
  s.setRnd { s.rnd with repeats := (s.rnd.repeats.map (fun r => (r.1, r.2.1 - 1, r.2.2))).filter (fun r => r.2.1 != 0) }

/-- The stretch and L of the Round that begins, and the stretch announced for two Rounds on (R44, R69,
R75, R76).  A change of L whose Round a jump of the count has passed takes effect at the jump (log entry 38), and L + s
stays within 65,535 ticks in every Round. -/
def State.stepStretch (s : State) : State :=
  let s := match s.rnd.newLen with
    | some (l, at_) => if at_ ≤ s.round then
        (s.rset R.roundCfgLenTicks 0 l).setRnd { s.rnd with len := l, newLen := none } else s
    | none => s
  let s := s.rset R.roundStretchStatusApplied 0 (min s.rnd.s1 (65535 - s.rnd.len))
  let s2 := if s.follower then s.rnd.sIn.getD s.rnd.s2 else s.stretchAt (s.round + 2)
  s.setRnd { s.rnd with s1 := s.rnd.s2, s2 := s2, sIn := none }

/-- A locked module sends ROUND_SYNC on every trained port, and ROUND_LEN while a change of L is
announced (R51, R578).  The offset to the symbol is a free value of at most 64. -/
def State.sendSync (s : State) : State :=
  if ¬ s.locked then s
  else
    let f := s.fresh
    let y : Sym := .roundSync s.round (s.rg R.roundStatusDepth 0) s.rnd.len s.rnd.s2 (f.1 % 65)
    let s := s.upPorts.foldl (fun s n => s.sendSym n y) f.2
    match s.rnd.newLen with
    | some (l, at_) => s.upPorts.foldl (fun s n => s.sendSym n (.roundLen l at_)) s
    | none => s

/-- The counts of Rounds that lock, the reference and the module's own requests keep (R59, R62, R66,
R77, R786).  An attempt counts its Rounds while its port is UP (log entry 39); a Round without ROUND_SYNC breaks those
within ±5 ns, and a sample within a Round those well below a threshold. -/
def State.countRounds (s : State) : State :=
  let r := s.rnd
  s.setRnd { r with
    attempt := if s.locked || !s.upPorts.contains s.timingPort then 0 else r.attempt + 1
    good := if r.syncMiss = 0 ∧ r.upCount.isSome ∧ s.upPorts.contains s.timingPort then r.good else 0
    syncMiss := r.syncMiss + 1
    refRounds := if r.refPresent && !r.refNew then r.refRounds + 1 else r.refRounds
    refNew := false
    thermalCool := if s.cool && !r.warm then r.thermalCool + 1 else 0
    warm := !s.cool
    powerCool := if s.powerLow && !r.powerWarm then r.powerCool + 1 else 0
    powerWarm := !s.powerLow
    setCount := none
    beats := r.beats + 1
    holding := r.holding && decide (r.upCount.getD 0 + r.syncMiss + 1 < s.round) }

/-- Whether the front polls a context at its interval, or every Round when real-time (R115). -/
def State.intervalPoll (s : State) (c : Nat) : Bool :=
  let i := s.rg R.ctxCfgPollInterval c
  s.pollable c && (s.rb R.ctxCfgRealtime c || (i != 0 && s.round % i == c % i))

/-- The polls of the Round that begins, and its budgets (R115, R117). -/
def State.newPolls (s : State) : State :=
  let due := sortBy (fun c => c) (s.boundCtxs.filter (fun c => s.intervalPoll c))
  (below 2).foldl (fun s f =>
    let old := (s.pollQ (2 * f) ++ s.pollQ (2 * f + 1)).map (fun (p : Poll) => { p with entry := false })
    let new := (due.filter (fun c => (s.ctx c).front == f && !(old.any (fun p => p.ctx == c)))).map (fun c => ⟨c, false⟩)
    let s := (s.setPollQ (2 * f) (old ++ new)).setPollQ (2 * f + 1) []
    { s with budget := smPut 0 s.budget f (s.rg R.cmdPollCfgBudget 0) }) s

/-- Weaves that completed in an earlier Round free their Stakes (R176). -/
def State.freeDone (s : State) : State :=
  (s.weaves.filter (fun w => match w.doneAt with | some r => decide (r < s.beat) | none => false)).foldl
    (fun s w => s.freeWeave w) s

/-- ROUND_BOUNDARY: the Round count increments and the per-Round work begins (R43, R44, R51, R76, R84
to R86, R97, R117, R120, R174 to R177, R185, R579). -/
def execRoundBoundary (s : State) : Host.Outcome State Fault Refusal :=
  if s.pwr.off then .next s else
  let s := (s.chargeStakes).accountSlip
  let s := s.rset R.roundCountCount 0 s.nextCount
  let s := ((s.recordSlip s.round).countRounds).stepStretch
  let s := (s.sendSync).sendRepeats
  let s := if s.rnd.resend && s.locked then s.request else s
  let s := ((s.refill).freeDone).newPolls
  let s := (s.issue).dispatchLaunches
  .next ((s.checkRunEnd).dispatchHeads)

end Sys2Proof.Machine
end

