-- ==== Sys2Proof/Machine/Tier.lean ====
section
/-!
DEFINITION. The Hamper tier, pools, and placement and prefetch lists (R533 to R557, R561).
-/

namespace Sys2Proof.Machine

/-! ### Frames and records (R539, R540) -/

/-- log2 of a pool's frame size. -/
def State.poolLog (s : State) (p : Nat) : Nat := s.rg R.poolCfgFrameLog2 p
/-- Frame size of a pool. -/
def State.poolF (s : State) (p : Nat) : Nat := 2 ^ s.poolLog p
/-- HBM frames of a pool. -/
def State.poolNh (s : State) (p : Nat) : Nat := s.rg R.poolCountsHbmFrames p
/-- All frames of a pool. -/
def State.poolN (s : State) (p : Nat) : Nat := s.poolNh p + s.rg R.poolCountsHampFrames p

/-- Address of frame i of a pool (R539). -/
def State.frameAddr (s : State) (p i : Nat) : Nat :=
  if i < s.poolNh p then s.rg R.poolHbmBase p + i * s.poolF p
  else s.rg R.poolHampBase p + (i - s.poolNh p) * s.poolF p

/-- The frame of a pool that an address lies in. -/
def State.frameIn (s : State) (p a : Nat) : Option Nat :=
  let F := s.poolF p
  let h := s.rg R.poolHbmBase p
  let l := s.rg R.poolHampBase p
  if h ≤ a ∧ a < h + s.poolNh p * F then some ((a - h) / F)
  else if l ≤ a ∧ a < l + s.rg R.poolCountsHampFrames p * F then some (s.poolNh p + (a - l) / F)
  else none

/-- The enabled pool and frame that an address lies in. -/
def State.frameOf (s : State) (a : Nat) : Option (Nat × Nat) :=
  ((below 1024).filter (fun p => s.rb R.poolCfgEnable p)).findSome? (fun p => (s.frameIn p a).map (fun i => (p, i)))

/-- No frame. -/
abbrev noFrame : Nat := 0xFFFFFFFF

/-- Record of frame i of a pool, 256 bits (R540). -/
def State.frec (s : State) (p i : Nat) : Nat := s.own (s.rg R.poolTableBase p + 32 * i) 32
/-- Write a frame record; where its sector holds a bad word, the read that the merge makes is noted (R476, R487). -/
def State.setFrec (s : State) (p i r : Nat) : State :=
  let a := s.rg R.poolTableBase p + 32 * i
  (s.mergeNote a 32).setBytes a (natLe 32 r)

/-- state of a record. -/
def frState (r : Nat) : Nat := bits r 0 2
/-- pinned. -/
def frPinned (r : Nat) : Bool := bit r 2
/-- context. -/
def frCtx (r : Nat) : Nat := bits r 16 12
/-- va. -/
def frVa (r : Nat) : Nat := bits r 64 48
/-- va2. -/
def frVa2 (r : Nat) : Nat := bits r 128 48
/-- next. -/
def frNext (r : Nat) : Nat := bits r 192 32
/-- prev. -/
def frPrev (r : Nat) : Nat := bits r 224 32

/-- A FREE record with its links. -/
def freeRec : Nat := noFrame * 2 ^ 192 + noFrame * 2 ^ 224

/-- The leaves code of a frame size (R540, R541). -/
def leavesCode (log : Nat) : Nat := if log < 16 then 0 else if log < 21 then 1 else 2

/-! ### The lists (R543) -/

/-- HBM free list of a pool, its head first. -/
def State.hbmFree (s : State) (p : Nat) : List Nat := smGetD s.ms.hbmFree p []
/-- Hamper free list of a pool, its head first. -/
def State.hampFree (s : State) (p : Nat) : List Nat := smGetD s.ms.hampFree p []
/-- Age list of a pool, its head first. -/
def State.ageList (s : State) (p : Nat) : List Nat := smGetD s.ms.age p []

/-- Write the links of a list's records where they differ (R540). -/
def State.writeLinks (s : State) (p : Nat) (aged : Bool) : Nat → List Nat → State
  | _, [] => s
  | prev, i :: l =>
    let r := s.frec p i
    let r' := putBits (putBits r 192 32 (l.headD noFrame)) 224 32 (if aged then prev else noFrame)
    let s := if r = r' then s else s.setFrec p i r'
    s.writeLinks p aged i l

/-- Replace a pool's HBM free list. -/
def State.setHbmFree (s : State) (p : Nat) (l : List Nat) : State :=
  let s := { s with ms := { s.ms with hbmFree := smPut [] s.ms.hbmFree p l } }
  (s.writeLinks p false noFrame l).rset R.poolFreeHbmFree p l.length

/-- Replace a pool's Hamper free list. -/
def State.setHampFree (s : State) (p : Nat) (l : List Nat) : State :=
  let s := { s with ms := { s.ms with hampFree := smPut [] s.ms.hampFree p l } }
  (s.writeLinks p false noFrame l).rset R.poolFreeHampFree p l.length

/-- Replace a pool's age list. -/
def State.setAge (s : State) (p : Nat) (l : List Nat) : State :=
  let s := { s with ms := { s.ms with age := smPut [] s.ms.age p l } }
  s.writeLinks p true noFrame l

/-- A frame leaves the age list, if it is in it. -/
def State.unage (s : State) (p i : Nat) : State :=
  if (s.ageList p).contains i then
    let s := s.setAge p ((s.ageList p).filter (fun x => x != i))
    s.setFrec p i (putBits (putBits (s.frec p i) 192 32 noFrame) 224 32 noFrame)
  else s

/-- A frame joins the age list at its tail and records the Round. -/
def State.joinAge (s : State) (p i : Nat) : State :=
  let s := s.setFrec p i (putBits (s.frec p i) 32 32 s.round)
  s.setAge p (s.ageList p ++ [i])

/-- Push a frame, its record FREE, onto its tier's free list. -/
def State.pushFree (s : State) (p i : Nat) : State :=
  let s := s.setFrec p i freeRec
  if i < s.poolNh p then s.setHbmFree p (i :: s.hbmFree p) else s.setHampFree p (i :: s.hampFree p)

/-! ### Leaves (R521, R522, R541) -/

/-- Walk a context's table without its caches: the level and address of the first entry that is
invalid, a leaf or malformed, and the entry; none where a table cannot be read. -/
def leafWalk (s : State) (va : Nat) : Nat → Nat → Nat → Option (Nat × Nat × Nat)
  | 0, _, _ => none
  | fuel + 1, level, t =>
    let a := t + vaIndex level va * 8
    if s.region a ≠ .hbm ∨ s.readStatus a 8 ≠ 0 then none
    else
      let e := s.num a 8
      if ¬ bit e 0 ∨ bit e 1 ∨ pteMalformed level va e then some (level, a, e)
      else leafWalk s va fuel (level + 1) (bits e 12 36 * 4096)

/-- The entry at which a context's walk of an address ends. -/
def State.leafAt (s : State) (ctx va : Nat) : Option (Nat × Nat × Nat) :=
  if s.rb R.ctxPtRootValid ctx then leafWalk s va 4 0 (s.rg R.ctxPtRootRoot ctx * 4096) else none

/-- A leaf entry: page address, hint, policy (R522, R541). -/
def leafEntry (pa : Nat) (contig noAlloc : Bool) : Nat :=
  7 + 8 * b2n contig + 16 * b2n noAlloc + pa / 4096 * 4096

/-- Level at which a frame of F bytes has its leaves, and bytes of each. -/
def leafLevel (log : Nat) : Nat × Nat := if log = 21 then (2, 2 ^ 21) else (3, 4096)

/-- Addresses of the leaf entries of a frame of F bytes mapped at va, with the offset each maps;
none where a table above them is missing or, where `free` says so, a leaf is valid. -/
def State.leafSlots (s : State) (ctx va log : Nat) (free : Bool) : Option (List (Nat × Nat)) :=
  let lv := leafLevel log
  let slots := (below (2 ^ log / lv.2)).map (fun i =>
    match s.leafAt ctx (va + i * lv.2) with
    | some (level, a, e) => if level = lv.1 ∧ (free = false ∨ ¬ bit e 0) then some (a, i * lv.2) else none
    | none => none)
  allSome slots

/-- Write the leaves of a frame mapped at va (R541): `f` gives the entry for an offset and the old
entry. -/
def State.putLeaves (s : State) (ctx va log : Nat) (f : Nat → Nat → Nat) : State :=
  match s.leafSlots ctx va log false with
  | none => s
  | some l => l.foldl (fun s x => s.setBytes x.1 (natLe 8 (f x.2 (s.num x.1 8)))) s

/-- The mappings of a record. -/
def frVas (r : Nat) : List Nat := if frVa2 r = 0 then [frVa r] else [frVa r, frVa2 r]

/-- Invalidate the mappings of a record (R532). -/
def State.invalVas (s : State) (r F : Nat) : State :=
  (frVas r).foldl (fun s va => s.invalidate false (frCtx r) va F) s

/-! ### Moving and popping (R545, R546, R557) -/

/-- A status, and the virtual address of the byte at which it arose (R139). -/
abbrev FailAt := Status × Nat

/-- Move a MAPPED frame i to the popped frame j (R546).  A status of the copy leaves the source mapped
and pushes back the destination (R557); it is answered with the address, in the frame's mapping, of the failing byte. -/
def State.moveFrame (s : State) (ctx p i j : Nat) : State × Option FailAt :=
  let F := s.poolF p
  let r := s.frec p i
  let rd := s.pread ctx (s.frameAddr p i) F true
  let wr := if rd.st = 0 then rd.s.pwrite ctx (rd.s.frameAddr p j) rd.bs true else ⟨rd.s, rd.st, rd.off⟩
  if wr.st ≠ 0 then (wr.s.pushFree p j, some (wr.st, frVa r + wr.off))
  else
    let s := wr.s.unage p i
    let base := s.frameAddr p j
    let s := (frVas r).foldl (fun s va => s.putLeaves (frCtx r) va (s.poolLog p) (fun o e =>
      e % 4096 + (base + o) / 4096 * 4096 + e / 2 ^ 48 * 2 ^ 48)) s
    let s := s.invalVas r F
    let s := s.setFrec p j (putBits (putBits r 192 32 noFrame) 224 32 noFrame)
    let s := s.pushFree p i
    (if j < s.poolNh p ∧ ¬ frPinned r then s.joinAge p j else s, none)

/-- Pop a Hamper frame. -/
def State.popHamp (s : State) (p : Nat) : State × Option Nat :=
  match s.hampFree p with
  | [] => (s, none)
  | i :: l => (s.setHampFree p l, some i)

/-- Pop an HBM frame, evicting the head of the age list where the free list is empty (R545).  Answers
a status where the eviction's copy meets one. -/
def State.popHbm (s : State) (ctx p : Nat) : State × Except FailAt (Option Nat) :=
  match s.hbmFree p with
  | i :: l => (s.setHbmFree p l, .ok (some i))
  | [] =>
    match s.ageList p, s.hampFree p with
    | a :: _, _ :: _ =>
      let h := s.popHamp p
      match h.1.moveFrame ctx p a (h.2.getD 0) with
      | (s, some x) => (s, .error x)
      | (s, none) =>
        let s := s.radd R.poolEvictionsCount p 1
        match s.hbmFree p with
        | i :: l => (s.setHbmFree p l, .ok (some i))
        | [] => (s, .ok none)
    | _, _ => (s.radd R.poolMissesFailedPops p 1, .ok none)

/-- Pop a frame of a tier: 0 HBM, 1 Hamper. -/
def State.popTier (s : State) (ctx p tier : Nat) : State × Except FailAt (Option Nat) :=
  if tier = 0 then s.popHbm ctx p else let h := s.popHamp p; (h.1, .ok h.2)

/-- Pin or unpin a frame (R543). -/
def State.setPin (s : State) (p i : Nat) (pin : Bool) : State :=
  let r := s.frec p i
  if frPinned r = pin then s
  else
    let s := s.setFrec p i (putBits r 2 1 (b2n pin))
    if pin then s.unage p i else if i < s.poolNh p then s.joinAge p i else s

/-- Map a popped frame at va for a context; the leaves that it writes are invalidated (R532, R541, R543). -/
def State.mapFrame (s : State) (ctx p i va : Nat) (pin noAlloc : Bool) : State :=
  let log := s.poolLog p
  let base := s.frameAddr p i
  let s := s.putLeaves ctx va log (fun o _ => leafEntry (base + o) (decide (16 ≤ log ∧ log < 21)) noAlloc)
  let s := s.invalidate false ctx va (2 ^ log)
  let s := s.setFrec p i (1 + 4 * b2n pin + 8 * leavesCode log + ctx * 2 ^ 16 + va * 2 ^ 64 + freeRec)
  if i < s.poolNh p ∧ ¬ pin then s.joinAge p i else s

/-- Unmap a frame: clear its leaves, invalidate, free it (R550). -/
def State.unmapFrame (s : State) (p i : Nat) : State :=
  let r := s.frec p i
  let s := (frVas r).foldl (fun s va => s.putLeaves (frCtx r) va (s.poolLog p) (fun _ _ => 0)) s
  let s := (s.invalVas r (s.poolF p)).unage p i
  s.pushFree p i

/-! ### Enabling a pool (R542, R561) -/

/-- Follow a free or age list from a head through its records. -/
def State.followList (s : State) (p : Nat) : Nat → Nat → List Nat
  | 0, _ => []
  | n + 1, i => if i = noFrame then [] else i :: s.followList p n (frNext (s.frec p i))

/-- The list of the frames of a set as their records link them, where it holds each exactly once. -/
def State.adoptList (s : State) (p : Nat) (set : List Nat) : Option (List Nat) :=
  if set.isEmpty then some []
  else
    match set.find? (fun i => !(set.any (fun k => frNext (s.frec p k) == i))) with
    | none => none
    | some h =>
      let l := s.followList p (set.length + 1) h
      if l.length = set.length ∧ set.all (fun i => l.contains i) then some l else none

/-- Whether a record has a reserved bit or value set (R540). -/
def frecBad (r : Nat) : Bool :=
  clearFields r [(0, 2), (2, 1), (3, 2), (16, 12), (32, 32), (64, 48), (128, 48), (192, 32), (224, 32)] != 0 ||
  decide (2 ≤ frState r) || bits r 3 2 == 3

/-- Enable a pool whose configuration registers are written; a failed check refuses it (R542). -/
def State.poolEnable (s : State) (p : Nat) : State :=
  let F := s.poolF p
  let n := s.poolN p
  let nh := s.poolNh p
  let h := s.rg R.poolHbmBase p
  let l := s.rg R.poolHampBase p
  let t := s.rg R.poolTableBase p
  let home := s.rg R.poolCfgHome p
  let w := s.rg R.memWindowBaseBase home
  let refuse := s.rset R.poolCfgCfgRefused p 1
  let bad : Bool := h % F != 0 || l % F != 0 || t % 64 != 0 || decide (n = 0 ∨ 0xFFFFFFFE < n) ||
    (nh != 0 && decide (h < w ∨ w + s.rg R.memWindowSizeSize home < h + nh * F)) ||
    (n != nh && decide (l < 0x100000000000 ∨ s.rg R.hampEndEnd 0 < l + (n - nh) * F)) ||
    decide (s.rg R.memHbmEndEnd 0 < t + 32 * n)
  if bad then refuse
  else if ¬ s.rb R.poolCfgKeep p then
    let s := (below n).foldl (fun s i => s.setFrec p i freeRec) s
    (((s.setHbmFree p (below nh)).setHampFree p (upFrom nh (n - nh))).setAge p []).rset R.poolCfgEnable p 1
  else
    let rs := (below n).map (fun i => (i, s.frec p i))
    if rs.any (fun x => frecBad x.2) then refuse
    else
      let pick := fun (q : Nat → Nat → Bool) => (rs.filter (fun x => q x.1 x.2)).map Prod.fst
      match s.adoptList p (pick (fun i r => decide (i < nh) && frState r == 0)),
            s.adoptList p (pick (fun i r => decide (nh ≤ i) && frState r == 0)),
            s.adoptList p (pick (fun i r => decide (i < nh) && frState r == 1 && !frPinned r)) with
      | some a, some b, some c => (((s.setHbmFree p a).setHampFree p b).setAge p c).rset R.poolCfgEnable p 1
      | _, _, _ => refuse

/-- POOL_ENABLE: a write to POOL_CFG: its fields while the pool is disabled, then enable (R542, R561). -/
def execPoolEnable (pool value fn : Nat) (s : State) : Host.Outcome State Fault Refusal :=
  if ¬ s.barOpen 0x800000 then .next s else
  if fn ≠ 0 ∨ 1024 ≤ pool then .next s
  else
    let s := if bit value 2 then s.rset R.poolCfgCfgRefused pool 0 else s
    if s.rb R.poolCfgEnable pool then
      if bit value 0 ∨ (s.hbmFree pool).length + (s.hampFree pool).length ≠ s.poolN pool then .next s
      else
        let s := { s with ms := { s.ms with
            hbmFree := smErase s.ms.hbmFree pool, hampFree := smErase s.ms.hampFree pool, age := smErase s.ms.age pool } }
        .next (((s.rset R.poolFreeHbmFree pool 0).rset R.poolFreeHampFree pool 0).rset R.poolCfgEnable pool 0)
    else
      let s := (s.rset R.poolCfgKeep pool (bits value 1 1)).rset R.poolCfgHome pool (bits value 8 4)
      let s := if 12 ≤ bits value 12 5 ∧ bits value 12 5 ≤ 21 then s.rset R.poolCfgFrameLog2 pool (bits value 12 5) else s
      let s := s.rset R.poolCfgPartition pool (bits value 24 6)
      .next (if bit value 0 then s.poolEnable pool else s)

/-! ### Lists (R549 to R557) -/

/-- op of a list entry. -/
def leOp (e : Nat) : Nat := bits e 0 3
/-- address. -/
def leAddr (e : Nat) : Nat := bits e 64 48
/-- length. -/
def leLen (e : Nat) : Nat := bits e 128 40

/-- Whether a list entry is malformed (R549). -/
def State.entryMalformed (s : State) (e : Nat) : Bool :=
  let F := s.poolF (bits e 16 10)
  clearFields e [(0, 3), (3, 1), (4, 1), (5, 1), (6, 1), (16, 10), (64, 48), (128, 40), (192, 48)] != 0 ||
  decide (4 < leOp e) || (bit e 3 && bit e 4) || leLen e == 0 ||
  (if leOp e = 2 then leAddr e % 64 != 0 || leLen e % 64 != 0
   else leAddr e % 4096 != 0) ||
  (leOp e == 3 && (leAddr e % F != 0 || leLen e % F != 0))

/-- The pool and frame that a leaf of a context maps at an address. -/
def State.poolFrameAt (s : State) (ctx va : Nat) : Option (Nat × Nat) :=
  match s.leafAt ctx va with
  | some (level, _, e) => if bit e 0 ∧ ¬ pteMalformed level va e then s.frameOf (bits e 12 36 * 4096) else none
  | none => none

/-- Addresses in a range of a context at which pool frames are mapped, one in each mapping, rising (R550).  The fuel
bounds the leaves passed. -/
def State.framesIn (s : State) (ctx last : Nat) : Nat → Nat → List Nat
  | 0, _ => []
  | fuel + 1, va =>
    if last < va then []
    else
      match s.leafAt ctx va with
      | none => if s.rb R.ctxPtRootValid ctx then s.framesIn ctx last fuel ((va / 4096 + 1) * 4096) else []
      | some (level, _, e) =>
        let span := 2 ^ (39 - 9 * level)
        let next := (va / span + 1) * span
        if ¬ bit e 0 ∨ pteMalformed level va e then s.framesIn ctx last fuel next
        else
          match s.frameOf (bits e 12 36 * 4096) with
          | none => s.framesIn ctx last fuel next
          | some (p, _) =>
            let F := s.poolF p
            va :: s.framesIn ctx last fuel (max next ((va / F + 1) * F))

/-- Of addresses in a range, the first in each frame. -/
def State.eachFrame (s : State) (ctx : Nat) : List Nat → List (Nat × Nat) → List Nat
  | [], _ => []
  | va :: l, seen =>
    match s.poolFrameAt ctx va with
    | none => s.eachFrame ctx l seen
    | some x => if seen.contains x then s.eachFrame ctx l seen else va :: s.eachFrame ctx l (x :: seen)

/-- Addresses of the frames that an entry acts on, each frame once. -/
def State.entryFrames (s : State) (ctx e : Nat) : List Nat :=
  s.eachFrame ctx (s.framesIn ctx (leAddr e + leLen e - 1) (leLen e / 4096 + 1026) (leAddr e)) []

/-- Count a miss of a pool (R551). -/
def State.noteMiss (s : State) (p : Nat) : State := s.radd R.poolMissesCount p 1

/-- PROMOTE or DEMOTE the frame mapped at an address: move it to a tier, then apply pin or unpin (R550, R551).
Answers the pool where no frame could be popped, or the status that the move met. -/
def State.moveOne (s : State) (ctx tier : Nat) (pin unpin : Bool) (va : Nat) : State × Except FailAt (Option Nat) :=
  match s.poolFrameAt ctx va with
  | none => (s, .ok none)
  | some (p, i) =>
    let fix := fun (s : State) j => if pin then s.setPin p j true else if unpin then s.setPin p j false else s
    if decide (i < s.poolNh p) == (tier == 0) then (fix s i, .ok none)
    else
      match s.popTier ctx p tier with
      | (s, .error x) => (s, .error x)
      | (s, .ok none) => (s, .ok (some p))
      | (s, .ok (some j)) =>
        match s.moveFrame ctx p i j with
        | (s, some x) => (s, .error x)
        | (s, none) => (fix s j, .ok none)

/-- The misses of an entry some of whose frames stayed where they were: one, counted in each pool concerned (R551). -/
def State.noteMisses (s : State) (pools : List Nat) : State × Nat :=
  (pools.foldl State.noteMiss s, b2n (!pools.isEmpty))

/-- How a list entry was applied: its misses, and what ended it (R551, R553). -/
abbrev Applied := State × Nat × Option FailAt

/-- PROMOTE or DEMOTE the frames mapped at some addresses in turn; so far, frames of some pools could not be moved
(R550, R551). -/
def State.moveRange (s : State) (ctx tier : Nat) (pin unpin : Bool) : List Nat → List Nat → Applied
  | [], ps => let m := s.noteMisses ps; (m.1, m.2, none)
  | va :: l, ps =>
    match s.moveOne ctx tier pin unpin va with
    | (s, .error x) => let m := s.noteMisses ps; (m.1, m.2, some x)
    | (s, .ok none) => s.moveRange ctx tier pin unpin l ps
    | (s, .ok (some p)) => s.moveRange ctx tier pin unpin l (if ps.contains p then ps else ps ++ [p])

/-- Pop frames of a tier until n are popped; the last popped first. -/
def State.popMany (s : State) (ctx p tier : Nat) : Nat → List Nat → State × Except FailAt (List Nat × Bool)
  | 0, acc => (s, .ok (acc, true))
  | n + 1, acc =>
    match s.popTier ctx p tier with
    | (s, .error st) => (acc.foldl (fun s i => s.pushFree p i) s, .error st)
    | (s, .ok none) => (s, .ok (acc, false))
    | (s, .ok (some i)) => s.popMany ctx p tier n (i :: acc)

/-- MAP: pop frames and map them in ascending order, or push them back and count a miss (R550, R551). -/
def State.mapRange (s : State) (ctx e : Nat) : Applied :=
  let p := bits e 16 10
  let F := s.poolF p
  let n := leLen e / F
  let open_ := (below n).all (fun k => (s.leafSlots ctx (leAddr e + k * F) (s.poolLog p) true).isSome)
  match s.popMany ctx p (bits e 5 1) n [] with
  | (s, .error x) => (s, 0, some x)
  | (s, .ok (l, full)) =>
    if full ∧ open_ then
      ((l.reverse.zip (below n)).foldl (fun s x => s.mapFrame ctx p x.1 (leAddr e + x.2 * F) (bit e 3) (bit e 6)) s, 0, none)
    else ((l.foldl (fun s i => s.pushFree p i) s).noteMiss p, 1, none)

/-- Unmap the pool frame mapped at an address of a context. -/
def State.unmapAt (s : State) (ctx va : Nat) : State :=
  match s.poolFrameAt ctx va with
  | some (p, i) => s.unmapFrame p i
  | none => s

/-- UNMAP: unmap each frame of the range (R550). -/
def State.unmapRange (s : State) (ctx e : Nat) : Applied :=
  ((s.entryFrames ctx e).foldl (fun s va => s.unmapAt ctx va) s, 0, none)

/-- Apply a list entry's effect: its misses, and the status and info with which it ends the list, if it does (R550,
R551, R553). -/
def State.applyEntry (s : State) (rq : Rq) (e : Nat) : Applied :=
  match leOp e with
  | 0 => s.moveRange rq.ctx 0 (bit e 3) (bit e 4) (s.entryFrames rq.ctx e) []
  | 1 => s.moveRange rq.ctx 1 (bit e 3) (bit e 4) (s.entryFrames rq.ctx e) []
  | 2 =>
    let r := s.copyPlain rq (leAddr e) (bits e 192 48) (leLen e)
    (r.1, 0, r.2)
  | 3 =>
    let p := bits e 16 10
    if ¬ s.rb R.poolCfgEnable p ∨ (rq.ctx ≠ 0 ∧ s.rg R.poolCfgPartition p ≠ s.rg R.ctxCfgPartition rq.ctx) then
      (s, 0, some (stCmdDenied, 0))
    else s.mapRange rq.ctx e
  | _ => s.unmapRange rq.ctx e

/-- The list of some number, where it has not ended. -/
def State.list (s : State) (id : Nat) : Option PfList := s.lists.find? (fun l => l.id == id && l.fin.isNone)

/-- Replace a list. -/
def State.setList (s : State) (l : PfList) : State :=
  { s with lists := s.lists.map (fun x => if x.id = l.id then l else x) }

/-- An accepted entry of the Weave table finishes (R94). -/
def State.finishEntry (s : State) (entry occ : Nat) : State :=
  let s := s.markLate
  { s with wtab := { s.wtab with active := s.wtab.active.filter (fun e => !(e.idx == entry && e.occ == occ)) } }

/-- A list ends: its packet's completion carries the misses, and a status of class 0x02xx or 0x03xx of
a HAMPER_PREFETCH entry's list raises FLT_HAMPER_FAIL (R553, R555, R557). -/
def State.endList (s : State) (l : PfList) (st info : Nat) : State :=
  let s := { s with lists := s.lists.filter (fun x => x.id != l.id) }
  match l.packet with
  | some (ring, slot) => s.finish l.ctx ring slot ⟨st, l.misses, infoOf st info⟩
  | none =>
    let s := s.finishEntry l.entry l.occ
    if stClass st = 2 ∨ stClass st = 3 then
      s.raise { FaultInfo.mk0 fltHamperFail 7 0 with part := l.part, ctx := l.ctx, status := st, addr := info }
    else s

/-- The next entry of a list, where its op is the command's: entries take effect in list order (R552). -/
def State.listWork (s : State) (id op : Nat) : State :=
  match s.list id with
  | none => s
  | some l =>
    let rq := s.frontRq l.ctx
    let va := l.va + 32 * l.next
    let rd := s.vread rq va 32
    let e := leNat rd.bs
    if rd.st ≠ 0 then rd.s.endList l rd.st (va + rd.off)
    else if rd.s.entryMalformed e then rd.s.endList l stCmdMalformed 0
    else if leOp e ≠ op then s
    else
      match rd.s.applyEntry rq e with
      | (s, m, some x) => s.endList { l with misses := l.misses + m } x.1 x.2
      | (s, m, none) =>
        let l := { l with next := l.next + 1, misses := l.misses + m }
        if l.count ≤ l.next then (s.setList l).endList l stOk 0 else s.setList l

/-- Run the next entry of a list; that of a PREFETCH packet waits while a regulator holds its transfers back (R187). -/
def State.listStep (s : State) (id op : Nat) : State :=
  match s.list id with
  | none => s
  | some l =>
    let t := s.listWork id op
    if l.packet.isSome && s.regulated t l.ctx then s else t

/-- PROMOTE: the next entry of a list moves Hamper frames into HBM frames (R550). -/
def execPromote (id : Nat) (s : State) : Host.Outcome State Fault Refusal := .next (s.listStep id 0)
/-- DEMOTE: the next entry of a list moves HBM frames into Hamper frames (R550). -/
def execDemote (id : Nat) (s : State) : Host.Outcome State Fault Refusal := .next (s.listStep id 1)
/-- LIST_COPY: the next entry of a list copies bytes through translation (R550). -/
def execListCopy (id : Nat) (s : State) : Host.Outcome State Fault Refusal := .next (s.listStep id 2)
/-- MAP: the next entry of a list pops frames and maps them (R550). -/
def execMap (id : Nat) (s : State) : Host.Outcome State Fault Refusal := .next (s.listStep id 3)
/-- UNMAP: the next entry of a list unmaps frames (R550). -/
def execUnmap (id : Nat) (s : State) : Host.Outcome State Fault Refusal := .next (s.listStep id 4)

/-- A number for a new list. -/
def State.nextList (s : State) : Nat := (s.lists.map (fun l => l.id + 1)).foldl max 0

/-- PREFETCH: a dispatched packet's list begins (R552). -/
def execPrefetch (ctx ring slot : Nat) (s : State) : Host.Outcome State Fault Refusal :=
  match s.running ctx ring slot 0x40 with
  | none => .next s
  | some p =>
    if s.lists.any (fun l => l.ctx == ctx && l.packet == some (ring, slot)) then .next s
    else
      let l : PfList := ⟨s.nextList, ctx, s.rg R.ctxCfgPartition ctx, some (ring, slot), 0, 0, 0, bits p.words 256 48,
        bits p.words 320 16, 0, 0, none⟩
      .next { s with lists := s.lists ++ [l] }

/-- PLACE: one PROMOTE or DEMOTE over its range with pin or unpin (R554, R555). -/
def execPlace (ctx ring slot : Nat) (s : State) : Host.Outcome State Fault Refusal :=
  .next (s.runPacket ctx ring slot 0x41 (fun p =>
    let w := p.words
    let e := bits w 256 48 * 2 ^ 64 + bits w 320 40 * 2 ^ 128
    match s.moveRange ctx (bits w 360 2) (bit w 362) (!bit w 362) (s.entryFrames ctx e) [] with
    | (s, m, none) => (s, ⟨stOk, m, 0⟩)
    | (s, m, some x) => (s, ⟨x.1, m, infoOf x.1 x.2⟩)))

/-- Whether a HAMPER_PREFETCH entry waits for a running weave of its context whose entry fell due at an earlier Round
(R556). -/
def State.prefetchHeld (s : State) (e : EntryOcc) : Bool :=
  s.weaves.any (fun w => w.launch && w.doneAt.isNone && w.ctx == weCtx e.words && decide (w.due < e.due))

/-- Accept a HAMPER_PREFETCH entry: its list begins (R92, R556). -/
def State.acceptPrefetch (s : State) (e : EntryOcc) : State :=
  if s.prefetchHeld e then s
  else
    let w := e.words
    let s := s.unwait e
    let l : PfList := ⟨s.nextList, weCtx w, wePart w, none, e.idx, e.occ, e.due, bits w 64 48, bits w 112 16, 0, 0, none⟩
    { s with lists := s.lists ++ [l], wtab := { s.wtab with active := s.wtab.active ++ [e] } }

/-- HAMPER_TIMEOUT: a request to a live Hamper channel has not completed in time: the channel fails,
and FLT_HAMPER_FAIL is raised (R538).  Later accesses meet ST_MEM_HAMPER_FAIL at once. -/
def execHamperTimeout (ch : Nat) (s : State) : Host.Outcome State Fault Refusal :=
  if 64 ≤ ch ∨ ¬ s.rb R.hampChanStateLive ch ∨ s.rb R.hampChanStateFailed ch then .next s
  else .next ((s.rset R.hampChanStateFailed ch 1).raise { FaultInfo.mk0 fltHamperFail 5 ch with
    status := stMemHamperFail })

end Sys2Proof.Machine
end

