-- ==== Sys2Proof/Machine/Wale.lean ====
section
/-!
DEFINITION. Wale ports: bring-up, flits, retry, credits, routing, link slots, the messages that write
and add into memory, and the test engines (R562 to R606).
-/

namespace Sys2Proof.Machine

/-! ### Ports -/

/-- The state of a port: 0 DISABLED, 1 DETECT, 2 TRAIN, 3 ALIGN, 4 IDENT, 5 UP (R605). -/
def State.portState (s : State) (n : Nat) : Nat := s.rg R.walePortStatusState n

/-- Whether a port is UP. -/
def State.isUp (s : State) (n : Nat) : Bool := decide (n < 16) && s.portState n == 5

/-- Whether the Weave table runs. -/
def State.tableRuns (s : State) : Bool := s.rg R.weaveStatusState 0 == 3

/-- The module's own identifier (R590). -/
def State.ownId (s : State) : Nat := s.rg R.waleCfgModuleId 0

/-- The IDENT symbol that the module sends on a port (R576). -/
def State.ownIdent (s : State) (n : Nat) : Sym :=
  .ident s.ownId n 0x0B320001 (!(s.rb R.roundCfgRole 0)) s.tableRuns

/-- A port leaves UP: its peer's state, the count, and FLT_WALE_DOWN where a job ran over it (R597, R598).
`dest` is the state it enters. -/
def State.leaveUp (s : State) (n dest peer : Nat) : State :=
  let s := ((s.rset R.walePortStatusState n dest).rset R.walePortStatusPeer n peer).radd R.waleDownCountCount n 1
  let s := s.timingDrop n
  let p := s.port n
  let s := s.setPort n { p with idents := 0, ident := 0, failed := false, replay := [], asked := false, retryRun := 0 }
  if s.rb R.walePortCtrlJob n ∧ s.tableRuns then
    s.raise { FaultInfo.mk0 fltWaleDown 3 n with detail := peer }
  else s

/-- A write of WALE_PORT_CTRL but for enable (R605). -/
def State.writePort (s : State) (n v : Nat) : State :=
  let s := if bits v 1 2 = 3 then s else s.rset R.walePortCtrlMedium n (bits v 1 2)
  (s.rset R.walePortCtrlJob n (bits v 3 1)).rset R.walePortCtrlLoop n (bits v 4 1)

/-- Send LINK_DOWN on an UP port and take it out of UP into a state (R597). -/
def State.sendDown (s : State) (n reason dest : Nat) : State :=
  if s.isUp n then (s.sendSym n (.linkDown reason)).leaveUp n dest (s.rg R.walePortStatusPeer n) else s

/-- PORT_ENABLE: a write of WALE_PORT_CTRL: enable brings the port up from DETECT, or takes it down after
LINK_DOWN with reason 3 (R595, R597). -/
def execPortEnable (port value fn : Nat) (s : State) : Host.Outcome State Fault Refusal :=
  if ¬ s.barOpen 0x900000 then .next s else
  if 16 ≤ port ∨ fn ≠ 0 then .next s
  else
    let was := s.rb R.walePortCtrlEnable port
    let s := (s.writePort port value).rset R.walePortCtrlEnable port (bits value 0 1)
    if bit value 0 ∧ ¬ was then
      .next (((s.rset R.walePortStatusState port 1).rset R.walePortStatusPeer port 0).setPort port PortSt.empty)
    else if ¬ bit value 0 ∧ was then
      let s := s.sendDown port 3 0
      .next (((s.rset R.walePortStatusState port 0).rset R.walePortStatusPeer port 0).setPort port PortSt.empty)
    else .next s

/-- Move a port on where it is in a state and no bound was exceeded. -/
def State.portStep (s : State) (n st : Nat) (t : State) : State :=
  if n < 16 ∧ s.portState n = st ∧ ¬ (s.port n).failed then t else s

/-- SIGNAL_DETECT: signal on all lanes takes a port from DETECT to TRAIN (R595). -/
def execSignalDetect (port : Nat) (s : State) : Host.Outcome State Fault Refusal :=
  .next (s.portStep port 1 (s.rset R.walePortStatusState port 2))

/-- TRAINING_DONE: every lane adapted takes a port from TRAIN to ALIGN (R595). -/
def execTrainingDone (port : Nat) (s : State) : Host.Outcome State Fault Refusal :=
  .next (s.portStep port 2 (s.rset R.walePortStatusState port 3))

/-- PAIR_LOCK: pair lock and deskew take a port from ALIGN to IDENT, with the lane order and polarity
found (R565, R595, R605). -/
def execPairLock (port : Nat) (reversed : Bool) (polarity : Nat) (s : State) : Host.Outcome State Fault Refusal :=
  let t := (s.rset R.walePortStatusState port 4).rset R.walePortStatusLaneReversed port (b2n reversed)
  let t := (t.rset R.walePortStatusPolarity port polarity).setPort port { s.port port with idents := 0, ident := 0 }
  .next (s.portStep port 3 (t.sendSym port (s.ownIdent port)))

/-- Whether a Pairing port serves its partner, as its peer's identifier says (R594). -/
def State.notePair (s : State) (port : Nat) : State :=
  s.rset R.walePortStatusPairMismatch port
    (b2n (!(s.rb R.walePairEnable 0) || s.rg R.walePairPartner 0 != s.rg R.walePortStatusPeerId port))

/-- Record what IDENT says of the peer, and whether a Pairing port serves its partner (R594, R605). -/
def State.notePeer (s : State) (port id peerPort : Nat) : State :=
  let s := (s.rset R.walePortStatusPeerId port id).rset R.walePortStatusPeerPort port peerPort
  if port = 7 ∨ port = 15 then s.notePair port else s

/-- The port comes UP: its transmitter holds every credit (R584, R595). -/
def State.comeUp (s : State) (port : Nat) : State :=
  let p := s.port port
  let s := s.setPort port { p with
    idents := 0, ident := 0, used := [], shared := [], owe := [], asked := false, retryRun := 0
    parts := p.parts.map (fun e => (e.1, { e.2 with res := 0, shr := 0 })) }
  let s := { s with wale := { s.wale with inbox := s.wale.inbox.map (fun (m : Msg) =>
      if m.port = port then { m with res := 0, shr := 0 } else m) } }
  (s.rset R.walePortStatusState port 5).rset R.walePortStatusPeer port 1

/-- IDENT: a received IDENT symbol is recorded; three identical ones take the port UP (R594, R595). -/
def execIdent (port id peerPort part : Nat) (master running : Bool) (s : State) : Host.Outcome State Fault Refusal :=
  let w := symWord (.ident id peerPort part master running)
  let p := s.port port
  let k := if p.ident = w then p.idents + 1 else 1
  let t := (s.notePeer port (id % 65536) (peerPort % 16)).setPort port { p with idents := k, ident := w }
  .next (s.portStep port 4 (if 3 ≤ k then t.comeUp port else t.sendSym port (s.ownIdent port)))

/-- TRAIN_FAIL: a port exceeds the bound of TRAIN, ALIGN or IDENT (R595). -/
def execTrainFail (port : Nat) (s : State) : Host.Outcome State Fault Refusal :=
  if 16 ≤ port ∨ s.portState port < 2 ∨ 4 < s.portState port ∨ (s.port port).failed then .next s
  else .next ((s.rset R.walePortStatusTrainFail port 1).setPort port { s.port port with failed := true })

/-- RETURN_TO_DETECT: 10 ms after a bound was exceeded the port returns to DETECT (R595). -/
def execReturnToDetect (port : Nat) (s : State) : Host.Outcome State Fault Refusal :=
  if (s.port port).failed then
    .next ((s.rset R.walePortStatusState port 1).setPort port { s.port port with failed := false, idents := 0 })
  else .next s

/-- LINK_DOWN: a received LINK_DOWN takes the port out of UP, its peer DEPARTED (R597, R598). -/
def execLinkDown (port reason : Nat) (s : State) : Host.Outcome State Fault Refusal :=
  if s.isUp port ∧ reason < 4 then .next (s.leaveUp port 1 2) else .next s

/-- LINK_LOSS: the port loses pair lock for 1 µs, or 16 RETRY symbols in a row named one number: it
leaves UP, its peer LOST (R582, R597). -/
def execLinkLoss (port : Nat) (lock : Bool) (s : State) : Host.Outcome State Fault Refusal :=
  if s.isUp port ∧ (lock ∨ 16 ≤ (s.port port).retryRun) then .next (s.leaveUp port 1 3) else .next s

/-! ### Sending (R569, R580, R585, R587, R588, R591) -/

/-- The port of the route table for a module, where its entry is valid (R591, R604). -/
def State.route (s : State) (dst : Nat) : Option Nat :=
  let f := match dst % 4 with
    | 0 => (R.waleRoutePort0, R.waleRouteValid0)
    | 1 => (R.waleRoutePort1, R.waleRouteValid1)
    | 2 => (R.waleRoutePort2, R.waleRouteValid2)
    | _ => (R.waleRoutePort3, R.waleRouteValid3)
  if s.rb f.2 (dst / 4) then some (s.rg f.1 (dst / 4)) else none

/-- Send a message on a port, or within the module where it is its own destination (R591).  Answers the
message's number. -/
def State.send (s : State) (m : Msg) : State × Nat :=
  let id := s.wale.nextMsg
  let s := { s with wale := { s.wale with nextMsg := id + 1 } }
  if m.dst = s.ownId then
    ({ s with wale := { s.wale with inbox := s.wale.inbox ++ [{ m with id := id, port := 16 }] } }, id)
  else
    let p := s.port m.port
    (s.setPort m.port { p with out := p.out ++ [{ m with id := id }] }, id)

/-- Whether a message has been accepted by the receiving port, flit by flit (R581). -/
def State.accepted (s : State) (id : Nat) : Bool :=
  s.wale.ports.all (fun e => e.2.out.all (fun m => m.id != id) && e.2.kept.all (fun f => f.msg != id))

/-- The bytes of a message as its flits carry them (R571). -/
def Msg.stream (m : Msg) : List Byte := natLe 32 m.header ++ m.data

/-- An open link slot of a VC of a port that has credit left (R588). -/
def State.openSlot (s : State) (port vc : Nat) : Option EntryOcc :=
  s.wtab.active.find? (fun e => weKind e.words == 2 && bits e.words 64 4 == port && 32 + bits e.words 68 4 == vc &&
    decide (((s.wale.carried.find? (fun c => c.1 == e.idx && c.2.1 == e.occ)).map (fun c => c.2.2)).getD 0 <
      64 * bits e.words 96 32))

/-- Whether a message counts as scheduled traffic on a port (R187, R587, R588). -/
def State.scheduled (s : State) (port : Nat) (m : Msg) : Bool := m.sched || (s.openSlot port m.vc).isSome

/-- The rank of the partitions that are not real-time ones, which share a port by weight (R188). -/
abbrev wrrRank : Nat := 100

/-- Weighted round robin (R188): the partition that sends next is the one whose turn it is while it has units left, or
the next one by number with something to send and units left once its turn has given it its weight.  A flit may take a
partition below zero; a partition with nothing to send keeps no units.  The order of the turns is the model's choice
(log entry 46). -/
def wrrNext (weight : Nat → Nat) (has : List Nat) : Nat → Nat → SMap Int → Nat × SMap Int
  | 0, t, l => (t, l)
  | fuel + 1, t, l =>
    if has.contains t ∧ 0 < smGetD l t 0 then (t, l)
    else
      let n := (t + 1) % 64
      let v := smGetD l n 0
      wrrNext weight has fuel n (smPut 0 l n (if has.contains n then v + weight n else min v 0))

/-- The rank of a message in the order of R188, where it has credit and no regulator holds it back;
none where it is passed over (R187, R585, R587). -/
def State.txRank (s : State) (port : Nat) (p : PortSt) (m : Msg) : Option Nat :=
  let vcShared := (p.shared.filter (fun v => v == m.vc)).length
  if ¬ (smGetD p.used m.vc 0 < 16 ∨ (p.shared.length < 3328 ∧ vcShared < 2048)) then none
  else if s.scheduled port m then some 0
  else if m.ctx = 0 then some 1
  else if s.heldBack m.ctx 2 then none
  else
    let q := s.rg R.ctxCfgPartition m.ctx
    some (if s.rb R.partCfgRealtime q then 2 + q else wrrRank)

/-- The head message of each VC of a port, in order. -/
def vcHeads : List Msg → List Nat → List Msg
  | [], _ => []
  | m :: ms, seen => if seen.contains m.vc then vcHeads ms seen else m :: vcHeads ms (m.vc :: seen)

/-- The partition whose traffic a message is. -/
def State.msgPart (s : State) (m : Msg) : Nat := s.rg R.ctxCfgPartition m.ctx

/-- The bytes of a VC's head message that its next flit carries. -/
def PortSt.nextBytes (p : PortSt) (m : Msg) : Nat := min 240 (32 + m.data.length - smGetD p.gone m.vc 0)

/-- Of messages of the partitions that share by weight, those of the partition that sends next, whose units are taken. -/
def State.pickShare (s : State) (port : Nat) (l : List Msg) : State × List Msg :=
  let p := s.port port
  let r := wrrNext (s.rg R.partResBwShare) (l.map s.msgPart) 320 p.turn p.units
  let best := l.filter (fun m => s.msgPart m == r.1)
  let n := (best.map p.nextBytes).headD 0
  (s.setPort port { p with turn := r.1, units := smPut 0 r.2 r.1 (smGetD r.2 r.1 0 - ((n + 63) / 64 : Nat)) }, best)

/-- The message whose flit goes next: the least rank, and of the partitions without one the one whose turn it is; among
several VCs of equal standing a free choice (R188, R587). -/
def State.pickMsg (s : State) (port : Nat) : State × Option Msg :=
  let p := s.port port
  let l := (vcHeads p.out []).flatMap (fun m => match s.txRank port p m with
    | some r => [(r, m)]
    | none => [])
  match listMin (l.map Prod.fst) with
  | none => (s, none)
  | some r =>
    let same := (l.filter (fun x => x.1 == r)).map Prod.snd
    let x := if r = wrrRank then s.pickShare port same else (s, same)
    let f := if x.2.length < 2 then (0, x.1) else x.1.fresh
    (f.2, x.2[f.1 % max 1 x.2.length]?)

/-- Put a flit on a port (R569). -/
def State.putFlit (s : State) (port : Nat) (f : DataFlit) : State :=
  let c := s.takeOwed port
  let pay := padTo 240 f.payload
  c.1.emitFlit port (flitHeader 1 f.vc f.first f.last f.payload.length f.dst f.src f.seq
    ((s.port port).expect + 4095) c.2.1 c.2.2 f.shared pay) pay

/-- Count the bytes that an open slot carries (R588). -/
def State.carry (s : State) (port vc n : Nat) : State :=
  match s.openSlot port vc with
  | none => s
  | some e =>
    let old := s.wale.carried.find? (fun c => c.1 == e.idx && c.2.1 == e.occ)
    let rest := s.wale.carried.filter (fun c => !(c.1 == e.idx && c.2.1 == e.occ))
    { s with wale := { s.wale with carried := rest ++ [(e.idx, e.occ, (old.map (fun c => c.2.2)).getD 0 + n)] } }

/-- Send the next flit of a message: its payload, its credit, its number (R580, R585). -/
def State.sendFlit (s : State) (port : Nat) (m : Msg) : State :=
  let p := s.port port
  let off := smGetD p.gone m.vc 0
  let b := m.stream
  let pay := (b.drop off).take 240
  let last := decide (b.length ≤ off + 240)
  let own := decide (smGetD p.used m.vc 0 < 16)
  let f : DataFlit := ⟨p.seq, m.vc, off == 0, last, m.dst, m.src, pay, !own, m.id⟩
  let s := (s.carry port m.vc pay.length).setPort port { p with
    seq := (p.seq + 1) % 4096
    kept := p.kept ++ [f]
    gone := if last then smErase p.gone m.vc else smSet p.gone m.vc (off + 240)
    out := if last then p.out.filter (fun x => x.id != m.id) else p.out
    used := if own then smSet p.used m.vc (smGetD p.used m.vc 0 + 1) else p.used
    shared := if own then p.shared else p.shared ++ [m.vc] }
  ((s.putFlit port f).radd R.waleTxFlitsCount port 1).charge m.ctx 2 pay.length

/-- An IDLE flit, which carries ack and credits (R568, R569). -/
def State.sendIdle (s : State) (port : Nat) : State :=
  let c := s.takeOwed port
  let pay := (below 240).map (fun _ => (0 : Byte))
  c.1.emitFlit port (flitHeader 0 0 false false 0 (s.rg R.walePortStatusPeerId port) s.ownId 0
    ((s.port port).expect + 4095) c.2.1 c.2.2 false pay) pay

/-- FLIT_TRANSMIT: a port sends its next flit: a replay, a flit with credit, or IDLE (R568, R580, R587).
Control symbols leave as they arise. -/
def execFlitTransmit (port : Nat) (s : State) : Host.Outcome State Fault Refusal :=
  if ¬ s.isUp port then .next s
  else
    let p := s.port port
    match p.replay with
    | q :: rest =>
      let s := s.setPort port { p with replay := rest }
      match p.kept.find? (fun f => f.seq == q) with
      | some f => .next (s.putFlit port f)
      | none => .next (s.sendIdle port)
    | [] =>
      let x := if 2048 ≤ p.kept.length then (s, none) else s.pickMsg port
      match x.2 with
      | some m => .next (x.1.sendFlit port m)
      | none => .next (x.1.sendIdle port)

/-- LINK_SLOT_FINISH: a slot has carried its credit, or its duration has ended with no flit of its VC
waiting on the port (R94, R588). -/
def execLinkSlotFinish (idx occ : Nat) (s : State) : Host.Outcome State Fault Refusal :=
  match s.wtab.active.find? (fun e => e.idx == idx && e.occ == occ && weKind e.words == 2) with
  | none => .next s
  | some e =>
    let port := bits e.words 64 4
    let vc := 32 + bits e.words 68 4
    let full := (s.openSlot port vc).all (fun x => !(x.idx == idx && x.occ == occ))
    let done := decide (e.due + weDuration e.words ≤ s.round) && (s.port port).out.all (fun m => m.vc != vc)
    if full ∨ done then
      let s := { s with wale := { s.wale with carried := s.wale.carried.filter (fun c => !(c.1 == idx && c.2.1 == occ)) } }
      .next ((s.finishEntry idx occ).checkRunEnd)
    else .next s

/-! ### Receiving (R570, R571, R580 to R586, R592) -/

/-- Flits that an ack covers are kept no longer (R580). -/
def State.takeAck (s : State) (port ack : Nat) : State :=
  let p := s.port port
  s.setPort port { p with kept := p.kept.filter (fun f => decide (2048 ≤ (ack + 4096 - f.seq) % 4096)) }

/-- Credits come back: reserved ones of a VC, or shared ones, the oldest first (R585, R586). -/
def State.takeCredit (s : State) (port vc n : Nat) : State :=
  let p := s.port port
  if n = 0 then s
  else if vc = 63 then s.setPort port { p with shared := p.shared.drop n }
  else s.setPort port { p with used := smPut 0 p.used vc (smGetD p.used vc 0 - n) }

/-- Owe credits to the sender of flits that left the receive buffer (R586). -/
def State.oweCredit (s : State) (port vc res shr : Nat) : State :=
  if 16 ≤ port then s
  else
    let p := s.port port
    let o := smPut 0 p.owe vc (smGetD p.owe vc 0 + res)
    s.setPort port { p with owe := smPut 0 o 63 (smGetD o 63 0 + shr) }

/-- Discard a message: the count, and FLT_WALE_DELIVERY while a Weave table runs (R573, R592). -/
def State.dropMsg (s : State) (port ctx : Nat) : State :=
  let s := if port < 16 then s.radd R.waleRxDroppedCount port 1 else s
  if s.tableRuns then s.raise { FaultInfo.mk0 fltWaleDelivery 3 port with ctx := ctx } else s

/-- Send RETRY with the expected number (R581). -/
def State.askRetry (s : State) (port : Nat) : State :=
  let p := s.port port
  (s.setPort port { p with asked := true }).sendSym port (.retry p.expect)

/-- Whether a kind of message may come on a VC: collective messages on those of the channels, mirror messages on VC 47,
and nothing else there (R571, R583). -/
def kindOnVc (kind vc : Nat) : Bool :=
  if kind = 2 then decide (vc < 32) else if kind = 3 then vc == 47 else decide (kind < 2) && vc != 47

/-- A whole message has arrived: it waits for its unit, is forwarded, or is discarded (R571, R592). -/
def State.arrive (s : State) (port vc : Nat) (x : RxPart) : State :=
  let m : Msg := ⟨0, port, vc, x.dst, x.src, leNat (x.bytes.take 32), x.bytes.drop 32, noCtx, false, x.res, x.shr⟩
  if x.dst = s.ownId then
    if x.bytes.length < 32 ∨ ¬ kindOnVc (bits m.header 0 4) vc then (s.dropMsg port 0).oweCredit port vc x.res x.shr
    else
      { s with wale := { s.wale with
          inbox := s.wale.inbox ++ [{ m with id := s.wale.nextMsg }], nextMsg := s.wale.nextMsg + 1 } }
  else
    match s.route x.dst with
    | some q =>
      if s.rb R.waleCfgForward 0 ∧ s.isUp q then
        let s := if portNode q = portNode port then s
          else s.emit (.mesh (meshRoute (portNode port) (portNode q) (.forward x.dst)))
        ((s.send { m with port := q, sched := true }).1).oweCredit port vc x.res x.shr
      else (s.dropMsg port 0).oweCredit port vc x.res x.shr
    | none => (s.dropMsg port 0).oweCredit port vc x.res x.shr

/-- A DATA flit in sequence (R581). -/
def State.takeData (s : State) (port h : Nat) (payload : List Byte) : State :=
  let p := s.port port
  let vc := bits h 2 6
  let shr := bits h 90 1
  let new : RxPart := ⟨bits h 18 16, bits h 34 16, [], 0, 0⟩
  let x := if bit h 8 then new else smGetD p.parts vc new
  let x := { x with bytes := x.bytes ++ payload.take (bits h 10 8), res := x.res + (1 - shr), shr := x.shr + shr }
  let s := s.radd R.waleRxFlitsCount port 1
  let p := { p with expect := (p.expect + 1) % 4096, asked := false }
  if bit h 9 then (s.setPort port { p with parts := smErase p.parts vc }).arrive port vc x
  else s.setPort port { p with parts := smSet p.parts vc x }

/-- The first flit of a pair brings the counts of its two codewords, by their symbol errors (R563, R605). -/
def State.countPair (s : State) (port k errA errB : Nat) : State :=
  if k ≠ 0 then s
  else
    let s := s.radd R.waleFecCorrCount port
      ((if errA ≤ rsLimit then errA else 0) + (if errB ≤ rsLimit then errB else 0))
    if errA ≤ rsLimit ∧ errB ≤ rsLimit then s else s.radd R.waleFecUncorrCount port 1

/-- FLIT_RECEIVE: a received flit of 256 bytes, the k-th of its pair, is checked, accepted in sequence or discarded,
and its ack and credits applied (R8, R563, R570, R580 to R586).  `errs` are the symbol errors of the pair's two
codewords, which correct up to 15 each.  The symbols of a CONTROL flit are commands of their own. -/
def execFlitReceive (port k : Nat) (errs : Nat × Nat) (flit : List Byte) (s : State) : Host.Outcome State Fault Refusal :=
  if ¬ s.isUp port ∨ flit.length ≠ 256 then .next s
  else
    let s := s.countPair port k errs.1 errs.2
    let ok := decide (errs.1 ≤ rsLimit ∧ errs.2 ≤ rsLimit)
    let h := leNat (flit.take 16)
    let payload := flit.drop 16
    let good := crc32c (natLe 12 (bits h 0 96) ++ natLe 4 0 ++ payload) == bits h 96 32
    if ¬ ok ∨ ¬ good then
      let s := if ok then s.radd R.waleCrcErrCount port 1 else s
      .next (if (s.port port).asked then s else s.askRetry port)
    else if bits h 91 5 ≠ 0 ∨ bits h 0 2 = 3 ∨ 48 ≤ bits h 2 6 then .next s
    else
      let s := (s.takeAck port (bits h 62 12)).takeCredit port (bits h 74 6) (bits h 80 10)
      if bits h 0 2 ≠ 1 then .next s
      else if bits h 50 12 ≠ (s.port port).expect then .next (if (s.port port).asked then s else s.askRetry port)
      else .next (s.takeData port h payload)

/-- RETRY: a received RETRY is counted, and the flits from the expected one are sent again (R581, R582). -/
def execRetry (port seq : Nat) (s : State) : Host.Outcome State Fault Refusal :=
  if ¬ s.isUp port then .next s
  else
    let p := s.port port
    let run := if p.retrySeq = seq ∧ p.retryRun ≠ 0 then p.retryRun + 1 else 1
    let again := (p.kept.map DataFlit.seq).dropWhile (fun q => q != seq)
    .next ((s.setPort port { p with replay := again, retrySeq := seq, retryRun := run }).radd R.waleRetriesCount port 1)

/-- RETRY_TIMER: 4 µs have passed without the expected flit, and RETRY goes out again (R581). -/
def execRetryTimer (port : Nat) (s : State) : Host.Outcome State Fault Refusal :=
  if s.isUp port ∧ (s.port port).asked then .next (s.askRetry port) else .next s

/-- CREDIT: a received CREDIT symbol returns credits to up to four VCs (R586). -/
def execCredit (port : Nat) (slots : List (Nat × Nat)) (s : State) : Host.Outcome State Fault Refusal :=
  if ¬ s.isUp port then .next s
  else .next ((slots.take 4).foldl (fun s x => s.takeCredit port x.1 x.2) s)

/-! ### Messages to memory (R571 to R574) -/

/-- The oldest message that waits from a port on a VC, where it is of a kind (R574). -/
def State.nextMsg (s : State) (port vc kind : Nat) : Option Msg :=
  match s.wale.inbox.find? (fun m => m.port == port && m.vc == vc) with
  | none => none
  | some m => if bits m.header 0 4 = kind then some m else none

/-- A message leaves the receive buffer (R586). -/
def State.takeMsg (s : State) (m : Msg) : State :=
  ({ s with wale := { s.wale with inbox := s.wale.inbox.filter (fun x => x.id != m.id) } }).oweCredit m.port m.vc m.res m.shr

/-- Whether the header of a message has a reserved bit set, or its plain data is not of its length
(R571). -/
def msgMalformed (m : Msg) (own : List (Nat × Nat)) : Bool :=
  clearFields m.header ([(0, 4), (4, 1), (8, 8), (16, 12), (32, 48), (80, 40)] ++ own) != 0 ||
  (!(bit m.header 4) && m.data.length != bits m.header 80 40)

/-- Expand native Plait blocks of plane width w at a slot set, in image order (R572). -/
def State.unwrap (s : State) (ctx set w : Nat) : Nat → List Byte → Got (List Byte)
  | 0, _ => (s, .ok [])
  | fuel + 1, l =>
    if l.isEmpty then (s, .ok [])
    else
      let n := 64 * bits (leNat (l.take 64)) 24 7
      if n = 0 ∨ l.length < n then (s, .error (Done.plain stPlaitMalformed))
      else Got.next (s.expandBytes ctx set w (l.take n)) (fun s img =>
        Got.next (s.unwrap ctx set w fuel (l.drop n)) (fun s r => (s, .ok (img ++ r))))

/-- Plane width of a message's blocks: of its format, or 1 where its kind has none (R468, R571). -/
def msgWidth (h : Nat) : Nat := if bits h 0 4 = 1 ∨ bits h 0 4 = 2 then planeWidth (bits h 8 8) else 1

/-- The image bytes of a message (R468, R572). -/
def State.msgImage (s : State) (m : Msg) (ctx set : Nat) : Got (List Byte) :=
  let n := bits m.header 80 40
  if bit m.header 4 then
    Got.next (s.unwrap ctx set (msgWidth m.header) m.data.length m.data) (fun s l =>
      (s, if l.length < n then .error (Done.plain stPlaitMalformed) else .ok (l.take n)))
  else (s, .ok m.data)

/-- Bytes as they go on the wire: as they are, or as native Plait blocks with inline tables of plane
width w (R468). -/
def State.wrap (s : State) (plait : Bool) (w : Nat) (bs : List Byte) : State × List Byte :=
  if plait then
    (pieces 4096 bs).foldl (fun r x =>
      let blk := packBlock w none (padTo 4096 x)
      (r.1.notePack x.length blk, r.2 ++ blk)) (s, [])
  else (s, bs)

/-- The Border die of a port. -/
def portDie (port : Nat) : Nat := port / 8 % 2

/-- Count the payload received for a context; a message that the module sent to itself used no port, and one that is
discarded is received for none (R189, R591). -/
def State.noteRx (s : State) (ctx : Nat) (m : Msg) : State :=
  if noCtx ≤ ctx ∨ 16 ≤ m.port then s else s.radd R.partAcctWaleRxCount ctx (32 + m.data.length)

/-- Whether a whole range translates for an access. -/
def State.translates (s : State) (rq : Rq) (va n : Nat) (write : Bool) : State × Bool :=
  (spans 4096 va n).foldl (fun r p =>
    if r.2 then
      let x := r.1.xlate rq p.1 write
      (x.s, x.st == 0)
    else r) (s, true)

/-- The requester that the adds of a message have: its port and VC (R503, R574). -/
def msgWho (m : Msg) : Nat := 2048 + 64 * m.port + m.vc

/-- WRITE_MESSAGE: the oldest message of a port and VC, a WRITE, is translated in its context and
written, or discarded whole and counted; it waits for the adds of earlier messages, for a table that a Plait block of it
waits for, and for its context's regulators (R187, R448, R573, R574). -/
def execWriteMessage (port vc : Nat) (s : State) : Host.Outcome State Fault Refusal :=
  match s.nextMsg port vc 0 with
  | none => .next s
  | some m =>
    if s.ms.adds.any (fun q => q.who == msgWho m) then .next s
    else
    let s0 := s
    let s := s.takeMsg m
    let ctx := bits m.header 16 12
    let va := bits m.header 32 48
    let rq : Rq := ⟨ctx, 16 + portDie port⟩
    if msgMalformed m [] ∨ s.ctxState ctx ≠ ctxActive then .next (s.dropMsg port ctx)
    else
      match s.msgImage m ctx (borderSet (portDie port)) with
      | (s, .error d) => .next (if d.status = stWaits then s0 else s.dropMsg port ctx)
      | (s, .ok bs) =>
        let t := s.translates rq va bs.length true
        .next (s0.gate ctx (if t.2 then ((t.1.vwrite rq va bs).s).noteRx ctx m else t.1.dropMsg port ctx))

/-- The add requests of an ADD message's elements, sector by sector (R503, R573). -/
def State.addMessage (s : State) (m : Msg) (rq : Rq) (bs : List Byte) : State × Bool :=
  let h := m.header
  let f := bits h 8 8
  let b := fmtBits f / 8
  let va := bits h 32 48
  let els := (pieces b bs).map leNat
  let x := s.xlate rq va true
  let req : AddReq := ⟨0, msgWho m, 0, rq.ctx, false, bit h 144, (x.s.coilOf x.pa).getD 0, bits h 128 6, bits h 134 10, false, 0,
    f, f, 0, []⟩
  let t := x.s.translates rq va bs.length true
  if ¬ t.2 then (t.1, false)
  else
    let s := (sectorsOf b ((els.zip (below els.length)).map (fun e => (va + b * e.2, e.1)))).foldl (fun s q =>
      let y := s.xlate rq (q.1 * 64) true
      y.s.pushAdd { req with coil := (y.s.coilOf y.pa).getD 0, addr := y.pa, mask := q.2.1, addends := q.2.2 }) t.1
    (if bit h 145 then s.pushAdd { req with marker := true, ordered := true } else s, true)

/-- ADD_MESSAGE: the oldest message of a port and VC, an ADD, is translated and goes to the memory-side
adders, ordered when it asks for it; it too waits for a table and for regulators (R187, R448, R573, R574). -/
def execAddMessage (port vc : Nat) (s : State) : Host.Outcome State Fault Refusal :=
  match s.nextMsg port vc 1 with
  | none => .next s
  | some m =>
    let s0 := s
    let s := s.takeMsg m
    let ctx := bits m.header 16 12
    let f := bits m.header 8 8
    let b := fmtBits f / 8
    if msgMalformed m [(128, 6), (134, 10), (144, 1), (145, 1)] ∨ s.ctxState ctx ≠ ctxActive ∨ ¬ addFmt f ∨
        bits m.header 32 48 % b ≠ 0 ∨ bits m.header 80 40 % b ≠ 0 then .next (s.dropMsg port ctx)
    else
      match s.msgImage m ctx (borderSet (portDie port)) with
      | (s, .error d) => .next (if d.status = stWaits then s0 else s.dropMsg port ctx)
      | (s, .ok bs) =>
        let r := s.addMessage m ⟨ctx, 16 + portDie port⟩ bs
        .next (s0.gate ctx (if r.2 then r.1.noteRx ctx m else r.1.dropMsg port ctx))

/-! ### Test engines (R599 to R603) -/

/-- Whether an engine refuses a start; functions from 64 on stand for the Handle (R600). -/
def State.ltRefused (s : State) (e fn : Nat) : Bool :=
  if e < 16 then s.rb R.walePortCtrlEnable e
  else if e < 1104 then
    fn != 0 || !s.enabledParts.isEmpty || (below 64).any (fun p => s.rb R.poolCfgEnable p) ||
      s.rg R.weaveStatusState 0 != 0
  else if e = 1104 then decide (fn < 64) else false

/-- A memory test overwrites its whole channel (R601): its bytes are no longer those listed, and no sector of it is bad
(R490). -/
def State.ltOverwrite (s : State) (e : Nat) : State :=
  let hit := fun (a : Nat) => match s.region a with
    | .hbm => (match s.channelOf a with
        | some (ch, _) => ch + 80 == e
        | none => false)
    | .hamper => (match s.hamperOf a with
        | some (ch, _) => ch + 16 == e
        | none => false)
    | _ => false
  if 16 ≤ e ∧ e < 1104 then
    { s with
      mem := s.mem.filter (fun c => !(hit c.1))
      ms := { s.ms with bad := s.ms.bad.filter (fun k => !(hit (64 * k))) } }
  else s

/-- The fields of WALE_LT_CTRL that hold a value (R606). -/
def State.writeLt (s : State) (e v : Nat) : State :=
  let s := (s.rset R.waleLtCtrlPattern e (bits v 0 4)).rset R.waleLtCtrlLanes e (bits v 8 8)
  let s := if bits v 6 2 = 3 then s else s.rset R.waleLtCtrlLoop e (bits v 6 2)
  s.rset R.waleLtCtrlDuration e (bits v 32 32)

/-- LT_START: a write of WALE_LT_CTRL with start runs a test engine or is refused (R600 to R602).
`sync` says whether the checker locks to the pattern. -/
def execLtStart (engine value fn : Nat) (sync : Bool) (s : State) : Host.Outcome State Fault Refusal :=
  if fn < 64 ∧ ¬ s.barOpen 0x900000 then .next s else
  if 1106 ≤ engine ∨ ¬ bit value 4 ∨ (fn ≠ 0 ∧ fn < 64) then .next s
  else
    let s := s.writeLt engine value
    if s.ltRefused engine fn then .next (s.rset R.waleLtStatusState engine 3)
    else
      let s := ((s.rset R.waleLtBitsCount engine 0).rset R.waleLtErrorsCount engine 0)
      let s := (below 8).foldl (fun s i => s.rset R.waleLtLaneErrCount (8 * engine + i) 0) s
      let s := (s.ltOverwrite engine).rset R.waleLtStatusSync engine (b2n sync)
      .next ({ s with wale := { s.wale with lt := smSet s.wale.lt engine s.beat } }.rset R.waleLtStatusState engine 1)

/-- A running engine ends with what it counted (R602). -/
def State.ltEnd (s : State) (e nbits errors : Nat) (lanes : List Nat) : State :=
  let s := (s.rsat R.waleLtBitsCount e nbits).rsat R.waleLtErrorsCount e errors
  let s := (lanes.zip (below 8)).foldl (fun s x => s.rsat R.waleLtLaneErrCount (8 * e + x.2) x.1) s
  { s with wale := { s.wale with lt := smErase s.wale.lt e } }.rset R.waleLtStatusState e 2

/-- LT_STOP: a write of WALE_LT_CTRL with stop ends a running engine (R602). -/
def execLtStop (engine value fn nbits errors : Nat) (lanes : List Nat) (s : State) : Host.Outcome State Fault Refusal :=
  if fn < 64 ∧ ¬ s.barOpen 0x900000 then .next s else
  if 1106 ≤ engine ∨ ¬ bit value 5 ∨ (fn ≠ 0 ∧ fn < 64) then .next s
  else
    let s := s.writeLt engine value
    .next (if s.rg R.waleLtStatusState engine = 1 then s.ltEnd engine nbits errors lanes else s)

/-- LT_INJECT: a write of WALE_LT_CTRL with inject inverts one bit, which the checker counts as one
error; a Wale engine counts it on one tested lane (R602, R603). -/
def execLtInject (engine value fn : Nat) (s : State) : Host.Outcome State Fault Refusal :=
  if fn < 64 ∧ ¬ s.barOpen 0x900000 then .next s else
  if 1106 ≤ engine ∨ ¬ bit value 16 ∨ (fn ≠ 0 ∧ fn < 64) then .next s
  else
    let s := s.writeLt engine value
    if s.rg R.waleLtStatusState engine ≠ 1 then .next s
    else
      let s := s.rsat R.waleLtErrorsCount engine 1
      let lanes := onesOf 8 (s.rg R.waleLtCtrlLanes engine)
      let f := s.fresh
      match if engine < 16 then lanes[f.1 % max 1 lanes.length]? else none with
      | some l => .next (f.2.rsat R.waleLtLaneErrCount (8 * engine + l) 1)
      | none => .next s

/-- LT_DURATION_END: an engine that has run for duration Rounds ends (R602). -/
def execLtDurationEnd (engine nbits errors : Nat) (lanes : List Nat) (s : State) : Host.Outcome State Fault Refusal :=
  let d := s.rg R.waleLtCtrlDuration engine
  match smGet s.wale.lt engine with
  | some r =>
    if d = 0 ∨ s.rg R.waleLtStatusState engine ≠ 1 ∨ s.beat < r + d then .next s
    else .next (s.ltEnd engine nbits errors lanes)
  | none => .next s

end Sys2Proof.Machine
end

