-- ==== Sys2Proof/Machine/Mirror.lean ====
section
/-!
DEFINITION. Faults raised and received, mirror windows and restores (R579, R691 to R716).
-/

namespace Sys2Proof.Machine

/-! ### Faults (R691 to R702) -/

/-- The fault codes of R691. -/
def faultCodes : List Nat :=
  [fltRoundLock, fltScheduleOverrun, fltWeaveContext, fltWeaveError, fltSramUncorrectable, fltHamperFail,
   fltWaleDown, fltWaleDelivery, fltCollTimeout, fltCollectiveOrder, fltCollData, fltMirror, fltThermalTrip,
   fltSupply]

/-- FAULT_RAISE: a unit of the module detects a fault that no other command raises, such as an
uncorrectable error of an SRAM (R489, R691 to R693). -/
def execFaultRaise (code kind unit part ctx status addr : Nat) (s : State) : Host.Outcome State Fault Refusal :=
  if ¬ faultCodes.contains code ∨ 9 < kind ∨ 64 ≤ part ∨ 4096 ≤ ctx then .next s
  else .next (s.raise { FaultInfo.mk0 code kind unit with part := part, ctx := ctx, status := status, addr := addr })

/-- Whether the module acts on a received FAULT symbol (R700). -/
def State.actsOn (s : State) (origin round : Nat) : Bool :=
  s.tableOn && decide (s.rg R.fltJobLo 0 ≤ origin ∧ origin ≤ s.rg R.fltJobHi 0 ∧ s.rg R.weaveStartStart 0 ≤ round)

/-- FAULT: a FAULT symbol seen for the first time is relayed on every other UP port and, for the armed
job, halts it (R579, R696, R698, R700, R702). -/
def execFault (port origin code round : Nat) (s : State) : Host.Outcome State Fault Refusal :=
  if ¬ s.upPorts.contains port ∨ s.flt.seen.contains (origin, code, round) then .next s
  else
    let act := s.actsOn origin round
    let s := { s with flt := { s.flt with seen := (origin, code, round) :: s.flt.seen } }
    let s := s.broadcast (.fault origin code round) port
    if act then
      let s := (s.radd R.fltRemoteCount 0 1).writeFault (faultRecord (FaultInfo.mk0 code 0 0) 2 1 origin round)
      .next (s.haltJob stFaultRemote)
    else .next s

/-! ### Mirror lists and banks (R704 to R707) -/

/-- src of an entry of a mirror list (R706). -/
def meSrc (e : Nat) : Nat := bits e 0 48
/-- length. -/
def meLen (e : Nat) : Nat := bits e 48 40
/-- plait. -/
def mePlait (e : Nat) : Bool := bit e 112
/-- dst. -/
def meDst (e : Nat) : Nat := bits e 128 48

/-- Whether an entry of a mirror list breaks R706. -/
def meMalformed (e : Nat) : Bool :=
  clearFields e [(0, 48), (48, 40), (96, 16), (112, 1), (128, 48)] != 0 || bits e 0 6 != 0 || bits e 48 6 != 0 ||
  meLen e == 0 || bits e 128 6 != 0

/-- Whether the header of a mirror list breaks R706. -/
def mirrorListBad (h : Nat) : Bool :=
  clearFields h [(0, 32), (32, 16)] != 0 || bits h 0 32 != 0x54534C4D || decide (bits h 32 16 = 0 ∨ 4096 < bits h 32 16)

/-- Half of the receive region: the bytes of a bank (R704). -/
def State.bankLen (s : State) : Nat := s.rg R.fltMirrorRxLenLength 0 / 2

/-- The address of bank b (R704). -/
def State.bankAt (s : State) (b : Nat) : Nat := s.rg R.fltMirrorRxBaseBase 0 + b * s.bankLen

/-- The header of a MIRROR message (R571, R707). -/
def mirrorHeader (plait : Bool) (addr len epoch part ports : Nat) : Nat :=
  3 + b2n plait * 2 ^ 4 + addr % 2 ^ 48 * 2 ^ 32 + len % 2 ^ 40 * 2 ^ 80 + epoch % 2 ^ 32 * 2 ^ 128 + part * 2 ^ 160 +
    ports * 2 ^ 162

/-- Send a MIRROR message to the Pairing partner on a port, on VC 47 (R589, R707). -/
def State.sendMirror (s : State) (port ctx h : Nat) (bs : List Byte) : State × Nat :=
  s.send ⟨0, port, 47, s.rg R.walePairPartner 0, s.ownId, h, bs, ctx, true, 0, 0⟩

/-- Whether a Pairing port serves mirror traffic (R594). -/
def State.pairReady (s : State) (port : Nat) : Bool :=
  s.rb R.walePairEnable 0 && s.isUp port && !(s.rb R.walePortStatusPairMismatch port)

/-- The ports that a ports field names (R91). -/
def mirrorPorts (f : Nat) : List Nat := if f = 0 then [7] else if f = 1 then [15] else [7, 15]

/-! ### Windows (R708) -/

/-- Read a mirror list of a context: its header and entries, or the status and address that fail; a
list that breaks R706 fails with ST_CMD_MALFORMED. -/
def State.readMirrorList (s : State) (rq : Rq) (va : Nat) : State × Except (Status × Nat) (List Byte × List Nat) :=
  let rd := s.vread rq va 64
  let h := leNat rd.bs
  if rd.st ≠ 0 then (rd.s, .error (rd.st, va + rd.off))
  else if mirrorListBad h then (rd.s, .error (stCmdMalformed, 0))
  else
    let re := rd.s.vread rq (va + 64) (32 * bits h 32 16)
    let es := (pieces 32 re.bs).map leNat
    if re.st ≠ 0 then (re.s, .error (re.st, va + 64 + re.off))
    else if es.any meMalformed then (re.s, .error (stCmdMalformed, 0))
    else (re.s, .ok (rd.bs ++ re.bs, es))

/-- Send the data of an entry as a DATA or RESTORE message; the read's status where it fails. -/
def Rd.sendObject (r : Rd) (port ctx epoch part addr : Nat) (plait : Bool) : State × Option (Status × Nat × Nat) :=
  if r.st ≠ 0 then (r.s, some (r.st, r.off, 0))
  else
    let w := r.s.wrap plait 1 r.bs
    let x := w.1.sendMirror port ctx (mirrorHeader plait addr r.bs.length epoch part 0) w.2
    (x.1, some (0, 0, x.2))

/-- The DATA messages of a window: with two ports, even entries go on port 7, odd ones on port 15.
Answers the first failing read. -/
def State.sendEntries (s : State) (rq : Rq) (ports : List Nat) (epoch : Nat) : List (Nat × Nat) → State × Option (Status × Nat)
  | [] => (s, none)
  | (i, e) :: es =>
    let port := (ports[i % ports.length]?).getD 7
    let r := (s.vread rq (meSrc e) (meLen e)).sendObject port rq.ctx epoch 0 (262144 + meDst e) (mePlait e)
    match r.2 with
    | some (0, _, _) => r.1.sendEntries rq ports epoch es
    | some (st, off, _) => (r.1, some (st, meSrc e + off))
    | none => (r.1, none)

/-- Accept a MIRROR_WINDOW entry: its checks, and the messages of a new epoch (R92, R708). -/
def State.acceptMirror (s : State) (e : EntryOcc) : State :=
  let w := e.words
  let f := bits w 64 2
  let ports := mirrorPorts f
  let rq : Rq := ⟨weCtx w, 16⟩
  let s := s.unwait e
  let fail := fun (t : State) (st addr : Nat) =>
    t.raise { FaultInfo.mk0 fltMirror 7 0 with
      part := wePart w, ctx := weCtx w, status := st, addr := infoOf st addr }
  if ¬ ports.all (fun p => s.pairReady p) then fail s 0 0
  else
    match s.readMirrorList rq (bits w 96 48) with
    | (s, .error x) => fail s x.1 x.2
    | (s, .ok (dir, es)) =>
      let ep := s.rg R.fltMirrorEpochNext 0
      let s := s.radd R.fltMirrorEpochNext 0 1
      let s := (s.sendMirror (ports.headD 7) (weCtx w) (mirrorHeader false 64 dir.length ep 1 0) dir).1
      match s.sendEntries rq ports ep ((below es.length).zip es) with
      | (s, some x) => fail s x.1 x.2
      | (s, none) =>
        let r := ports.foldl (fun (r : State × List Nat) p =>
          let x := r.1.sendMirror p (weCtx w) (mirrorHeader false 0 0 ep 2 f) []
          (x.1, r.2 ++ [x.2])) (s, [])
        let s := r.1
        { s with
          flt := { s.flt with windows := s.flt.windows ++ [(e.idx, e.occ, r.2)] }
          wtab := { s.wtab with active := s.wtab.active ++ [e] } }

/-- MIRROR_WINDOW_FINISH: every COMMIT of a window has been accepted (R94, R708). -/
def execMirrorWindowFinish (idx occ : Nat) (s : State) : Host.Outcome State Fault Refusal :=
  match s.flt.windows.find? (fun w => w.1 == idx && w.2.1 == occ) with
  | none => .next s
  | some w =>
    if ¬ w.2.2.all (fun id => s.accepted id) then .next s
    else
      let s := { s with flt := { s.flt with windows := s.flt.windows.filter (fun x => !(x.1 == idx && x.2.1 == occ)) } }
      .next ((s.finishEntry idx occ).checkRunEnd)

/-! ### Receiving (R709, R710, R716) -/

/-- The oldest MIRROR message of a port, where it is of a part. -/
def State.nextMirror (s : State) (port part : Nat) : Option Msg :=
  match s.nextMsg port 47 3 with
  | none => none
  | some m => if bits m.header 160 2 = part then some m else none

/-- Write 64 bytes of bank header (R705). -/
def State.putBank (s : State) (b epoch committed sender round count : Nat) : State :=
  (s.pwrite noCtx (s.bankAt b) (natLe 64 (0x5252494D + epoch % 2 ^ 32 * 2 ^ 32 + committed * 2 ^ 64 + sender * 2 ^ 80 +
    round * 2 ^ 96 + count * 2 ^ 160)) true).s

/-- The first message of an epoch rewrites its bank's header (R709). -/
def State.beginEpoch (s : State) (ep sender : Nat) : State :=
  if s.flt.rxEpoch = some ep then s
  else ({ s with flt := { s.flt with rxEpoch := some ep, rxCommits := [] } }).putBank (ep % 2) ep 0 sender 0 0

/-- Write bytes into a bank at an offset, but for the range of it that the receiver does not write (R705). -/
def State.writeBank (s : State) (b off : Nat) (bs : List Byte) : State :=
  let s := (s.pwrite noCtx (s.bankAt b + off) (bs.take (131200 - off)) true).s
  (s.pwrite noCtx (s.bankAt b + max off 262144) (bs.drop (262144 - off)) true).s

/-- A DATA or DIRECTORY message is written into its bank, or discarded (R709, R710). -/
def State.takeMirror (s : State) (port part : Nat) : State :=
  match s.nextMirror port part with
  | none => s
  | some m =>
    let s := s.takeMsg m
    let h := m.header
    let ep := bits h 128 32
    let off := bits h 32 48
    let fail := fun (s : State) => s.raise (FaultInfo.mk0 fltMirror 3 port)
    if s.rb R.fltStatusJobHalted 0 ∨ s.rg R.fltMirrorRxLenLength 0 = 0 then s
    else if msgMalformed m [(128, 32), (160, 2), (162, 2)] ∨ s.bankLen < off + bits h 80 40 then fail s
    else
      match s.msgImage m 0 (borderSet (portDie port)) with
      | (s, .error _) => fail s
      | (s, .ok bs) =>
        let s := s.beginEpoch ep m.src
        s.writeBank (ep % 2) off bs

/-- MIRROR_DATA: a received DATA message is written into bank e mod 2 (R709). -/
def execMirrorData (port : Nat) (s : State) : Host.Outcome State Fault Refusal := .next (s.takeMirror port 0)

/-- MIRROR_DIRECTORY: a received DIRECTORY message is written as the bank's directory (R709). -/
def execMirrorDirectory (port : Nat) (s : State) : Host.Outcome State Fault Refusal := .next (s.takeMirror port 1)

/-- Whether a COMMIT message breaks R707: its body, its length, its ports. -/
def commitBad (m : Msg) : Bool :=
  msgMalformed m [(128, 32), (160, 2), (162, 2)] || bits m.header 80 40 != 0 || bits m.header 162 2 == 3

/-- MIRROR_COMMIT: once COMMIT has come on every named port the bank is committed (R709). -/
def execMirrorCommit (port : Nat) (s : State) : Host.Outcome State Fault Refusal :=
  match s.nextMirror port 2 with
  | none => .next s
  | some m =>
    let s := s.takeMsg m
    let ep := bits m.header 128 32
    if s.rb R.fltStatusJobHalted 0 ∨ s.rg R.fltMirrorRxLenLength 0 = 0 then .next s
    else if commitBad m then .next (s.raise (FaultInfo.mk0 fltMirror 3 port))
    else
      let s := s.beginEpoch ep m.src
      let s := { s with flt := { s.flt with rxCommits := port :: s.flt.rxCommits } }
      if ¬ (mirrorPorts (bits m.header 162 2)).all (fun p => s.flt.rxCommits.contains p) then .next s
      else
        let b := ep % 2
        let s := s.putBank b ep 1 m.src s.round (bits (s.own (s.bankAt b + 64) 64) 32 16)
        let s := { s with flt := { s.flt with rxEpoch := none } }
        .next (((s.rset R.fltMirrorStatusEpoch 0 ep).rset R.fltMirrorStatusBank 0 b).rset R.fltMirrorStatusValid 0 1)

/-- MIRROR_RESTORE: a received RESTORE message is written through restore_ctx's translation, counted
where it cannot be, or discarded (R716). -/
def execMirrorRestore (port : Nat) (s : State) : Host.Outcome State Fault Refusal :=
  match s.nextMirror port 3 with
  | none => .next s
  | some m =>
    let s := s.takeMsg m
    if ¬ s.rb R.fltMirrorCfgRestoreRx 0 then .next s
    else if msgMalformed m [(128, 32), (160, 2), (162, 2)] then .next (s.radd R.fltRestoreRxErrorsCount 0 1)
    else
      let rq : Rq := ⟨s.rg R.fltMirrorCfgRestoreCtx 0, 16 + portDie port⟩
      match s.msgImage m rq.ctx (borderSet (portDie port)) with
      | (s, .error _) => .next (s.radd R.fltRestoreRxErrorsCount 0 1)
      | (s, .ok bs) =>
        let w := s.vwrite rq (bits m.header 32 48) bs
        .next (if w.st = 0 then w.s else w.s.radd R.fltRestoreRxErrorsCount 0 1)

/-! ### Restoring (R715) -/

/-- A restore ends with a status (R715, R718). -/
def State.endRestore (s : State) (st : Nat) : State :=
  ((s.rset R.fltRestoreBusy 0 0).rset R.fltRestoreDone 0 1).rset R.fltRestoreStatus 0 st

/-- Entry i of a bank's directory (R705). -/
def State.bankEntry (s : State) (b i : Nat) : Nat := s.own (s.bankAt b + 128 + 32 * i) 32

/-- Whether a bank may be sent back: it is committed, its header has no reserved bit set, and its directory meets R706
(R8, R705, R715). -/
def State.bankGood (s : State) (b : Nat) : Bool :=
  let h := s.own (s.bankAt b) 64
  let l := s.own (s.bankAt b + 64) 64
  s.rg R.fltMirrorRxLenLength 0 != 0 && s.readStatus (s.bankAt b) 64 == 0 && s.readStatus (s.bankAt b + 64) 64 == 0 &&
  bits h 0 32 == 0x5252494D && bit h 64 && clearFields h [(0, 65), (80, 16), (96, 64), (160, 16)] == 0 &&
  !(mirrorListBad l) && (below (bits l 32 16)).all (fun i =>
    s.readStatus (s.bankAt b + 128 + 32 * i) 32 == 0 && !(meMalformed (s.bankEntry b i)))

/-- Send a bank's objects back on a port, up to the first that cannot be read: the messages, and its status (R715). -/
def State.sendBank (s : State) (port b : Nat) : State × List Nat × Status :=
  let base := s.bankAt b
  let ep := bits (s.own base 64) 32 32
  let n := bits (s.own (base + 64) 64) 32 16
  (below n).foldl (fun (r : State × List Nat × Status) i =>
    if r.2.2 ≠ 0 then r
    else
      let e := r.1.bankEntry b i
      let x := (r.1.pread noCtx (base + 262144 + meDst e) (meLen e) true).sendObject port noCtx ep 3 (meSrc e) (mePlait e)
      match x.2 with
      | some (0, _, id) => (x.1, r.2.1 ++ [id], 0)
      | some (st, _, _) => (x.1, r.2.1, st)
      | none => (x.1, r.2)) (s, [], 0)

/-- RESTORE_START: a write of 1 to FLT_RESTORE.start checks a committed bank and sends its objects back
(R715). -/
def execRestoreStart (value fn : Nat) (s : State) : Host.Outcome State Fault Refusal :=
  if ¬ s.barOpen 0xE00000 then .next s else
  if fn ≠ 0 ∨ ¬ bit value 0 then .next s
  else
    let b := bits value 1 1
    let s := s.rset R.fltRestoreBank 0 b
    let s := if bit value 3 then s.rset R.fltRestoreDone 0 0 else s
    if s.tableOn ∨ s.rb R.fltRestoreBusy 0 then .next s
    else
      match [7, 15].find? (fun p => s.pairReady p) with
      | none => .next (s.endRestore stCmdMalformed)
      | some port =>
        if ¬ s.bankGood b then .next (s.endRestore stCmdMalformed)
        else
          let r := (s.rset R.fltRestoreBusy 0 1).sendBank port b
          .next (if r.2.2 = 0 then { r.1 with flt := { r.1.flt with restore := r.2.1 } } else r.1.endRestore r.2.2)

/-- RESTORE_DONE: every RESTORE message has been accepted (R715). -/
def execRestoreDone (s : State) : Host.Outcome State Fault Refusal :=
  if s.rb R.fltRestoreBusy 0 ∧ s.flt.restore.all (fun id => s.accepted id) then
    .next (({ s with flt := { s.flt with restore := [] } }).endRestore stOk)
  else .next s

end Sys2Proof.Machine
end

