-- ==== Sys2Proof/Machine/Coll.lean ====
section
/-!
DEFINITION. Collectives: posting, the steps of halving and tree channels, messages and grants, early
arrivals, timeouts, and the MMR that feeds an operation (R607 to R643).
-/

namespace Sys2Proof.Machine

/-! ### Operations and groups (R607 to R613) -/

/-- The operation of a COLLECTIVE: 0 ALL_SUM, 1 SUM_SCATTER, 2 GATHER_ALL. -/
def coKind (w : Nat) : Nat := bits w 320 7
/-- fed. -/
def coFed (w : Nat) : Bool := bit w 327
/-- fmt. -/
def coFmt (w : Nat) : Nat := bits w 328 8
/-- count. -/
def coCount (w : Nat) : Nat := bits w 336 40
/-- channel. -/
def coChan (w : Nat) : Nat := bits w 256 5
/-- group. -/
def coGroup (w : Nat) : Nat := bits w 272 10
/-- sequence. -/
def coSeq (w : Nat) : Nat := bits w 288 32
/-- src. -/
def coSrc (w : Nat) : Nat := bits w 512 48
/-- dst. -/
def coDst (w : Nat) : Nat := bits w 576 48
/-- plait. -/
def coPlait (w : Nat) : Bool := bit w 624
/-- mem_add. -/
def coMemAdd (w : Nat) : Bool := bit w 625
/-- Bytes of an element. -/
def coSize (w : Nat) : Nat := max 1 (fmtBits (coFmt w) / 8)

/-- start(k) of R608. -/
def segStart (count n k : Nat) : Nat := k * (count / n) + min k (count % n)

/-- Segment k as its first element and length (R608). -/
def segOf (count n k : Nat) : Nat × Nat := (segStart count n k, segStart count n (k + 1) - segStart count n k)

/-- Size of a group. -/
def State.groupN (s : State) (g : Nat) : Nat := s.rg R.collGroupCfgSize g

/-- The module's rank in a group. -/
def State.groupRank (s : State) (g : Nat) : Nat := s.rg R.collGroupCfgRank g

/-- The module of a rank (R611). -/
def State.rankModule (s : State) (g k : Nat) : Nat := s.own (s.rg R.collGroupRanksBase g + 2 * k) 2

/-- The elements of src, as a range of the vector (R607). -/
def State.srcRange (s : State) (w : Nat) : Nat × Nat :=
  let g := coGroup w
  if coKind w = 2 then segOf (coCount w) (s.groupN g) (s.groupRank g) else (0, coCount w)

/-- The elements of dst, as a range of the vector (R607). -/
def State.dstRange (s : State) (w : Nat) : Nat × Nat :=
  let g := coGroup w
  if coKind w = 1 then segOf (coCount w) (s.groupN g) (s.groupRank g) else (0, coCount w)

/-- Whether the operation, its format and its channel's class do not fit (R607, R610). -/
def coFormatBad (w : Nat) : Bool :=
  let f := coFmt w
  decide (2 < coKind w) || (decide (coChan w < 4) && coKind w != 0) ||
  !(addFmt f || (coKind w == 2 && [0x02, 0x03, 0x04, 0x11].contains f)) || (coMemAdd w && coKind w == 2)

/-- The posted operations of a channel. -/
def State.collOps (s : State) (c : Nat) : List CollOp := smGetD s.coll.ops c []

/-- Replace the posted operations of a channel. -/
def State.setOps (s : State) (c : Nat) (l : List CollOp) : State :=
  ({ s with coll := { s.coll with ops := smPut [] s.coll.ops c l } }).noteChan c

/-- The first condition of R610 that holds, 0 where none does. -/
def State.collCheck (s : State) (ctx w : Nat) : Status :=
  let p := s.rg R.ctxCfgPartition ctx
  let g := coGroup w
  let b := coSize w
  let sr := s.srcRange w
  let dr := s.dstRange w
  if ctx = 0 ∨ ¬ bit (s.rg R.partResCollChannels p) (coChan w) then stCmdDenied
  else if ¬ s.rb R.collGroupCfgEnable g then stCollGroup
  else if s.rg R.collGroupCfgPartition g ≠ p then stCmdDenied
  else if coFormatBad w then stCollFormat
  else if coCount w = 0 then stCmdLength
  else if coSrc w % b ≠ 0 ∨ coDst w % b ≠ 0 then stCmdAlign
  else if coSrc w = coDst w ∧ coKind w ≠ 0 then stCmdMalformed
  else if coSrc w ≠ coDst w ∧ rangesMeet (coSrc w) (sr.2 * b) (coDst w) (dr.2 * b) then stCmdMalformed
  else if coSeq w ≠ s.rg R.collGroupSeqNext g then stCollSequence
  else stOk

/-- COLLECTIVE: the checks of R610, and the posting to the channel's queue in order of dispatch (R613,
R616). -/
def execCollective (ctx ring slot : Nat) (s : State) : Host.Outcome State Fault Refusal :=
  match s.tabTurn ctx ring slot 0x30 with
  | none => .next s
  | some p =>
    let w := p.words
    let c := coChan w
    if (s.collOps c).any (fun o => o.ctx == ctx && o.ring == ring && o.slot == slot) ∨ 16 ≤ (s.collOps c).length then .next s
    else
      let st := s.collCheck ctx w
      if st ≠ 0 then .next (s.tabEnd ctx ring slot (Done.plain st))
      else
        let s := { s with sfu := { s.sfu with queue := s.sfu.queue.filter (fun t =>
            !(t.ctx == ctx && t.ring == ring && t.slot == slot)) } }
        let s := s.radd R.collGroupSeqNext (coGroup w) 1
        .next (s.setOps c (s.collOps c ++ [⟨ctx, ring, slot, w, false, 0, [], [], [], 0⟩]))

/-- GROUP_ENABLE: a write of COLL_GROUP_CFG: enabling checks that the rank table names the module at its
rank; while the group is enabled only enable and cfg_refused take the write (R611, R646). -/
def execGroupEnable (group value fn : Nat) (s : State) : Host.Outcome State Fault Refusal :=
  if ¬ s.barOpen 0xA00000 then .next s else
  if 1024 ≤ group ∨ fn ≠ 0 then .next s
  else
    let s := if bit value 1 then s.rset R.collGroupCfgCfgRefused group 0 else s
    if s.rb R.collGroupCfgEnable group then
      let posted := (below 32).any (fun c => (s.collOps c).any (fun o => coGroup o.words == group))
      .next (if bit value 0 ∨ posted then s else s.rset R.collGroupCfgEnable group 0)
    else
      let s := (s.rset R.collGroupCfgPartition group (bits value 8 6)).rset R.collGroupCfgRank group (bits value 16 16)
      let n := bits value 32 17
      let s := if n = 0 ∨ 65536 < n then s else s.rset R.collGroupCfgSize group n
      if ¬ bit value 0 then .next s
      else
        let k := s.groupRank group
        let ok := decide (s.region (s.rg R.collGroupRanksBase group) = .hbm ∧ k < s.groupN group ∧
          s.rankModule group k = s.ownId)
        .next (s.rset (if ok then R.collGroupCfgEnable else R.collGroupCfgCfgRefused) group 1)

/-! ### The plan of a step (R621, R622, R624, R625) -/

/-- What a step sends and expects: for each rank and tree, element ranges; whether what is received is
added. -/
structure StepPlan where
  sends : List (Nat × Nat × List (Nat × Nat))
  wants : List (Nat × Nat × List (Nat × Nat) × Bool)
  deriving DecidableEq, Repr

/-- Ranges that hold an element. -/
def ranges (l : List (Nat × Nat)) : List (Nat × Nat) := l.filter (fun r => r.2 != 0)

/-- The segments of pieces q to q + k − 1 (R621). -/
def pieceRanges (count n p q k : Nat) : List (Nat × Nat) :=
  ranges ((upFrom q k).flatMap (fun q => segOf count n q :: (if q + p < n then [segOf count n (q + p)] else [])))

/-- The plan of a step of a halving channel for rank a of n (R621, R622). -/
def halvingPlan (kind count n a step : Nat) : StepPlan :=
  let L := Nat.log2 n
  let p := 2 ^ L
  let r := n - p
  let whole := ranges ((below n).map (segOf count n))
  let none_ : StepPlan := ⟨[], []⟩
  if step = 0 then
    let rs := fun k => if kind = 2 then ranges [segOf count n (k + p)] else whole
    if p ≤ a then ⟨[(a - p, 0, rs (a - p))], []⟩
    else if a < r then ⟨[], [(a + p, 0, rs a, kind != 2)]⟩ else none_
  else if step ≤ L then
    if kind = 2 ∨ p ≤ a then none_
    else
      let d := p / 2 ^ step
      let b := Nat.xor a d
      ⟨[(b, 0, pieceRanges count n p (b - b % d) d)], [(b, 0, pieceRanges count n p (a - a % d) d, true)]⟩
  else if step ≤ 2 * L then
    if kind = 1 ∨ p ≤ a then none_
    else
      let d := 2 ^ (step - L - 1)
      let b := Nat.xor a d
      ⟨[(b, 0, pieceRanges count n p (a - a % d) d)], [(b, 0, pieceRanges count n p (b - b % d) d, false)]⟩
  else
    let rs := fun k => if kind = 1 then ranges [segOf count n (k + p)] else whole
    if p ≤ a then ⟨[], [(a - p, 0, rs (a - p), false)]⟩
    else if a < r then ⟨[(a + p, 0, rs a)], []⟩ else none_

/-- The rank at a position of a tree, and the position of a rank (R624). -/
def treeMap (t n q : Nat) : Nat := if t = 0 then q else n - 1 - q

/-- The plan of a step of a tree channel for rank a of n (R624, R625). -/
def treePlan (count n a step : Nat) : StepPlan :=
  let h := (count + 1) / 2
  let one := fun t =>
    let rs := ranges [if t = 0 then (0, h) else (h, count - h)]
    let q := treeMap t n a
    let parent := if q = 0 then [] else [treeMap t n ((q - 1) / 2)]
    let kids := ([2 * q + 1, 2 * q + 2].filter (fun x => decide (x < n))).map (treeMap t n)
    if rs.isEmpty then (([], []) : List (Nat × Nat × List (Nat × Nat)) × List (Nat × Nat × List (Nat × Nat) × Bool))
    else if step = 0 then (parent.map (fun k => (k, t, rs)), kids.map (fun k => (k, t, rs, true)))
    else (kids.map (fun k => (k, t, rs)), parent.map (fun k => (k, t, rs, false)))
  ⟨(one 0).1 ++ (one 1).1, (one 0).2 ++ (one 1).2⟩

/-- Index of the last step of an operation (R620, R621, R625). -/
def State.lastStep (s : State) (w : Nat) : Nat :=
  if coChan w < 4 then 1 else 2 * Nat.log2 (s.groupN (coGroup w)) + 1

/-- The plan of a step of an operation on this module. -/
def State.plan (s : State) (w step : Nat) : StepPlan :=
  let n := s.groupN (coGroup w)
  let a := s.groupRank (coGroup w)
  if s.lastStep w < step then ⟨[], []⟩
  else if coChan w < 4 then treePlan (coCount w) n a step else halvingPlan (coKind w) (coCount w) n a step

/-- Split element ranges into messages of at most 64 KiB of image (R626, R628). -/
def cutRanges (b : Nat) (l : List (Nat × Nat)) : List (Nat × Nat) :=
  l.flatMap (fun r => (below (cdiv r.2 (65536 / b))).map (fun i =>
    (r.1 + i * (65536 / b), min (65536 / b) (r.2 - i * (65536 / b)))))

/-! ### The working area (R630, R631) -/

/-- The requester of a channel's engine: Border die c mod 2 (R615). -/
def collRq (o : CollOp) : Rq := ⟨o.ctx, 16 + coChan o.words % 2⟩

/-- The working area: src for SUM_SCATTER, dst otherwise (R630). -/
def workBase (w : Nat) : Nat := if coKind w = 1 then coSrc w else coDst w

/-- A status met in an operation's memory accesses raises FLT_COLL_DATA (R633). -/
def State.collFail (s : State) (c : Nat) (o : CollOp) (d : Done) : State :=
  s.raise { FaultInfo.mk0 fltCollData 6 c with
    part := s.rg R.ctxCfgPartition o.ctx, ctx := o.ctx, status := d.status, addr := infoOf d.status d.info }

/-- Copy n bytes for an engine. -/
def State.engineCopy (s : State) (rq : Rq) (src dst n : Nat) : Got Unit :=
  if src = dst ∨ n = 0 then (s, .ok ())
  else Got.next (s.placeRead ⟨1, 0, rq, src⟩ 0 n) (fun s bs => s.placeWrite ⟨1, 0, rq, dst⟩ 0 bs)

/-- Copy bytes of src, at some offset, into the working area (R630). -/
def State.copyIn (s : State) (o : CollOp) (off n : Nat) : Got Unit :=
  let w := o.words
  let at_ := if coKind w = 2 then (s.srcRange w).1 * coSize w else 0
  s.engineCopy (collRq o) (coSrc w + off) (workBase w + at_ + off) n

/-- Bytes of src. -/
def State.srcBytes (s : State) (w : Nat) : Nat := (s.srcRange w).2 * coSize w

/-- Whether every 4 KiB unit of src under some elements is ready (R636). -/
def State.rangeReady (s : State) (o : CollOp) (first len : Nat) : Bool :=
  let w := o.words
  let r := s.srcRange w
  let lo := max first r.1
  let hi := min (first + len) (r.1 + r.2)
  !(coFed w) || decide (hi ≤ lo) ||
    (upFrom ((lo - r.1) * coSize w / 4096) (((hi - r.1) * coSize w - 1) / 4096 + 1 - (lo - r.1) * coSize w / 4096)).all
      (fun u => o.ready.contains u)

/-- Whether every unit of src is ready (R636). -/
def State.srcReady (s : State) (o : CollOp) : Bool :=
  let r := s.srcRange o.words
  s.rangeReady o r.1 r.2

/-- Add received elements into the working area by reading, adding and writing back (R609, R631). -/
def State.addIn (s : State) (o : CollOp) (first : Nat) (bs : List Byte) : Got Unit :=
  let w := o.words
  let b := coSize w
  let p : Place := ⟨1, 0, collRq o, workBase w + first * b⟩
  Got.next (s.placeRead p 0 bs.length) (fun s old =>
    s.placeWrite p 0 (((pieces b old).zip (pieces b bs)).flatMap (fun x =>
      natLe b (addElemCode (coFmt w) (coFmt w) (leNat x.1) (leNat x.2)))))

/-- Add received elements through the memory-side adders (R631). -/
def State.addMem (s : State) (o : CollOp) (first : Nat) (bs : List Byte) : Got Unit :=
  let w := o.words
  let b := coSize w
  let els := (pieces b bs).map leNat
  Got.next (s.each (fun s (q : Nat × Nat × List Nat) =>
      let x := s.xlate (collRq o) (q.1 * 64) true
      if x.st ≠ 0 then (x.s, .error ⟨x.st, 0, sectorFirst b q⟩)
      else
        let r := x.s.applyAdd ⟨0, 2048 + coChan w % 2, 0, o.ctx, false, false, 0, 0, 0, false, x.pa, coFmt w, coFmt w, q.2.1, q.2.2⟩
        (r.1, if r.2 = 0 then .ok () else .error ⟨r.2, 0, sectorFirst b q⟩))
    (sectorsOf b ((els.zip (below els.length)).map (fun e => (workBase w + (first + e.2) * b, e.1)))))
    (fun s _ => (s, .ok ()))

/-- Store received elements: in the working area, or for the UNFOLD of a SUM_SCATTER in dst (R607,
R630). -/
def State.storeIn (s : State) (o : CollOp) (first : Nat) (bs : List Byte) : Got Unit :=
  let w := o.words
  let a := if coKind w = 1 then coDst w + (first - (s.dstRange w).1) * coSize w else workBase w + first * coSize w
  s.placeWrite ⟨1, 0, collRq o, a⟩ 0 bs

/-! ### Messages (R627 to R629) -/

/-- The header of a COLL message (R571, R627). -/
def collHeader (w step rank tree : Nat) (grant plait : Bool) (first n : Nat) : Nat :=
  2 + b2n plait * 2 ^ 4 + coFmt w * 2 ^ 8 + n * 2 ^ 80 + coGroup w * 2 ^ 128 + coSeq w * 2 ^ 138 + step * 2 ^ 170 +
    rank * 2 ^ 178 + tree * 2 ^ 194 + b2n grant * 2 ^ 195 + first * 2 ^ 196

/-- The head operation of a channel. -/
def State.headOp (s : State) (c : Nat) : Option CollOp := (s.collOps c).head?

/-- Replace the head operation of a channel. -/
def State.setHead (s : State) (c : Nat) (o : CollOp) : State := s.setOps c (o :: (s.collOps c).drop 1)

/-- Replace a started step. -/
def CollOp.setStep (o : CollOp) (x : CollStep) : CollOp :=
  { o with steps := o.steps.map (fun y => if y.step = x.step then x else y) }

/-- Note progress of a step: the wait that ends is counted (R641, R645). -/
def State.progress (s : State) (c : Nat) (o : CollOp) (x : CollStep) : State × CollOp × CollStep :=
  let wait := s.beat - x.last
  let s := s.radd R.collChanWaitRounds c wait
  let s := s.rset R.collChanWaitMaxRounds c (max wait (s.rg R.collChanWaitMaxRounds c))
  (s, { o with maxWait := max o.maxWait wait }, { x with last := s.beat })

/-- How many elements of tree t, from its first, a step's children have all given (R625, R631). -/
def CollStep.sumsTo (x : CollStep) (t : Nat) : Nat → Nat :=
  fun whole => ((x.want.filter (fun v => v.tree == t)).map CollWant.got).foldl min whole

/-- Whether the elements that a message would carry are there to be sent: ready contributions in the
first sending step (R636), and on a tree channel the sums of a chunk (R626). -/
def State.sendable (s : State) (o : CollOp) (x : CollStep) (t : CollXfer) : Bool :=
  let w := o.words
  let upto := t.first + t.len
  let firstSend := (below x.step).all (fun k => (s.plan w k).sends.isEmpty)
  (!firstSend || s.rangeReady o t.first t.len) &&
  (if coChan w < 4 then
    let base := if t.tree = 0 then 0 else (coCount w + 1) / 2
    let have_ := fun (y : CollStep) => decide (upto ≤ base + y.sumsTo t.tree (coCount w))
    have_ x && (x.step == 0 || (o.steps.filter (fun y => y.step == 0)).all have_) && s.rangeReady o t.first t.len
   else true)

/-- Send one message of a step; none where no route leads to the rank. -/
def State.sendColl (s : State) (o : CollOp) (x : CollStep) (t : CollXfer) : State × Except Done (Option Nat) :=
  let w := o.words
  let dst := s.rankModule (coGroup w) t.rank
  let port := if dst = s.ownId then some 16 else s.route dst
  match port with
  | none => (s, .ok none)
  | some port =>
    let rd := s.placeRead ⟨1, 0, collRq o, workBase w + t.first * coSize w⟩ 0 (if t.grant then 0 else t.len * coSize w)
    match rd with
    | (s, .error d) => (s, .error d)
    | (s, .ok bs) =>
      let y := s.wrap (coPlait w && !t.grant) (planeWidth (coFmt w)) bs
      let h := collHeader w x.step (s.groupRank (coGroup w)) t.tree t.grant (coPlait w && !t.grant) t.first bs.length
      let z := y.1.send ⟨0, port, coChan w, dst, s.ownId, h, y.2, o.ctx, x.entry.isSome, 0, 0⟩
      (if 16 ≤ port ∨ portNode port = 16 + coChan w % 2 then z.1
       else z.1.emit (.mesh (meshRoute (16 + coChan w % 2) (portNode port) (.coll (coChan w)))), .ok (some z.2))

/-- Send what a step may send, in order; a transfer that may not go on holds back the rest of it (R628,
R629, R636).  Answers what remains. -/
def State.pumpList (s : State) (c : Nat) : List CollXfer → List (Nat × Nat) → CollOp → CollStep →
    State × CollOp × CollStep × Option Done
  | [], _, o, x => (s, o, x, none)
  | t :: ts, stuck, o, x =>
    let hold := fun (s : State) (o : CollOp) (x : CollStep) (t : CollXfer) (stuck : List (Nat × Nat)) =>
      let r := s.pumpList c ts stuck o x
      (r.1, r.2.1, { r.2.2.1 with todo := t :: r.2.2.1.todo }, r.2.2.2)
    let b := coSize o.words
    let gone := smGetD x.sent t.rank 0
    let room := if x.granted.contains t.rank then t.len else min t.len ((s.rg R.collCfgEager 0 * 4096 - gone) / b)
    if stuck.contains (t.rank, t.tree) ∧ ¬ t.grant then hold s o x t stuck
    else if ¬ t.grant ∧ (room = 0 ∨ ¬ s.sendable o x { t with len := room }) then
      hold s o x t ((t.rank, t.tree) :: stuck)
    else
      match s.sendColl o x { t with len := if t.grant then 0 else room } with
      | (s, .error d) => (s, o, { x with todo := t :: ts }, some d)
      | (s, .ok none) => hold s o x t ((t.rank, t.tree) :: stuck)
      | (s, .ok (some id)) =>
        let r := s.progress c { o with ids := o.ids ++ [id] } x
        let x := { r.2.2 with sent := smSet r.2.2.sent t.rank (gone + (if t.grant then 0 else room * b)) }
        if t.grant ∨ room = t.len then r.1.pumpList c ts stuck r.2.1 x
        else hold r.1 r.2.1 x { t with first := t.first + room, len := t.len - room } ((t.rank, t.tree) :: stuck)

/-- Send what the started steps of a channel's head operation may send. -/
def State.pump (s : State) (c : Nat) : State :=
  match s.headOp c with
  | none => s
  | some o =>
    (o.steps.map CollStep.step).foldl (fun s k =>
      match s.headOp c with
      | none => s
      | some o =>
        match o.steps.find? (fun x => x.step == k) with
        | none => s
        | some x =>
          let r := s.pumpList c x.todo [] o { x with todo := [] }
          let s := r.1.setHead c (r.2.1.setStep r.2.2.1)
          match r.2.2.2 with
          | none => s
          | some d => s.collFail c r.2.1 d) s

/-! ### Receiving (R631, R633, R637, R638) -/

/-- group of a COLL message. -/
def cmGroup (h : Nat) : Nat := bits h 128 10
/-- sequence. -/
def cmSeq (h : Nat) : Nat := bits h 138 32
/-- step. -/
def cmStep (h : Nat) : Nat := bits h 170 8
/-- src_rank. -/
def cmRank (h : Nat) : Nat := bits h 178 16
/-- tree. -/
def cmTree (h : Nat) : Nat := bits h 194 1
/-- grant. -/
def cmGrant (h : Nat) : Bool := bit h 195
/-- offset. -/
def cmOffset (h : Nat) : Nat := bits h 196 40

/-- Whether an operation of a group's sequence has completed: no posted operation has it, and it lies
before the next sequence (R613, R633). -/
def State.seqDone (s : State) (g q : Nat) : Bool :=
  !((below 32).any (fun c => (s.collOps c).any (fun o => coGroup o.words == g && coSeq o.words == q))) &&
    decide ((s.rg R.collGroupSeqNext g + 2 ^ 32 - 1 - q) % 2 ^ 32 < 2 ^ 31)

/-- Whether a COLL message is one that R633 discards, its Plait blocks apart. -/
def State.collBad (s : State) (m : Msg) : Bool :=
  let h := m.header
  let g := cmGroup h
  clearFields h [(0, 4), (4, 1), (8, 8), (80, 40), (128, 10), (138, 32), (170, 8), (178, 16), (194, 1), (195, 1),
    (196, 40)] != 0 || decide (32 ≤ m.vc) || (!(bit h 4) && m.data.length != bits h 80 40) ||
  !(s.rb R.collGroupCfgEnable g) || decide (s.groupN g ≤ cmRank h) || s.rankModule g (cmRank h) != m.src ||
  s.seqDone g (cmSeq h)

/-- A message is discarded, counted, and raises FLT_COLL_DATA (R633). -/
def State.collDiscard (s : State) (m : Msg) (st : Status) : State :=
  (s.radd R.collDroppedCount 0 1).raise { FaultInfo.mk0 fltCollData 6 m.vc with
    part := s.rg R.collGroupCfgPartition (cmGroup m.header), status := st }

/-- The started step of a channel's head operation that a message belongs to, and what it gives (R637). -/
def State.stepFor (s : State) (m : Msg) : Option (CollOp × CollStep) :=
  match s.headOp m.vc with
  | none => none
  | some o =>
    if coGroup o.words ≠ cmGroup m.header ∨ coSeq o.words ≠ cmSeq m.header then none
    else match o.steps.find? (fun x => x.step == cmStep m.header) with
      | none => none
      | some x =>
        if cmGrant m.header ∨ x.want.any (fun v => v.rank == cmRank m.header && v.tree == cmTree m.header) then some (o, x)
        else none

/-- Whether a message's Plait blocks wait for a table that is being loaded (R448). -/
def State.msgWaits (s : State) (o : CollOp) (m : Msg) : Bool :=
  match (s.msgImage m o.ctx (borderSet (m.vc % 2))).2 with
  | .error d => d.status == stWaits
  | .ok _ => false

/-- Whether a data message may be applied now: its elements' own contribution is ready, the left child's part of a
tree's sum is there, and no block of it waits for a table (R448, R625, R631, R636). -/
def State.mayApply (s : State) (o : CollOp) (x : CollStep) (m : Msg) : Bool :=
  let h := m.header
  let len := bits h 80 40 / coSize o.words
  let mine := x.want.filter (fun v => v.tree == cmTree h)
  let left := mine.takeWhile (fun v => v.rank != cmRank h)
  let add := mine.any (fun v => v.rank == cmRank h && v.add)
  (!add || s.rangeReady o (cmOffset h) len) &&
    (!(decide (coChan o.words < 4)) || left.all (fun v => decide (cmOffset h + len ≤ v.first + v.got))) &&
    !(s.msgWaits o m)

/-- Apply a data message to a started step (R622, R625, R630, R631). -/
def State.applyColl (s : State) (o : CollOp) (x : CollStep) (m : Msg) : State :=
  let c := m.vc
  let h := m.header
  let bad := fun (s : State) (d : Done) =>
    if stClass d.status = 5 then s.collDiscard m d.status else s.collFail c o d
  match s.msgImage m o.ctx (borderSet (c % 2)) with
  | (s, .error d) => bad s d
  | (s, .ok bs) =>
    let add := x.want.any (fun v => v.rank == cmRank h && v.tree == cmTree h && v.add)
    let r := if add then (if coMemAdd o.words then s.addMem o (cmOffset h) bs else s.addIn o (cmOffset h) bs)
      else s.storeIn o (cmOffset h) bs
    match r with
    | (s, .error d) => bad s d
    | (s, .ok _) =>
      let len := bs.length / coSize o.words
      let x := { x with want := x.want.map (fun v =>
          if v.rank = cmRank h ∧ v.tree = cmTree h then { v with got := v.got + len } else v) }
      let r := (s.noteRx o.ctx m).progress c o x
      r.1.setHead c (r.2.1.setStep r.2.2)

/-- Apply the held messages that may be applied, in order. -/
def State.applyHeld (s : State) (c : Nat) : Nat → State
  | 0 => s
  | fuel + 1 =>
    match s.headOp c with
    | none => s
    | some o =>
      match (o.steps.flatMap (fun x => x.held.map (fun m => (x, m)))).find? (fun p => s.mayApply o p.1 p.2) with
      | none => s
      | some (x, m) =>
        let x := { x with held := x.held.filter (fun y => y.id != m.id) }
        ((s.setHead c (o.setStep x)).applyColl (o.setStep x) x m).applyHeld c fuel

/-- A message of a started step: a grant is noted, data are applied or held. -/
def State.takeStep (s : State) (o : CollOp) (x : CollStep) (m : Msg) : State :=
  if cmGrant m.header then (s.noteRx o.ctx m).setHead m.vc (o.setStep { x with granted := cmRank m.header :: x.granted })
  else if s.mayApply o x m then (s.applyColl o x m).applyHeld m.vc 4096
  else s.setHead m.vc (o.setStep { x with held := x.held ++ [m] })

/-- Store a message in its Border die's early-arrival buffer, or discard it (R637, R638). -/
def State.storeEarly (s : State) (m : Msg) : State :=
  if 8388608 < s.rg R.collEarlyUseUsed (m.vc % 2) + m.bytes then
    (s.radd R.collDroppedCount 0 1).raise { FaultInfo.mk0 fltCollectiveOrder 6 m.vc with
      part := s.rg R.collGroupCfgPartition (cmGroup m.header) }
  else
    (({ s with coll := { s.coll with early := s.coll.early ++ [m] } }).noteEarly).radd R.collChanEarlyBytes m.vc m.bytes

/-- A COLL message between its engine and a port of the other Border die crosses the mesh (R30, R615). -/
def State.collCross (s : State) (src dst chan port : Nat) : State :=
  if 16 ≤ port ∨ src = dst then s else s.emit (.mesh (meshRoute src dst (.coll chan)))

/-- A COLL message comes off the link (R633, R637). -/
def State.takeColl (s : State) (port vc : Nat) (grant : Bool) : State :=
  match s.nextMsg port vc 2 with
  | none => s
  | some m =>
    if cmGrant m.header ≠ grant then s
    else
      let s := s.collCross (portNode port) (16 + vc % 2) vc port
      let s := s.takeMsg m
      if s.collBad m then s.collDiscard m 0
      else match s.stepFor m with
        | none => s.storeEarly m
        | some (o, x) => (s.takeStep o x m).pump vc

/-- What a channel's engine comes to: nothing yet, while a regulator holds a transfer of its head operation's context
back; the traffic of the Weave table's steps is never held (R187). -/
def State.gateColl (s : State) (c : Nat) (t : State) : State :=
  match s.headOp c with
  | none => t
  | some o => if s.rb R.collChanCfgScheduled c then t else s.gate o.ctx t

/-- COLL: a received data message is applied to a started step or stored (R637). -/
def execColl (port vc : Nat) (s : State) : Host.Outcome State Fault Refusal :=
  .next (s.gateColl vc (s.takeColl port vc false))

/-- COLL_GRANT: a received grant lets the rest of a transfer go (R629). -/
def execCollGrant (port vc : Nat) (s : State) : Host.Outcome State Fault Refusal :=
  .next (s.gateColl vc (s.takeColl port vc true))

/-- COLL_READY_SEND: a channel's head operation sends what its ready units allow, and takes the messages that waited for
them, or for a table that has been loaded (R448, R636). -/
def execCollReadySend (chan : Nat) (s : State) : Host.Outcome State Fault Refusal :=
  .next (s.gateColl chan ((s.applyHeld chan 4096).pump chan))

/-! ### Steps (R618, R619, R629, R632) -/

/-- Start the next step of a channel's head operation: the contribution goes to the working area first,
then grants and eager data go out and stored messages are taken (R629, R630, R637). -/
def State.startStep (s : State) (c : Nat) (o : CollOp) (entry : Option (Nat × Nat)) : State :=
  let w := o.words
  let pl := s.plan w o.next
  let r := if o.begun ∨ coFed w then (s, .ok ()) else s.copyIn o 0 (s.srcBytes w)
  match r with
  | (s, .error d) => s.collFail c o d
  | (s, .ok _) =>
    let o := { o with begun := true, next := o.next + 1 }
    if pl.sends.isEmpty ∧ pl.wants.isEmpty then s.setHead c o
    else
      let grants := pl.wants.foldl (fun (l : List CollXfer) v =>
        if l.any (fun t => t.rank == v.1) then l else l ++ [⟨v.1, v.2.1, 0, 0, true⟩]) []
      let todo := grants ++ pl.sends.flatMap (fun v => (cutRanges (coSize w) v.2.2).map (fun q => ⟨v.1, v.2.1, q.1, q.2, false⟩))
      let want := pl.wants.map (fun v =>
        (⟨v.1, v.2.1, (v.2.2.1.headD (0, 0)).1, (v.2.2.1.map Prod.snd).sum, 0, v.2.2.2⟩ : CollWant))
      let x : CollStep := ⟨o.next - 1, s.beat, s.beat, entry, todo, want, [], [], []⟩
      let s := s.setHead c { o with steps := o.steps ++ [x] }
      let mine := fun (m : Msg) => m.vc == c && cmGroup m.header == coGroup w && cmSeq m.header == coSeq w &&
        cmStep m.header == x.step
      let ms := s.coll.early.filter mine
      let s := ({ s with coll := { s.coll with early := s.coll.early.filter (fun m => !(mine m)) } }).noteEarly
      (ms.foldl (fun s m => match s.stepFor m with
        | some (o, x) => s.takeStep o x m
        | none => s.storeEarly m) s).pump c

/-- Start steps until one has something to do; those with nothing complete at once (R621). -/
def State.startSteps (s : State) (c : Nat) : Nat → State
  | 0 => s
  | fuel + 1 =>
    match s.headOp c with
    | none => s
    | some o =>
      if ¬ o.steps.isEmpty ∨ s.lastStep o.words < o.next then s
      else (s.startStep c o none).startSteps c fuel

/-- COLL_STEP_START: on a channel that is not scheduled the next step of the head operation starts once
the one before it has completed (R617, R618). -/
def execCollStepStart (chan : Nat) (s : State) : Host.Outcome State Fault Refusal :=
  if 32 ≤ chan ∨ s.rb R.collChanCfgScheduled chan then .next s else .next (s.gateColl chan (s.startSteps chan 40))

/-- Accept a COLL_STEP entry where R619 admits it: its step starts, or it finishes at once. -/
def State.acceptColl (s : State) (e : EntryOcc) : State :=
  let w := e.words
  let c := bits w 64 5
  if ¬ s.rb R.collChanCfgScheduled c then s.unwait e
  else
    match s.headOp c with
    | none => s
    | some o =>
      let k := bits w 96 16
      if coGroup o.words ≠ bits w 80 10 ∨ coSeq o.words ≠ bits w 128 32 then s
      else if k < o.next ∨ (s.lastStep o.words < k ∧ s.lastStep o.words < o.next ∧ o.steps.isEmpty) then s.unwait e
      else if k ≠ o.next ∨ s.lastStep o.words < k ∨ ¬ (o.steps.isEmpty ∨ (c < 4 ∧ k = 1)) then s
      else
        let s := s.unwait e
        let s := { s with wtab := { s.wtab with active := s.wtab.active ++ [e] } }
        let t := s.startStep c o (some (e.idx, e.occ))
        if (t.headOp c).any (fun o => o.steps.any (fun x => x.entry == some (e.idx, e.occ))) then t
        else t.finishEntry e.idx e.occ

/-- Whether a step has sent and received everything. -/
def CollStep.complete (x : CollStep) : Bool :=
  x.todo.isEmpty && x.held.isEmpty && x.want.all (fun v => decide (v.len ≤ v.got))

/-- The last step of an operation has completed and its messages are accepted: the packet completes and
the next operation becomes the head (R607, R617, R632). -/
def State.endColl (s : State) (c : Nat) (o : CollOp) : State :=
  let w := o.words
  let g := coGroup w
  let n := s.groupN g
  let core := decide (s.groupRank g < 2 ^ Nat.log2 n)
  let d := s.dstRange w
  let r := if coKind w = 1 ∧ core then
      s.engineCopy (collRq o) (coSrc w + d.1 * coSize w) (coDst w) (d.2 * coSize w) else (s, .ok ())
  match r with
  | (s, .error e) => s.collFail c o e
  | (s, .ok _) =>
    let s := s.setOps c ((s.collOps c).drop 1)
    let s := (s.radd R.collChanOpsCount c 1).radd R.collGroupSeqCompleted g 1
    s.finish o.ctx o.ring o.slot ⟨stOk, o.maxWait, 0⟩

/-- COLL_STEP_COMPLETE: a step of a channel's head operation completes; after the last one, with every
message accepted and all of src given, the operation completes (R617, R632, R636). -/
def execCollStepComplete (chan : Nat) (s : State) : Host.Outcome State Fault Refusal :=
  match s.headOp chan with
  | none => .next s
  | some o =>
    match o.steps.find? CollStep.complete with
    | some x =>
      let s := s.setHead chan { o with steps := o.steps.filter (fun y => y.step != x.step) }
      .next (match x.entry with
        | some (i, k) => (s.finishEntry i k).checkRunEnd
        | none => s)
    | none =>
      if o.steps.isEmpty ∧ s.lastStep o.words < o.next ∧ o.ids.all (fun id => s.accepted id) ∧ s.srcReady o then .next (s.gateColl chan (s.endColl chan o))
      else .next s

/-- COLL_TIMEOUT: a started step's wait reaches COLL_CFG.timeout: FLT_COLLECTIVE_ORDER where the early
arrivals hold another group or sequence of the channel, FLT_COLL_TIMEOUT otherwise (R641, R642). -/
def execCollTimeout (chan : Nat) (s : State) : Host.Outcome State Fault Refusal :=
  match s.headOp chan with
  | none => .next s
  | some o =>
    if o.steps.any (fun x => decide (s.rg R.collCfgTimeout 0 ≤ s.beat - x.last)) then
      let other := s.coll.early.any (fun m => m.vc == chan &&
        (cmGroup m.header != coGroup o.words || cmSeq m.header != coSeq o.words))
      .next (s.raise { FaultInfo.mk0 (if other then fltCollectiveOrder else fltCollTimeout) 6 chan with
        part := s.rg R.ctxCfgPartition o.ctx, ctx := o.ctx })
    else .next s

/-! ### MMR (R634 to R636) -/

/-- The posted operation that an MMR feeds (R635). -/
def State.fedOp (s : State) (ctx w : Nat) : Option CollOp :=
  (s.collOps (bits w 832 5)).find? (fun o => o.ctx == ctx && coGroup o.words == bits w 848 10 &&
    coSeq o.words == bits w 864 32 && coFed o.words)

/-- The units of src that an MMR covers, where R635 admits its range. -/
def State.mmrUnits (s : State) (o : CollOp) (w : Nat) : Option (List Nat) :=
  let b := coSize o.words
  let n := dM w * dN w * b
  let src := coSrc o.words
  let a := (dOpnd w 2).addr
  let all := s.srcBytes o.words
  if a < src ∨ src + all < a + n ∨ (a - src) % 4096 ≠ 0 ∨ (n % 4096 ≠ 0 ∧ a + n ≠ src + all) then none
  else some (upFrom ((a - src) / 4096) ((n + 4095) / 4096))

/-- Mark units ready, and take them into the working area (R630, R636). -/
def State.markReady (s : State) (o : CollOp) (us : List Nat) : Got Unit :=
  let c := coChan o.words
  let s := { s with coll := { s.coll with ops := smPut [] s.coll.ops c ((s.collOps c).map (fun (x : CollOp) =>
      if x.ctx = o.ctx ∧ x.ring = o.ring ∧ x.slot = o.slot then { x with ready := x.ready ++ us } else x)) } }
  Got.next (s.each (fun s u => s.copyIn o (4096 * u) (min 4096 (s.srcBytes o.words - 4096 * u))) us)
    (fun s _ => (s, .ok ()))

/-- Whether an MMR is malformed, the operation that it feeds apart (R634, R635). -/
def mmrMalformed (wv : Weave) (w : Nat) : Bool :=
  let c := dOpnd w 2
  mmMalformed wv false w || !(dEpilogue w) || c.space != 1 || c.agen != 0 ||
  paramsBad w (mmParams ++ [(832, 5), (848, 10), (864, 32)])

/-- The work of an MMR: an MM whose output marks its range of a posted collective ready (R634 to R636). -/
def State.mmr (s : State) (wv : Weave) (stake : Nat) (d : DescRun) : Got Unit :=
  let w := d.words
  if mmrMalformed wv w then (s, .error badItem)
  else
    match s.fedOp wv.ctx w with
    | none => (s, .error badItem)
    | some o =>
      match s.mmrUnits o w with
      | none => (s, .error badItem)
      | some us =>
        if dFmtOut w ≠ coFmt o.words ∨ us.any (fun u => o.ready.contains u) then (s, .error badItem)
        else Got.next (s.mmCore wv stake w) (fun s _ =>
          let s := s.noteSat wv stake w
          Got.next (s.output wv stake (bits w 808 11) d (isIntClass (dFmtA w)) (dN w) (dM w)
            (s.tileEls stake (dAccFirst w) (dM w) (dN w))) (fun s _ => s.markReady o us))

/-- MMR: an MM whose output feeds a posted collective (R634 to R636). -/
def execMmr (stake idx : Nat) (s : State) : Host.Outcome State Fault Refusal :=
  .next (s.runWork stake idx 0x02 (fun wv d => s.mmr wv stake d))

end Sys2Proof.Machine
end

