-- ==== Sys2Proof/Machine/Accept.lean ====
section
/-!
DEFINITION. ENTRY_ACCEPT: the target unit of a waiting Weave entry accepts it (R92, R556, R588, R619, R708).
-/

namespace Sys2Proof.Machine

/-- Accept a LINK_SLOT entry: its slot is open (R588). -/
def State.acceptSlot (s : State) (e : EntryOcc) : State :=
  let s := s.unwait e
  { s with wtab := { s.wtab with active := s.wtab.active ++ [e] } }

/-- Accept an entry of any kind that waits. -/
def State.acceptEntry (s : State) (e : EntryOcc) : State :=
  match weKind e.words with
  | 1 => s.acceptLaunch e
  | 2 => s.acceptSlot e
  | 3 => s.acceptColl e
  | 4 => s.acceptPrefetch e
  | 6 => s.acceptMirror e
  | _ => s

/-- ENTRY_ACCEPT: an occurrence of an entry that waits is accepted where its unit is free of earlier
scheduled work (R92). -/
def execEntryAccept (idx occ : Nat) (s : State) : Host.Outcome State Fault Refusal :=
  if s.rg R.weaveStatusState 0 ≠ 3 then .next s
  else
    match s.wtab.waiting.find? (fun e => e.idx == idx && e.occ == occ) with
    | none => .next s
    | some e => if s.unitTaken e then .next s else .next ((s.acceptEntry e).checkRunEnd)

end Sys2Proof.Machine
end

