-- ==== Sys2Proof/Machine/Partition.lean ====
section
/-!
DEFINITION. Partitions: enabling them, changing what they own, and the attribution of energy (R163 to
R170, R190, R191, R206, R351, R449, R762).
-/

namespace Sys2Proof.Machine

/-! ### What a write changes (R164, R193) -/

/-- A write of PART_CFG, PART_SKEINS, PART_RES or PART_VID (0 to 3) as the registers take it. -/
def State.putPart (s : State) (p reg v : Nat) : State :=
  let keep0 := fun (s : State) (f : Fld) (x : Nat) => if x = 0 then s else s.rset f p x
  match reg with
  | 0 =>
    let s := ((s.rset R.partCfgEnable p (bits v 0 1)).rset R.partCfgRealtime p (bits v 1 1)).rset
      R.partCfgFunction p (bits v 8 6)
    keep0 (keep0 s R.partCfgMaxRunBound (bits v 16 16)) R.partCfgUrgency (bits v 32 32)
  | 1 => s.rset R.partSkeinsSkeins p v
  | 2 =>
    let s := (s.rset R.partResCollChannels p (bits v 0 32)).rset R.partResPlaitBorderSlots p (bits v 32 16)
    (keep0 s R.partResBwShare (bits v 48 8)).rset R.partResMirror p (bits v 56 1)
  | _ =>
    if 512 < bits v 0 9 + bits v 16 10 then s
    else (s.rset R.partVidSessionFirst p (bits v 0 9)).rset R.partVidSessionCount p (bits v 16 10)

/-- Whether the resources of two partitions overlap (R164). -/
def State.partsMeet (s : State) (p q : Nat) : Bool :=
  let both := fun (f : Fld) => Nat.land (s.rg f p) (s.rg f q) != 0
  both R.partSkeinsSkeins || both R.partResCollChannels || both R.partResPlaitBorderSlots || both R.partResMirror ||
  rangesMeet (s.rg R.partVidSessionFirst p) (s.rg R.partVidSessionCount p)
    (s.rg R.partVidSessionFirst q) (s.rg R.partVidSessionCount q)

/-- Whether an enabled partition overlaps another, or names a virtual function that is not enabled or
that another enabled partition has (R167). -/
def State.partBad (s : State) (p : Nat) : Bool :=
  let f := s.rg R.partCfgFunction p
  let others := s.enabledParts.filter (fun q => q != p)
  others.any (fun q => s.partsMeet p q) ||
  (f != 0 && (!(s.fnEnabled f) || others.any (fun q => s.rg R.partCfgFunction q == f)))

/-- Whether a partition's registers are held: a bound context is at work or halted, or the loaded Weave
table names the partition (R168). -/
def State.partHeld (s : State) (p : Nat) : Bool :=
  (s.ctxsOf p).any (fun c => decide (2 ≤ s.ctxState c)) || s.jobParts.contains p

/-- The enabled partition that owns a Skein (R164, R170). -/
def State.skeinOwner (s : State) (k : Nat) : Option Nat :=
  (below 64).find? (fun p => s.rb R.partCfgEnable p && s.hasSkein p k)

/-- The enabled partition that owns a Border-die Plait slot (R164). -/
def State.borderOwner (s : State) (i : Nat) : Option Nat :=
  (below 64).find? (fun p => s.rb R.partCfgEnable p && bit (s.rg R.partResPlaitBorderSlots p) i)

/-- A Skein changes hands: its Stakes are zeroed and take the default set, its Plait slots are emptied
(R206, R351, R449). -/
def State.moveSkein (s : State) (k : Nat) : State :=
  let s := (upFrom (24 * k) 24).foldl (fun s st => (s.zeroStake st).loadDefault st) s
  (upFrom (coilSet (k / 4) + 4 * (k % 4)) 4).foldl (fun s i => s.emptySlot i) s

/-- What a change of ownership from s to t does to the Skeins and slots that change hands, and to the
Coils in Nap that it makes owned (R206, R351, R449, R762). -/
def State.moveOwners (s t : State) : State :=
  let t' := ((below 64).filter (fun k => decide (s.skeinOwner k ≠ t.skeinOwner k))).foldl (fun t k => t.moveSkein k) t
  let t' := ((below 16).filter (fun i => decide (s.borderOwner i ≠ t.borderOwner i))).foldl (fun t i =>
    (t.emptySlot (borderSet 0 + i)).emptySlot (borderSet 1 + i)) t'
  let woken := (below 16).filter (fun c => t.coilOwned c && t.napping c && !(t.pwr.leaving.contains c))
  { t' with pwr := { t'.pwr with leaving := t'.pwr.leaving ++ woken } }

/-- A write of one of the four registers from a function, with its checks (R157, R167, R168). -/
def State.writePart (s : State) (p reg v fn : Nat) : State :=
  if 64 ≤ p ∨ fn ≠ 0 then s
  else
    let t := s.putPart p reg v
    let change := s.rg R.partCfgEnable p != t.rg R.partCfgEnable p
    if s.partHeld p ∨ (change ∧ ¬ (s.ctxsOf p).isEmpty) ∨ (t.rb R.partCfgEnable p ∧ t.partBad p) then
      s.rset R.partStatusCfgRefused p 1
    else s.moveOwners t

/-- PART_ENABLE: a write to PART_CFG that changes enable (R167, R168). -/
def execPartEnable (part value fn : Nat) (s : State) : Host.Outcome State Fault Refusal :=
  if ¬ s.barOpen 0x400000 then .next s else
  if bits value 0 1 = s.rg R.partCfgEnable part then .next s else .next (s.writePart part 0 value fn)

/-- PART_CONFIG_WRITE: a write to PART_SKEINS, PART_RES or PART_VID, or to PART_CFG with enable as it is
(R167, R168). -/
def execPartConfigWrite (part reg value fn : Nat) (s : State) : Host.Outcome State Fault Refusal :=
  if ¬ s.barOpen 0x400000 then .next s else
  if 3 < reg ∨ (reg = 0 ∧ bits value 0 1 ≠ s.rg R.partCfgEnable part) then .next s
  else .next (s.writePart part reg value fn)

/-! ### Energy (R189 to R191) -/

/-- The first seven counters of R189, in order. -/
def energyFlds : List Fld :=
  [R.partAcctStakeCount, R.partAcctHbmCount, R.partAcctHamperCount, R.partAcctCreelCount, R.partAcctPcieCount,
   R.partAcctWaleTxCount, R.partAcctWaleRxCount]

/-- Contexts with a counter that is not zero. -/
def State.acctCtxs (s : State) : List Nat :=
  (s.regs.filter (fun e => energyFlds.any (fun f => f.id == e.1 % 1024))).foldl
    (fun (l : List Nat) e => if l.contains (e.1 / 1024) then l else l ++ [e.1 / 1024]) []

/-- Modelled energy of a context over the interval (R190). -/
def State.modelled (s : State) (c : Nat) : Nat :=
  ((energyFlds.zip (below 7)).map (fun x =>
    (s.rg x.1 c + 2 ^ 64 - smGetD s.parts.base (c * 8 + x.2) 0) % 2 ^ 64 * s.rg R.partEnergyCoefCoef x.2)).sum

/-- Take the counters as the base of the next interval. -/
def State.newBase (s : State) : State :=
  let b := s.acctCtxs.foldl (fun m c => (energyFlds.zip (below 7)).foldl (fun m x =>
    smPut 0 m (c * 8 + x.2) (s.rg x.1 c)) m) []
  { s with parts := { s.parts with base := b, lastAttr := s.round, ticks := 0 } }

/-- ENERGY_ATTRIBUTION: at a boundary whose count is a multiple of 1,024 the input energy of the
interval, in µJ, goes to the bound contexts and to idle (R190, R191).  The idle power, in mW over ticks
of 40 ns, is taken in pJ, so that the division is the only rounding. -/
def execEnergyAttribution (energy : Nat) (s : State) : Host.Outcome State Fault Refusal :=
  if s.round % 1024 ≠ 0 ∨ s.round = s.parts.lastAttr then .next s
  else
    let cs := s.acctCtxs
    let sum := (cs.map s.modelled).sum
    let d := energy * 1000000 - s.rg R.partEnergyCoefCoef 7 * (40 * s.parts.ticks)
    let share := fun c => if sum = 0 then 0 else d * s.modelled c / (sum * 1000000)
    let bound := cs.filter (fun c => s.ctxState c != ctxFree)
    let t := bound.foldl (fun t c => t.radd R.partAcctEnergyCount c (share c)) s
    let t := (t.radd R.partEnergyIdleEnergy 0 (energy - (bound.map share).sum)).radd R.partEnergyInputEnergy 0 energy
    .next t.newBase

end Sys2Proof.Machine
end

