-- ==== Sys2Proof/Machine/Attn.lean ====
section
/-!
DEFINITION. ATTN: attention passes with the online soft maximum (R371 to R391, R401, R402, R458, R459).
-/

namespace Sys2Proof.Machine

/-! ### Parameters (R371, R372, R378) -/

/-- mask_mode. -/
def atMask (w : Nat) : Nat := bits w 768 3
/-- entry_count. -/
def atEntries (w : Nat) : Nat := bits w 776 16
/-- span. -/
def atSpan (w : Nat) : Nat := bits w 792 20
/-- sm_scale. -/
def atScale (w : Nat) : Nat := bits w 812 32
/-- v_offset. -/
def atVOff (w : Nat) : Int := toSigned 32 (bits w 844 32)
/-- Virtual address of the first length-table entry. -/
def atLt (w : Nat) : Nat := bits w 876 43 * 32
/-- Virtual address of the visibility map. -/
def atVis (w : Nat) : Nat := bits w 919 41 * 128

/-- Format of the weights at port A (R374). -/
def atPFmt (f : Nat) : Nat := if f = 0x01 ∨ f = 0x02 then f else 0x03

/-- Whether an ATTN's fields, in themselves, are malformed (R371, R372, R459, R461). -/
def attnMalformed (wv : Weave) (w : Nat) : Bool :=
  let a := dOpnd w 0
  let b := dOpnd w 1
  let c := dOpnd w 2
  let e := bits (atScale w) 23 8
  paramsBad w [(768, 3), (771, 1), (772, 1), (773, 1), (776, 16), (792, 20), (812, 32), (844, 32), (876, 43), (919, 41)] ||
  decide (dK w = 0 ∨ 128 < dK w ∨ d4 w = 0 ∨ 128 < d4 w) ||
  (if bit w 773 then dM w != 0 || dN w != 0 || atEntries w == 0 else dM w == 0 || dN w == 0) ||
  dAccFirst w != 0 || dAccCount w != 3 || dPreload w != 1 || !(dEpilogue w) ||
  !((fmtClass (dFmtA w) == 6 && fmtClass (dFmtB w) == 6) || (fmtClass (dFmtA w) == 3 && fmtClass (dFmtB w) == 3)) ||
  decide (4 < dFmtOut w) ||
  !(opndOk wv 0 [0] a) || a.packed || scaleBad (dFmtA w) a || !(opndOk wv 0 [0, 1] b) || scaleBad (dFmtB w) b ||
  originBad wv (dFmtB w) b.packed b || (b.packed && 128 * dK w * fmtBits (dFmtB w) % 32768 != 0) ||
  !(opndOk wv wv.first [0, 1, 3] c) || c.packed || bit w 656 || badScale (bits w 704 32) ||
  (!(bit w 772) && scaleBad (dFmtOut w) c) ||
  decide (3 < atMask w) || (decide (2 ≤ atMask w) && atSpan w == 0) ||
  bit (atScale w) 31 || e == 0 || e == 255

/-! ### Sequences and passes (R375, R376, R389, R391) -/

/-- A sequence of an ATTN: q_start, q_len, kv_len, and where its keys begin (R375). -/
structure AtSeq where
  start : Nat
  qlen : Nat
  kv : Nat
  base : Int
  deriving DecidableEq, Repr

/-- Defined status values of a length-table entry (R401). -/
def ltStatuses : List Nat := [stOk, stKvNoPage, stKvAdmitDeferred, stKvParked, stKvLength]

/-- status of a length-table entry. -/
def ltStatus (e : Nat) : Nat := bits e 160 16

/-- Whether a length-table entry is malformed (R402).  An entry with kv_len = 0 makes its passes, as R389 says; its
kv_len below q_len is not held against it (log entry 47). -/
def ltBad (e : Nat) : Bool :=
  bits e 192 64 != 0 || !(ltStatuses.contains (ltStatus e)) ||
  (ltStatus e == stOk && bits e 64 32 != 0 && decide (bits e 64 32 < bits e 32 32))

/-- The sequence of a length-table entry (R375, R401). -/
def ltSeq (e : Nat) : AtSeq := ⟨bits e 0 32, bits e 32 32, bits e 64 32, toSigned 64 (bits e 96 64)⟩

/-- The passes of a sequence: first token and tokens of each (R376). -/
def atPasses (g : Nat) (q : AtSeq) : List (Nat × Nat) := spans (128 / g) 0 q.qlen

/-- Position of token t (R376). -/
def AtSeq.pos (q : AtSeq) (t : Nat) : Int := (q.kv : Int) - q.qlen + t

/-! ### Masks and visibility (R379 to R381) -/

/-- Whether the mask admits key p to a token at a position (R379). -/
def maskAdmits (mode span p : Nat) (q : Int) : Bool :=
  match mode with
  | 0 => true
  | 1 => decide ((p : Int) ≤ q)
  | 2 => decide ((p : Int) / span ≤ q / span)
  | _ => decide (q - span < p ∧ (p : Int) ≤ q)

/-- Key blocks of a sequence (R380). -/
def AtSeq.blocks (q : AtSeq) : Nat := (q.kv + 127) / 128

/-- The key blocks that a pass visits (R381): `vmap` is its row of the visibility map. -/
def atVisited (w : Nat) (q : AtSeq) (vmap : Option Nat) (t0 n : Nat) : List Nat :=
  (below q.blocks).filter (fun kb =>
    (match vmap with
     | none => true
     | some m => bit m kb) &&
    (upFrom (128 * kb) 128).any (fun p => decide (p < q.kv) &&
      (upFrom t0 n).any (fun t => maskAdmits (atMask w) (atSpan w) p (q.pos t))))

/-! ### Operands (R377, R378, R458) -/

/-- Indices of key p, element e (R377). -/
def atKeyIx (e p : Nat) : List Nat := [e, p % 16, 0, p / 16]

/-- Offset of element e of key p, or of its value (R377, R458). -/
def atKeyOff (wv : Weave) (w : Nat) (q : AtSeq) (value : Bool) (p e : Nat) : Option Int :=
  let b := dOpnd w 1
  let g := agenOf wv b (dK w) (dN w)
  if q.kv ≤ p then none
  else if b.packed then
    g.packed (atKeyIx e p) (p / 128 * 256 * dK w + p % 128 * dK w + e + (if value then 128 * dK w else 0))
  else (g.offset (atKeyIx e p) []).map (fun o =>
    o + (if value then atVOff w else 0) + q.base / ((fmtBits (dFmtB w) / 8 : Nat) : Int))

/-- Where the keys of a sequence lie; the whole elements of a plain base are in the offsets (R375). -/
def atKeyPlace (wv : Weave) (stake w : Nat) (q : AtSeq) : Place :=
  let b := dOpnd w 1
  { placeOf wv stake 0 b with
    base := if b.packed then q.base.toNat else (q.base % ((fmtBits (dFmtB w) / 8 : Nat) : Int)).toNat }

/-- A key of a visited block: its position, its elements and its value's elements. -/
structure AtKey where
  p : Nat
  k : List (Option Num)
  v : List (Option Num)
  deriving DecidableEq, Repr

/-- Whether a key is in bounds: whether any of its elements is. -/
def AtKey.inb (x : AtKey) : Bool := x.k.any Option.isSome

/-- Read the keys and values of a visited block. -/
def State.atBlock (s : State) (wv : Weave) (stake w : Nat) (q : AtSeq) (kb : Nat) : Got (List AtKey) :=
  let b := dOpnd w 1
  let pl := atKeyPlace wv stake w q
  let ps := upFrom (128 * kb) 128
  let es := fun (value : Bool) => ps.flatMap (fun p => (below (dK w)).map (fun e => (atKeyOff wv w q value p e, 0)))
  if b.packed ∧ q.base < 0 then (s, .error (if b.space = 1 then outside q.base else badItem))
  else Got.next (State.opRows stake (dFmtB w) pl b s PackRd.empty [es false, es true]) (fun s l =>
    let row := fun (k : Nat) => pieces (dK w) ((l.2[k]?).getD [])
    (s, .ok ((ps.zip ((row 0).zip (row 1))).map (fun x => ⟨x.1, x.2.1, x.2.2⟩))))

/-- Offsets of a token's row through operand A or C (R377). -/
def atRowOff (wv : Weave) (w k : Nat) (q : AtSeq) (t g : Nat) : List (Option Int) :=
  let a := agenOf wv (dOpnd w k) (dK w) (dM w)
  (below (dK w)).map (fun d => a.offset [d, q.start + t, g, 0] [])

/-- First byte of the range of the Tray through which keys are staged (R378). -/
abbrev atStage : Nat := 1441792

/-- The statistics area of an ATTN (R385). -/
def atStats (wv : Weave) (stake remote w : Nat) : Place :=
  let c := dOpnd w 2
  let pl := placeOf wv stake remote c
  { pl with base := if c.space = 1 then c.addr + c.scale else c.scale }

/-- Byte of a row's statistics in their area (R385). -/
def atStatOff (w : Nat) (q : AtSeq) (t g : Nat) : Nat := 8 * ((q.start + t) * d4 w + g)

/-- Whether bytes of a place lie in the staging range of a Stake's Tray. -/
def stageHit (stake : Nat) (pl : Place) (o : Int) (n : Nat) : Bool :=
  pl.space == 0 && pl.stake == stake &&
    decide ((atStage : Int) < pl.base + o + n ∧ (pl.base : Int) + o < (trayBytes : Int))

/-- Whether operand A or C, the statistics area that C names included, names bytes of the staging range of the Stake's
Tray for a sequence (R378, R385).  The second sentence of R378 does not ask where operand B lies (log entry 48). -/
def atStaged (wv : Weave) (stake remote w : Nat) (q : AtSeq) : Bool :=
  let rows := (below q.qlen).flatMap (fun t => (below (d4 w)).map (fun g => (t, g)))
  let hit := fun (k f : Nat) (r : Nat × Nat) =>
    (atRowOff wv w k q r.1 r.2).any (fun o => match o with
      | none => false
      | some e => stageHit stake (placeOf wv stake remote (dOpnd w k)) (e * (fmtBits f / 8 : Nat)) (fmtBits f / 8))
  rows.any (fun r => hit 0 (dFmtA w) r || hit 2 (dFmtOut w) r || (bit w 772 &&
    (atRowOff wv w 2 q r.1 r.2).any Option.isSome &&
    stageHit stake (atStats wv stake remote w) (atStatOff w q r.1 r.2 : Nat) 8))

/-! ### Tiles and bytes set as a whole -/

/-- A sparse map with the keys from a base on replaced by values, none listed that is the default. -/
def smSpan {α : Type} [DecidableEq α] (d : α) (m : SMap α) (base : Nat) (l : List α) : SMap α :=
  smFilter (fun k => decide (k < base)) m ++
    ((upFrom base l.length).zip l).filter (fun e => e.2 != d) ++
    smFilter (fun k => decide (base + l.length ≤ k)) m

/-- Set an accumulator tile from a function of row and column. -/
def State.putTile (s : State) (st t : Nat) (f : Nat → Nat → Nat) : State :=
  { s with accs := smSpan 0 s.accs ((st * 4 + t) * 16384) ((below 16384).map (fun k => f (k / 128) (k % 128) % 2 ^ 32)) }

/-- n free values. -/
def State.freshN (s : State) (n : Nat) : List Nat × State :=
  ((upFrom s.free n).map (fun k => (Config.freeValue k).toNat), { s with free := s.free + n })

/-- Give an accumulator tile free values. -/
def State.freeTile (s : State) (st t : Nat) : State :=
  let f := s.freshN 16384
  { f.2 with accs := smSpan 0 f.2.accs ((st * 4 + t) * 16384) (f.1.map (fun x => x % 2 ^ 32)) }

/-- Staging leaves the staging range of a Tray with unspecified bytes (R378). -/
def State.freeStage (s : State) (st : Nat) : State :=
  let f := s.freshN (trayBytes - atStage)
  { f.2 with trays := smSpan 0 f.2.trays (st * 2097152 + atStage) (f.1.map (BitVec.ofNat 8)) }

/-! ### The online update (R382 to R384) -/

/-- A row of a pass: its token and group head, its query, m, l and O. -/
structure AtRow where
  t : Nat
  g : Nat
  q : List (Option Num)
  m : Nat
  l : Nat
  o : List Nat
  deriving DecidableEq, Repr

/-- Scores of a row against a block: −∞ for a key that is not visible or not in bounds (R382). -/
def atScores (w : Nat) (q : AtSeq) (r : AtRow) (ks : List AtKey) : List Nat :=
  ks.map (fun x =>
    if x.inb && maskAdmits (atMask w) (atSpan w) x.p (q.pos r.t) then
      fmul (accFloat 0 (productGroups r.q x.k)) (atScale w)
    else negInf)

/-- The rescaling step: m rises to mn, and l and O are multiplied by α (R382). -/
def AtRow.rise (r : AtRow) (mb : Nat) : AtRow :=
  let mn := fmax r.m mb
  if (f32 mn).eqv (f32 r.m) then r
  else
    let a := exp2Path (fmul (fsub r.m mn) 0x3FB8AA3B)
    { r with m := mn, l := fmul a r.l, o := r.o.map (fun x => fmul a x) }

/-- One visited block for one row (R382, R383). -/
def atUpdate (w : Nat) (q : AtSeq) (ks : List AtKey) (r : AtRow) : AtRow :=
  let sc := atScores w q r ks
  let mb := sc.foldl fmax negInf
  if mb = negInf then r
  else
    let r := r.rise mb
    let pf := atPFmt (dFmtB w)
    let ws := sc.map (fun x => elemNum pf (elemConv pf .even (f32 (exp2Path (fmul (fsub x r.m) 0x3FB8AA3B)))))
    let live := ks.map (fun x => x.inb && maskAdmits (atMask w) (atSpan w) x.p (q.pos r.t))
    let l := fadd r.l (treeOf fadd 7 (ws.map toF32))
    let o := (r.o.zip (below r.o.length)).map (fun x =>
      accFloat x.1 (productGroups ((ws.zip live).map (fun y => if y.2 then some y.1 else none))
        (ks.map (fun k => ((k.v[x.2]?).getD none)))))
    { r with l := l, o := o }

/-- What a row gives at the end of its pass (R384). -/
def AtRow.out (r : AtRow) : List Nat := r.o.map (fun x => if r.m = negInf then 0 else fdiv x r.l)

/-- The visited blocks of a pass in turn. -/
def State.atBlocks (s : State) (wv : Weave) (stake w : Nat) (q : AtSeq) : List Nat → List AtRow → Got (List AtRow)
  | [], rs => (s, .ok rs)
  | kb :: kbs, rs => Got.next (s.atBlock wv stake w q kb) (fun s ks =>
      s.atBlocks wv stake w q kbs (rs.map (atUpdate w q ks)))

/-- Write m and l of the rows of a pass that are in bounds of operand C (R385). -/
def State.atWriteStats (s : State) (wv : Weave) (stake remote w : Nat) (q : AtSeq) (rs : List AtRow) : Got Unit :=
  Got.next (s.each (fun s (r : AtRow) =>
    s.placeWrite (atStats wv stake remote w) (atStatOff w q r.t r.g : Nat)
      (natLe 4 r.m ++ natLe 4 r.l))
    (rs.filter (fun r => (atRowOff wv w 2 q r.t r.g).any Option.isSome))) (fun s _ => (s, .ok ()))

/-- What a pass writes: its statistics, and its output (R384, R385). -/
def State.atFinish (s : State) (wv : Weave) (stake remote : Nat) (d : DescRun) (q : AtSeq) (rows : List AtRow) : Got Unit :=
  let w := d.words
  Got.next (if bit w 772 then s.atWriteStats wv stake remote w q rows else (s, .ok ())) (fun s _ =>
    s.output wv stake remote d false (dK w) (dM w) (rows.flatMap (fun r =>
      (r.out.zip (below (dK w))).map (fun x =>
        ⟨(q.start + r.t) * d4 w + r.g, x.2, [x.2, q.start + r.t, r.g, 0], x.1⟩))))

/-- The tiles of the scores, even blocks in acc0 and odd ones in acc2, hold what the spec does not state once blocks have
used them (R373). -/
def State.freeScores (s : State) (stake : Nat) (kbs : List Nat) : State :=
  let s := if kbs.any (fun k => k % 2 == 0) then s.freeTile stake 0 else s
  if kbs.any (fun k => k % 2 == 1) then s.freeTile stake 2 else s

/-- One pass up to what it writes: its row of the map, its queries, its visited blocks and its state (R373, R376 to
R384).  `rho` is the first bit of its row of the map. -/
def State.atPass (s : State) (wv : Weave) (stake : Nat) (d : DescRun) (q : AtSeq) (rho t0 n : Nat) : Got (List AtRow) :=
  let w := d.words
  let nb := (q.blocks + 7) / 8
  let a := dOpnd w 0
  Got.next (if bit w 771 ∧ q.blocks ≠ 0 then
      Got.next (s.placeRead ⟨1, stake, stakeRq wv stake, atVis w⟩ (rho / 8 : Nat) nb) (fun s bs => (s, .ok (some (leNat bs))))
    else (s, .ok none)) (fun s vmap =>
  Got.next (State.opRows stake (dFmtA w) (placeOf wv stake 0 a) a s PackRd.empty ((below (n * d4 w)).map (fun k =>
      (atRowOff wv w 0 q (t0 + k / d4 w) (k % d4 w)).map (fun e => (e, 0))))) (fun s l =>
  let rows := (l.2.zip (below (n * d4 w))).map (fun x =>
    (⟨t0 + x.2 / d4 w, x.2 % d4 w, x.1, negInf, 0, (below (dK w)).map (fun _ => 0)⟩ : AtRow))
  let kbs := atVisited w q vmap t0 n
  let s := if kbs.isEmpty ∨ (dOpnd w 1).space = 0 then s else s.freeStage stake
  Got.next (s.atBlocks wv stake w q kbs rows) (fun s rows =>
    let row := fun k => rows[k]?
    let s := (s.freeScores stake kbs).putTile stake 1 (fun i j => ((row i).bind (fun r => r.o[j]?)).getD 0)
    let s := s.putTile stake 3 (fun i j =>
      if j = 0 then ((row i).map AtRow.m).getD negInf else if j = 1 then ((row i).map AtRow.l).getD 0 else 0)
    (s, .ok rows))))

/-- A pass whose results wait: of which sequence, and its rows. -/
abbrev AtHeld := AtSeq × List AtRow

/-- Bits of the visibility map that a pass of a sequence takes (R380). -/
def AtSeq.mapBits (q : AtSeq) : Nat := 64 * ((q.blocks + 63) / 64)

/-- The passes of a sequence; answers the first bit of the next pass's row of the map.  With a packed operand B the
results of a pass wait for the CRC of the last block (R457); otherwise a pass writes as it ends. -/
def State.atSeq (s : State) (wv : Weave) (stake remote : Nat) (d : DescRun) (q : AtSeq) :
    List (Nat × Nat) → Nat × List AtHeld → Got (Nat × List AtHeld)
  | [], x => (s, .ok x)
  | (t0, n) :: ps, x => Got.next (s.atPass wv stake d q x.1 t0 n) (fun s rows =>
      Got.next (if (dOpnd d.words 1).packed then (s, .ok ()) else s.atFinish wv stake remote d q rows) (fun s _ =>
        s.atSeq wv stake remote d q ps
          (x.1 + q.mapBits, if (dOpnd d.words 1).packed then x.2 ++ [(q, rows)] else x.2)))

/-- A sequence: the check of R378, then its passes. -/
def State.atSequence (s : State) (wv : Weave) (stake remote : Nat) (d : DescRun) (q : AtSeq) (x : Nat × List AtHeld) :
    Got (Nat × List AtHeld) :=
  if atStaged wv stake remote d.words q then (s, .error badItem)
  else s.atSeq wv stake remote d q (atPasses (d4 d.words) q) x

/-- The length-table entries in order, each read once as it is reached (R389, R391, R402). -/
def State.atEntryLoop (s : State) (wv : Weave) (stake remote : Nat) (d : DescRun) :
    List Nat → Nat × List AtHeld → Got (Nat × List AtHeld)
  | [], x => (s, .ok x)
  | i :: is, x =>
    Got.next (s.placeRead ⟨1, stake, stakeRq wv stake, atLt d.words⟩ (32 * i : Nat) 32) (fun s bs =>
      let e := leNat bs
      if ltBad e then (s, .error badItem)
      else if ltStatus e ≠ stOk then s.atEntryLoop wv stake remote d is x
      else Got.next (s.atSequence wv stake remote d (ltSeq e) x) (fun s x =>
        s.atEntryLoop wv stake remote d is x))

/-- The work of an ATTN (R373, R375, R382): the tiles are zeroed, the sequences run, and the results that waited are
written. -/
def State.attn (s : State) (wv : Weave) (stake : Nat) (d : DescRun) : Got Unit :=
  let w := d.words
  if attnMalformed wv w then (s, .error badItem)
  else
    let r := s.vecRemote wv w
    let s := (below 4).foldl (fun s t => (s.putTile stake t (fun _ _ => 0)).clearSat stake t) r.2
    guardTiles stake w (Got.next
      (if bit w 773 then s.atEntryLoop wv stake r.1 d (below (atEntries w)) (0, [])
       else s.atSequence wv stake r.1 d ⟨0, dM w, dN w, (placeOf wv stake 0 (dOpnd w 1)).base⟩ (0, [])) (fun s x =>
        Got.next (s.each (fun s (h : AtHeld) => s.atFinish wv stake r.1 d h.1 h.2) x.2) (fun s _ => (s, .ok ()))))

/-- ATTN: attention for one key-value head over one or more sequences (R371 to R391). -/
def execAttn (stake idx : Nat) (s : State) : Host.Outcome State Fault Refusal :=
  .next (s.runWork stake idx 0x05 (fun wv d => s.attn wv stake d))

end Sys2Proof.Machine
end

