-- ==== Sys2Proof/Machine/Psel.lean ====
section
/-!
DEFINITION. The key-value cache: the batch table, the steps of the page selector, writing keys and
values, and the selection of key blocks (R392 to R423).
-/

namespace Sys2Proof.Machine

/-! ### The batch table (R392, R393, R399, R400) -/

/-- seq_count of a header. -/
def bhCount (h : Nat) : Nat := bits h 32 16
/-- step_open. -/
def bhOpen (h : Nat) : Bool := bit h 48
/-- Layers. -/
def bhLayers (h : Nat) : Nat := bits h 64 10 + 1
/-- H, key-value heads. -/
def bhHeads (h : Nat) : Nat := bits h 74 7 + 1
/-- d, the head dimension. -/
def bhDim (h : Nat) : Nat := bits h 81 7 + 1
/-- Format of keys and values. -/
def bhFmt (h : Nat) : Nat := bits h 88 8
/-- summary_en. -/
def bhSummary (h : Nat) : Bool := bit h 96
/-- pool. -/
def bhPool (h : Nat) : Nat := bits h 112 16
/-- layer_stride. -/
def bhStride (h : Nat) : Nat := bits h 128 48
/-- lt_addr. -/
def bhLt (h : Nat) : Nat := bits h 176 48
/-- b, bytes of an element. -/
def bhBytes (h : Nat) : Nat := fmtBits (bhFmt h) / 8
/-- P, bytes of a page (R392). -/
def bhPage (h : Nat) : Nat := 32 * bhHeads h * bhDim h * bhBytes h

/-- Whether a header is wrong for a descriptor (R393, R404). -/
def State.headerBad (s : State) (h : Nat) : Bool :=
  clearFields h [(0, 32), (32, 16), (48, 1), (64, 10), (74, 7), (81, 7), (88, 8), (96, 1), (112, 16), (128, 48),
    (176, 48), (256, 64), (320, 16), (336, 16), (352, 16), (368, 16), (384, 16), (400, 16), (416, 32), (448, 32)] != 0 ||
  bits h 0 32 != 0x4B564254 || bhCount h == 0 || decide (bhFmt h = 0 ∨ 4 < bhFmt h) || decide (1023 < bhPool h) ||
  bhLt h % 32 != 0 || decide (bhPage h < 4096 ∨ 2097152 < bhPage h) || bhPage h != s.poolF (bhPool h)

/-- request. -/
def beReq (e : Nat) : Nat := bits e 0 2
/-- ring. -/
def beRing (e : Nat) : Bool := bit e 2
/-- new_tokens. -/
def beNew (e : Nat) : Nat := bits e 16 32
/-- va_base. -/
def beVa (e : Nat) : Nat := bits e 64 48
/-- max_pages. -/
def beMax (e : Nat) : Nat := bits e 128 32
/-- sum_base. -/
def beSum (e : Nat) : Nat := bits e 192 48
/-- active. -/
def beActive (e : Nat) : Bool := bit e 256
/-- parked. -/
def beParked (e : Nat) : Bool := bit e 257
/-- kv_len. -/
def beLen (e : Nat) : Nat := bits e 320 32
/-- pages. -/
def bePages (e : Nat) : Nat := bits e 352 32

/-- Whether an entry has a reserved bit set, so that it is not acted on (R8). -/
def beReserved (e : Nat) : Bool :=
  clearFields e [(0, 2), (2, 1), (16, 32), (64, 48), (128, 32), (192, 48), (256, 1), (257, 1), (272, 16), (320, 32),
    (352, 32)] != 0

/-- Whether an entry is valid (R409). -/
def beValid (h e : Nat) : Bool :=
  !(beReq e == 3) && !(beReq e == 1 && (beActive e || beNew e == 0)) && beVa e % bhPage h == 0 &&
  !(bhSummary h && beSum e % 64 != 0) && beMax e != 0 &&
  decide ((if beRing e then (beLen e % 16 + beNew e + 15) / 16 else (beLen e + beNew e + 15) / 16) ≤ beMax e)

/-- Virtual address of page j of a layer, or of the slot that holds it (R394, R395). -/
def pageVa (h e layer j : Nat) : Nat :=
  beVa e + layer * bhStride h + (if beRing e then j % beMax e else j) * bhPage h

/-- kv_base for a length (R396). -/
def kvBase (h e len : Nat) : Nat :=
  if beRing e then
    let jmin := (len + 15) / 16 - beMax e
    ofSigned 64 ((beVa e : Int) + ((jmin % beMax e : Nat) - (jmin : Int)) * (bhPage h : Int))
  else beVa e

/-! ### The descriptor (R403 to R405) -/

/-- kind. -/
def psKind (w : Nat) : Nat := bits w 768 2
/-- layer. -/
def psLayer (w : Nat) : Nat := bits w 770 10
/-- head. -/
def psHead (w : Nat) : Nat := bits w 780 7
/-- Virtual address of the batch table. -/
def psTable (w : Nat) : Nat := bits w 800 42 * 64
/-- top_k. -/
def psTop (w : Nat) : Nat := bits w 848 16
/-- keep_first. -/
def psFirst (w : Nat) : Nat := bits w 864 16
/-- keep_recent. -/
def psRecent (w : Nat) : Nat := bits w 880 16

/-- Whether a PSEL's fields, in themselves, are malformed (R403, R404, R458). -/
def pselMalformed (w : Nat) : Bool :=
  let a := dOpnd w 0
  let c := dOpnd w 2
  let dims := dM w + dN w + dK w + d4 w
  paramsBad w [(768, 2), (770, 10), (780, 7), (800, 42), (848, 16), (864, 16), (880, 16)] ||
  dAccFirst w + dAccCount w + dPreload w + dFmtB w + dFmtOut w != 0 || dEpilogue w ||
  (if psKind w ≤ 1 then
    dims + dFmtA w + psLayer w + psHead w + psTop w + psFirst w + psRecent w != 0 || a.used || (dOpnd w 1).used || c.used
  else if psKind w = 2 then
    !(a.used && decide (a.space ≤ 1)) || a.packed || a.agen != 0 || scaleBad (dFmtA w) a || (dOpnd w 1).used ||
    c.used || dims != 0
  else
    decide (d4 w = 0 ∨ 128 < d4 w ∨ dFmtA w = 0 ∨ 4 < dFmtA w) || !(a.used) || a.space == 2 || a.packed ||
    scaleBad (dFmtA w) a || !(c.used && c.space == 1) || c.packed || c.addr % 128 != 0 || (dOpnd w 1).used ||
    psTop w == 0)

/-- Whether a PSEL is malformed for its batch table (R404, R405). -/
def State.pselBad (s : State) (w h : Nat) : Bool :=
  s.headerBad h || (psKind w == 0) == bhOpen h ||
  (psKind w == 2 && decide (bhLayers h ≤ psLayer w)) ||
  (psKind w == 3 && (dK w != bhDim h || !(bhSummary h) || decide (bhHeads h ≤ psHead w)))

/-- The memory of a weave's context as a place, for the page selector of a Stake's Coil. -/
def kvPlace (wv : Weave) (stake : Nat) : Place := ⟨1, stake, stakeRq wv stake, 0⟩

/-- Read n bytes of memory as a number. -/
def State.kvNum (s : State) (p : Place) (va n : Nat) : Got Nat :=
  Got.next (s.placeRead p (va : Int) n) (fun s bs => (s, .ok (leNat bs)))

/-- Write a number of n bytes to memory. -/
def State.kvPut (s : State) (p : Place) (va n v : Nat) : Got Unit := s.placeWrite p (va : Int) (natLe n v)

/-- Run the work of a PSEL of some kind: its fields and its table's header are checked, its entries read,
and the completion counted (R403 to R406, R423). -/
def State.runPsel (s : State) (stake idx kind : Nat)
    (work : State → Weave → DescRun → Nat → List Nat → Got Unit) : State :=
  s.runWork stake idx 0x0F (fun wv d =>
    let w := d.words
    let p := kvPlace wv stake
    if psKind w ≠ kind then (s, .error ⟨stWaits, 0, 0⟩)
    else if pselMalformed w then (s, .error badItem)
    else Got.next (s.kvNum p (psTable w) 64) (fun s h =>
      if s.pselBad w h then (s, .error badItem)
      else Got.next (s.each (fun s i => s.kvNum p (psTable w + 64 + 64 * i) 64) (below (bhCount h))) (fun s es =>
        Got.next (work s wv d h es) (fun s _ => (s.radd R.poolPselReqsCount (stake / 96) 1, .ok ())))))

/-! ### STEP_BEGIN (R407 to R413) -/

/-- An entry in a step: its index, its 512 bits, q_start, q_len, status, and the frames mapped for it. -/
structure KvEnt where
  i : Nat
  e : Nat
  q : Nat
  n : Nat
  st : Nat
  frames : Nat
  deriving DecidableEq, Repr

/-- Status and q_len of an entry (R8, R408, R409). -/
def kvStatus (h e : Nat) : Nat × Nat :=
  if beReserved e then (stKvLength, 0)
  else if beReq e = 2 then (stOk, 0)
  else if beActive e ∧ beParked e then (stKvParked, 0)
  else if ¬ beValid h e then (stKvLength, 0)
  else if beActive e ∨ beReq e = 1 then (stOk, beNew e)
  else (stOk, 0)

/-- The layout of the step (R408). -/
def kvLayout (h : Nat) : Nat → Nat → List Nat → List KvEnt
  | _, _, [] => []
  | i, q, e :: es =>
    let x := kvStatus h e
    ⟨i, e, q, x.2, x.1, 0⟩ :: kvLayout h (i + 1) (q + x.2) es

/-- Map a popped frame of a page (R394, R395): a ring's slot is mapped twice. -/
def State.kvMap (s : State) (ctx h e layer j i : Nat) : State :=
  let p := bhPool h
  let va := pageVa h e layer j
  let s := s.mapFrame ctx p i va false false
  if ¬ beRing e then s
  else
    let va2 := va + beMax e * bhPage h
    let base := s.frameAddr p i
    let log := s.poolLog p
    let s := s.putLeaves ctx va2 log (fun o _ => leafEntry (base + o) (decide (16 ≤ log ∧ log < 21)) false)
    let s := s.invalidate false ctx va2 (2 ^ log)
    s.setFrec p i (putBits (s.frec p i) 128 48 va2)

/-- Append to an entry whose length and pages are taken as given: pop every frame it needs, then map them,
or push them back (R410, R411).  Answers whether it obtained them. -/
def State.kvAppend (s : State) (ctx h : Nat) (x : KvEnt) (len pages : Nat) : State × KvEnt × Bool :=
  let L := bhLayers h
  let t := (len + x.n + 15) / 16
  let want := if beRing x.e then min t (beMax x.e) else t
  match s.popMany ctx (bhPool h) 0 ((want - pages) * L) [] with
  | (s, .error _) => (s, x, false)
  | (s, .ok (l, full)) =>
    if ¬ full then (l.foldl (fun s i => s.pushFree (bhPool h) i) s, x, false)
    else
      let s := (l.reverse.zip (below l.length)).foldl (fun s y =>
        s.kvMap ctx h x.e (y.2 % L) (pages + y.2 / L) y.1) s
      (s, { x with e := putBits (putBits x.e 320 32 (len + x.n)) 352 32 want, frames := l.length }, true)

/-- Serve an active entry (R410, R411). -/
def State.kvServe (s : State) (ctx h : Nat) (x : KvEnt) : State × KvEnt :=
  if beActive x.e ∧ ¬ beParked x.e ∧ beReq x.e = 0 ∧ x.st = stOk then
    let r := s.kvAppend ctx h x (beLen x.e) (bePages x.e)
    (r.1, if r.2.2 then r.2.1 else { x with e := putBits x.e 257 1 1, st := stKvNoPage })
  else (s, x)

/-- Serve a join (R412). -/
def State.kvJoin (s : State) (ctx h : Nat) (x : KvEnt) : State × KvEnt :=
  if ¬ beActive x.e ∧ beReq x.e = 1 ∧ x.st = stOk then
    let r := s.kvAppend ctx h x 0 0
    (r.1, if r.2.2 then { r.2.1 with e := putBits (putBits r.2.1.e 256 1 1) 0 2 0 }
      else { x with st := stKvAdmitDeferred })
  else (s, x)

/-- Serve entries in ascending index. -/
def kvEach (f : State → KvEnt → State × KvEnt) : State → List KvEnt → State × List KvEnt
  | s, [] => (s, [])
  | s, x :: xs =>
    let a := f s x
    let r := kvEach f a.1 xs
    (r.1, a.2 :: r.2)

/-- A length-table entry (R401, R408); its kv_len counts the added tokens when status is OK. -/
def ltEntry (h : Nat) (x : KvEnt) : Nat :=
  x.q % 2 ^ 32 + x.n * 2 ^ 32 + beLen x.e * 2 ^ 64 + kvBase h x.e (beLen x.e) * 2 ^ 96 + x.st * 2 ^ 160 + x.i * 2 ^ 176

/-- Write fields of a number. -/
def putAll (n : Nat) (l : List (Nat × Nat × Nat)) : Nat := l.foldl (fun n f => putBits n f.1 f.2.1 f.2.2) n

/-- Write the entries and the header of a batch table. -/
def State.kvStore (s : State) (p : Place) (tab h : Nat) (es : List (Nat × Nat)) : Got Unit :=
  Got.next (s.each (fun s (x : Nat × Nat) => s.kvPut p (tab + 64 + 64 * x.1) 64 x.2) es) (fun s _ => s.kvPut p tab 64 h)

/-- The work of a STEP_BEGIN (R407 to R413). -/
def State.stepBegin (s : State) (wv : Weave) (stake : Nat) (d : DescRun) (h : Nat) (es : List Nat) : Got Unit :=
  let p := kvPlace wv stake
  let c := stake / 96
  let a := kvEach (fun s x => s.kvServe wv.ctx h x) s (kvLayout h 0 0 es)
  let b := kvEach (fun s x => s.kvJoin wv.ctx h x) a.1 a.2
  let xs := b.2
  let count := fun (st : Nat) => (xs.filter (fun x => x.st == st)).length
  let served := (a.2.filter (fun x => beActive x.e && beReq x.e == 0 && x.st == stOk)).length
  let joined := (xs.filter (fun x => beActive x.e && x.st == stOk && (a.2.any (fun y => y.i == x.i && beReq y.e == 1)))).length
  let frames := (xs.map KvEnt.frames).sum
  let s := ((b.1.radd R.poolPselFramesCount c frames).radd R.poolPselNoPageCount c (count stKvNoPage)).radd
    R.poolPselDeferredCount c (count stKvAdmitDeferred)
  let h := putAll h [(48, 1, 1), (320, 16, served), (336, 16, joined), (352, 16, count stKvNoPage),
    (368, 16, count stKvAdmitDeferred), (384, 16, count stKvParked), (416, 32, frames)]
  Got.next (s.each (fun s (x : KvEnt) => s.kvPut p (bhLt h + 32 * x.i) 32 (ltEntry h x)) xs) (fun s _ =>
    s.kvStore p (psTable d.words) h (xs.map (fun x => (x.i, putBits x.e 272 16 x.st))))

/-- STEP_BEGIN: lays out a step, appends pages, admits joins and writes the length table (R408). -/
def execStepBegin (stake idx : Nat) (s : State) : Host.Outcome State Fault Refusal :=
  .next (s.runPsel stake idx 0 (fun s wv d h es => s.stepBegin wv stake d h es))

/-! ### STEP_END (R415) -/

/-- The pool frame mapped at an address of a context. -/
def State.frameAtVa (s : State) (ctx p va : Nat) : Option Nat :=
  match s.leafAt ctx va with
  | some (level, _, e) => if bit e 0 ∧ ¬ pteMalformed level va e then s.frameIn p (bits e 12 36 * 4096) else none
  | none => none

/-- Release the pages of a leaving entry by layer and page; answers the frames freed (R415). -/
def State.kvRelease (s : State) (ctx h e : Nat) : State × Nat :=
  (below (bhLayers h * bePages e)).foldl (fun (r : State × Nat) k =>
    match r.1.frameAtVa ctx (bhPool h) (pageVa h e (k / bePages e) (k % bePages e)) with
    | some i => (r.1.unmapFrame (bhPool h) i, r.2 + 1)
    | none => r) (s, 0)

/-- Serve a leaving entry (R415). -/
def State.kvLeave (s : State) (ctx h : Nat) (x : KvEnt) : State × KvEnt :=
  if beReq x.e ≠ 2 ∨ beReserved x.e then (s, x)
  else if ¬ beActive x.e then (s, { x with e := putBits x.e 0 2 0 })
  else
    let r := s.kvRelease ctx h x.e
    let e := putAll x.e [(0, 2, 0), (256, 2, 0), (272, 16, stOk), (320, 32, 0), (352, 32, 0)]
    (r.1, ⟨x.i, e, x.q, x.n, 1, r.2⟩)

/-- The work of a STEP_END (R415). -/
def State.stepEnd (s : State) (wv : Weave) (stake : Nat) (d : DescRun) (h : Nat) (es : List Nat) : Got Unit :=
  let a := kvEach (fun s x => s.kvLeave wv.ctx h x) s
    ((es.zip (below es.length)).map (fun x => (⟨x.2, x.1, 0, 0, 0, 0⟩ : KvEnt)))
  let h := putAll h [(48, 1, 0), (256, 64, bits h 256 64 + 1), (400, 16, (a.2.filter (fun x => x.st == 1)).length),
    (448, 32, (a.2.map KvEnt.frames).sum)]
  a.1.kvStore (kvPlace wv stake) (psTable d.words) h (a.2.map (fun x => (x.i, x.e)))

/-- STEP_END: releases leaving sequences and closes the step (R415). -/
def execStepEnd (stake idx : Nat) (s : State) : Host.Outcome State Fault Refusal :=
  .next (s.runPsel stake idx 1 (fun s wv d h es => s.stepEnd wv stake d h es))

/-! ### WRITE (R417, R418) -/

/-- Read the length table: each entry with its batch-table entry. -/
def State.readLt (s : State) (p : Place) (h : Nat) (es : List Nat) : Got (List (Nat × Nat)) :=
  Got.next (s.each (fun s i => Got.next (s.kvNum p (bhLt h + 32 * i) 32) (fun s l =>
    if ltBad l then (s, .error badItem) else (s, .ok l))) (below es.length)) (fun s ls => (s, .ok (ls.zip es)))

/-- Virtual address of the summary of page j of a layer (R418). -/
def sumVa (h e layer j : Nat) : Nat :=
  beSum e + layer * (bhStride h / 16) + (if beRing e then j % beMax e else j) * (bhPage h / 16)

/-- Combine elements of a format by VMIN or VMAX (R276, R418). -/
def sumElem (f : Nat) (top : Bool) (a b : Nat) : Nat :=
  let x := elemNum f a
  let y := elemNum f b
  elemConv f .even (if top then x.max2 y else x.min2 y)

/-- Keep a page's summary for the key of a head written to a slot (R418). -/
def State.putSummary (s : State) (p : Place) (h e layer head slot j : Nat) (key : List Byte) : Got Unit :=
  let n := bhDim h * bhBytes h
  let b := bhBytes h
  let at_ := fun (top : Bool) => sumVa h e layer j + (if top then bhHeads h + head else head) * n
  let put := fun (s : State) (top : Bool) =>
    if slot = 0 then s.placeWrite p (at_ top : Nat) key
    else Got.next (s.placeRead p (at_ top : Nat) n) (fun s old =>
      s.placeWrite p (at_ top : Nat) (((pieces b old).zip (pieces b key)).flatMap (fun x =>
        natLe b (sumElem (bhFmt h) top (leNat x.1) (leNat x.2)))))
  Got.next (put s false) (fun s _ => put s true)

/-- Write one token's row of a layer into its page (R392, R417). -/
def State.kvToken (s : State) (wv : Weave) (stake w h e row pos : Nat) : Got Unit :=
  let p := kvPlace wv stake
  let n := bhDim h * bhBytes h
  let H := bhHeads h
  let slot := pos % 16
  let j := pos / 16
  let page := pageVa h e (psLayer w) j
  Got.next (s.placeRead (placeOf wv stake 0 (dOpnd w 0)) (row * (bhPage h / 16) : Nat) (bhPage h / 16)) (fun s bs =>
    Got.next (s.each (fun s (k : Nat) =>
      let part := (bs.drop (k * n)).take n
      Got.next (s.placeWrite p (page + (k * 16 + slot) * n : Nat) part) (fun s _ =>
        if bhSummary h ∧ k < H then s.putSummary p h e (psLayer w) k slot j part else (s, .ok ()))) (below (2 * H)))
      (fun s _ => (s, .ok ())))

/-- The work of a WRITE (R417). -/
def State.pselWrite (s : State) (wv : Weave) (stake : Nat) (d : DescRun) (h : Nat) (es : List Nat) : Got Unit :=
  Got.next (s.readLt (kvPlace wv stake) h es) (fun s ls =>
    Got.next (s.each (fun s (x : Nat × Nat) =>
      let q := ltSeq x.1
      if ltStatus x.1 ≠ stOk then (s, .ok [])
      else s.each (fun s t => s.kvToken wv stake d.words h x.2 (q.start + t) (q.kv - q.qlen + t)) (below q.qlen)) ls)
      (fun s _ => (s, .ok ())))

/-- PSEL WRITE: copies the step's keys and values of a layer into the pages (R417). -/
def execPselWrite (stake idx : Nat) (s : State) : Host.Outcome State Fault Refusal :=
  .next (s.runPsel stake idx 2 (fun s wv d h es => s.pselWrite wv stake d h es))

/-! ### SELECT (R419, R420) -/

/-- The bound of a row against a page's summary (R419). -/
def pageBound (q mn mx : List Nat) : Nat :=
  let term := List.zipWith (fun x (m : Nat × Nat) => fmax (fmul x m.1) (fmul x m.2)) q (mn.zip mx)
  treeOf fadd 7 (term ++ (below (128 - term.length)).map (fun _ => 0))

/-- Read a page's summary of a head as FP32 words: minima and maxima. -/
def State.readSummary (s : State) (p : Place) (h e layer head j : Nat) : Got (List Nat × List Nat) :=
  let n := bhDim h * bhBytes h
  let words := fun (bs : List Byte) => (pieces (bhBytes h) bs).map (fun x => toF32 (elemNum (bhFmt h) (leNat x)))
  Got.next (s.placeRead p (sumVa h e layer j + head * n : Nat) n) (fun s mn =>
    Got.next (s.placeRead p (sumVa h e layer j + (bhHeads h + head) * n : Nat) n) (fun s mx =>
      (s, .ok (words mn, words mx))))

/-- Pages of key block kb that count for its bound (R419). -/
def boundPages (e kv kb : Nat) : List Nat :=
  let tot := (kv + 15) / 16
  (upFrom (8 * kb) 8).filter (fun j => decide (j < tot) && !(beRing e && decide (j < tot - beMax e)))

/-- The bound of a key block for the rows of a pass (R419). -/
def State.blockBound (s : State) (p : Place) (w h e kv : Nat) (rows : List (List Nat)) (kb : Nat) : Got Nat :=
  Got.next (s.each (fun s j => Got.next (s.readSummary p h e (psLayer w) (psHead w) j) (fun s m =>
    (s, .ok (rows.map (fun q => pageBound q m.1 m.2))))) (boundPages e kv kb)) (fun s l =>
      (s, .ok (l.flatten.foldl fmax negInf)))

/-- Whether bound a at block i ranks before bound b at block j (R420). -/
def ranksBefore (a b : Nat × Nat) : Bool :=
  let x := f32 a.2
  let y := f32 b.2
  if x.isNan ∨ y.isNan then (if x.isNan ∧ y.isNan then decide (a.1 < b.1) else x.isNan)
  else y.lt x || (!(x.lt y) && decide (a.1 < b.1))

/-- The key blocks that SELECT admits, from their bounds (R420). -/
def admitted (w : Nat) (bnd : List Nat) : List Nat :=
  let nk := bnd.length
  let l := (below nk).zip bnd
  let kept := fun (x : Nat × Nat) => decide (x.1 < psFirst w) || (decide (nk ≤ x.1 + psRecent w) && x.2 != negInf)
  let rest := l.filter (fun x => !(kept x) && x.2 != negInf)
  (l.filter (fun x => kept x || (x.2 != negInf &&
    decide ((rest.filter (fun y => ranksBefore y x)).length < psTop w)))).map Prod.fst

/-- A pass of a SELECT: its queries, its bounds and its row of the map (R419, R420). -/
def State.selectPass (s : State) (wv : Weave) (stake remote w h e : Nat) (q : AtSeq) (rho t0 n : Nat) : Got Unit :=
  let p := kvPlace wv stake
  let a := dOpnd w 0
  Got.next (s.each (fun s k =>
      Got.next (s.opWords stake (dFmtA w) (placeOf wv stake remote a) a (atRowOff wv w 0 q (t0 + k / d4 w) (k % d4 w)))
        (fun s l => (s, .ok (l.map (fun x => x.getD 0))))) (below (n * d4 w))) (fun s rows =>
    Got.next (s.each (fun s kb => s.blockBound p w h e q.kv rows kb) (below q.blocks)) (fun s bnd =>
      s.kvPut p ((dOpnd w 2).addr + rho / 8) (q.mapBits / 8) ((admitted w bnd).map (fun kb => 2 ^ kb)).sum))

/-- The passes of the sequences in turn (R419). -/
def State.selectLoop (s : State) (wv : Weave) (stake remote w h : Nat) :
    List (Nat × AtSeq × Nat × Nat) → Nat → Got Unit
  | [], _ => (s, .ok ())
  | (e, q, t0, n) :: l, rho => Got.next (s.selectPass wv stake remote w h e q rho t0 n) (fun s _ =>
      s.selectLoop wv stake remote w h l (rho + q.mapBits))

/-- The work of a SELECT (R419, R420). -/
def State.pselSelect (s : State) (wv : Weave) (stake : Nat) (d : DescRun) (h : Nat) (es : List Nat) : Got Unit :=
  let w := d.words
  let r := if (dOpnd w 0).space = 3 then s.anyRemote wv else (0, s)
  Got.next (r.2.readLt (kvPlace wv stake) h es) (fun s ls =>
    s.selectLoop wv stake r.1 w h ((ls.filter (fun x => ltStatus x.1 == stOk)).flatMap (fun x =>
      (atPasses (d4 w) (ltSeq x.1)).map (fun t => (x.2, ltSeq x.1, t.1, t.2)))) 0)

/-- PSEL SELECT: bounds the key blocks from the page summaries and writes the visibility map (R420). -/
def execPselSelect (stake idx : Nat) (s : State) : Host.Outcome State Fault Refusal :=
  .next (s.runPsel stake idx 3 (fun s wv d h es => s.pselSelect wv stake d h es))

/-! ### KV_UNPARK (R414) -/

/-- Read the entries of a batch table with some indices. -/
def State.readEntries (s : State) (c tab : Nat) : List Nat → Got (List (Nat × Nat))
  | [] => (s, .ok [])
  | i :: is =>
    let va := tab + 64 + 64 * i
    let rd := s.vread (s.frontRq c) va 64
    if rd.st ≠ 0 then (rd.s, .error ⟨rd.st, 0, va + rd.off⟩)
    else Got.next (rd.s.readEntries c tab is) (fun s l => (s, .ok ((i, leNat rd.bs) :: l)))

/-- Clear parked in entries until a status arises. -/
def State.unparkAll (s : State) (c tab : Nat) : List (Nat × Nat) → State × Done
  | [] => (s, Done.plain stOk)
  | (i, e) :: is =>
    let r := s.packetWrite c (tab + 64 + 64 * i + 32) (natLe 1 (putBits (bits e 256 8) 1 1 0))
    if r.2.status ≠ stOk then r else r.1.unparkAll c tab is

/-- The work of a KV_UNPARK (R414).  A table whose header is malformed, or one of whose named entries has a reserved bit
set, is not acted on (R8); the packet then ends as for an open table (log entry 50). -/
def State.kvUnpark (s : State) (c w : Nat) : State × Done :=
  let tab := bits w 256 48
  let rd := s.vread (s.frontRq c) tab 64
  let h := leNat rd.bs
  if rd.st ≠ 0 then (rd.s, ⟨rd.st, 0, tab + rd.off⟩)
  else if bhOpen h ∨ rd.s.headerBad h ∨ (¬ bit w 336 ∧ bhCount h ≤ bits w 320 16) then
    (rd.s, Done.plain stKvLength)
  else
    match rd.s.readEntries c tab (if bit w 336 then below (bhCount h) else [bits w 320 16]) with
    | (s, .error d) => (s, d)
    | (s, .ok l) => if l.any (fun x => beReserved x.2) then (s, Done.plain stKvLength) else s.unparkAll c tab l

/-- KV_UNPARK: clears parked in the named entry, or in every entry (R414). -/
def execKvUnpark (ctx ring slot : Nat) (s : State) : Host.Outcome State Fault Refusal :=
  .next (s.runPacket ctx ring slot 0x80 (fun p => s.kvUnpark ctx p.words))

end Sys2Proof.Machine
end

