-- ==== Sys2Proof/Machine/Handle.lean ====
section
/-!
DEFINITION. Requests to the Handle: the mailbox and MCTP, firmware, the configuration store,
attestation (R719 to R750).
-/

namespace Sys2Proof.Machine

/-! ### Arrival (R721 to R723, R748) -/

/-- Whether the Handle serves requests: powered, booted, not restarting (R719, R751). -/
def State.handleUp (s : State) : Bool :=
  !s.pwr.off && !s.hdl.restarting && s.rg R.hdlStatusState 0 != 0

/-- MAILBOX_POLL: the Handle examines the mailbox header and takes a new request (R748). -/
def execMailboxPoll (s : State) : Host.Outcome State Fault Refusal :=
  let q := s.mbox 0 2
  let inHand := (s.hdl.req.toList ++ s.hdl.queue ++ (s.hdl.staging.map (fun (x : Nat × FwImage × HdlReq) => x.2.2)).toList).any
    (fun (r : HdlReq) => r.path == 0)
  if ¬ s.handleUp ∨ q = s.mbox 4 2 ∨ inHand then .next s
  else
    let n := min 4032 (s.mbox 6 2)
    .next (s.putReq ⟨0, q, s.mbox 2 1, (upFrom 64 n).map (fun i => smGetD s.hdl.mailbox i 0)⟩)

/-- Write an image into the slot that is not loaded, after FW_ACTIVE names the loaded one; the slot is
erased at once and takes the image at FW_STAGE_DONE (R727). -/
def State.stage (s : State) (r : HdlReq) (image : FwImage) : State :=
  let slot := 1 - s.rg R.hdlStatusFwSlot 0
  let s := if s.inForce.value 0x22 = some (natLe 1 slot) then
    s.writeAll.writeStore { CfgChange.none with set := [⟨0x22, 1, natLe 1 (1 - slot)⟩] } else s
  let s := s.setSlot slot none
  { s with hdl := { s.hdl with staging := some (slot, image, r) } }

/-- An MCTP message of a path is served (R721, R722). -/
def State.mctp (s : State) (path : Nat) : MctpBody → State
  | .setEid e => { s with hdl := { s.hdl with eid := e } }.sendMctp path (natLe 1 e)
  | .readSensor k =>
    if k = 0 ∨ 71 < k then s
    else s.sendMctp path (natLe 2 (s.rg R.hdlSensorValue (k - 1)) ++ natLe 1 (s.rg R.hdlSensorLevel (k - 1)))
  | .setEventReceiver => { s with hdl := { s.hdl with receiver := true } }
  | .takeEvent =>
    match s.hdl.events with
    | [] => s
    | e :: l => s.pinAlert ({ s with hdl := { s.hdl with events := l } }.sendMctp path (natLe 64 e))
  | .update image =>
    let r : HdlReq := ⟨path, 0, 0x10, []⟩
    if s.hdl.staging.isSome then s.respond r resBusy [] else s.stage r (parseImage image)
  | .activate => s.putReq ⟨path, 0, 0x11, []⟩
  | .request q op payload => s.putReq ⟨path, q, op, payload⟩
  | .other _ => s

/-- MCTP_MESSAGE: a message over PCI Express (1), I3C (2) or SMBus (3) is served as control, PLDM or a
mailbox request (R721 to R723). -/
def execMctpMessage (path : Nat) (body : MctpBody) (s : State) : Host.Outcome State Fault Refusal :=
  if ¬ s.handleUp ∨ path = 0 ∨ 3 < path then .next s else .next (s.mctp path body)

/-! ### Serving (R749) -/

/-- The request in service, where it has an opcode and does not wait for a write of the store. -/
def State.serving (s : State) (op : Nat) : Option HdlReq :=
  if ¬ s.handleUp ∨ s.hdl.changes.any CfgChange.answers then none
  else match s.hdl.req with
    | some r => if r.op = op then some r else none
    | none => none

/-- Number i of a payload: 8 bytes, the first at byte 0. -/
def HdlReq.arg (r : HdlReq) (i : Nat) : Nat := leNat ((r.payload.drop (8 * i)).take 8)

/-- The request in service ends with a write of the store, or with NO_SPACE where the body would not fit
(R731, R734). -/
def State.store (s : State) (c : CfgChange) : State :=
  if 1048512 < bodyLen (s.newBody c) then s.answer resNoSpace []
  else s.queueChange { c with answers := true }

/-- Read bytes at a module physical address for a request (R749). -/
def State.blob (s : State) (a n : Nat) : State × Option (List Byte) :=
  let r := s.pread noCtx a n true
  (r.s, if r.st = 0 then some r.bs else none)

/-- GET_INFO: firmware versions of both slots, svn, floor and configuration sequence (R749). -/
def execGetInfo (s : State) : Host.Outcome State Fault Refusal :=
  match s.serving 0x01 with
  | none => .next s
  | some _ =>
    let v := fun k => ((s.slotImage k).map FwImage.version).getD 0
    .next (s.answer resDone ([v 0, v 1, s.rg R.hdlFwSvn 0, s.rg R.hdlFwMinSvn 0, s.rg R.hdlCfgSeqSequence 0].flatMap
      (natLe 8)))

/-- LOG_READ: up to 62 entries of the event log from a first seq (R749). -/
def execLogRead (s : State) : Host.Outcome State Fault Refusal :=
  match s.serving 0x02 with
  | none => .next s
  | some r =>
    if 62 < r.arg 1 then .next (s.answer resBadRequest [])
    else
      let l := s.hdl.log.filter (fun e => decide (r.arg 0 ≤ e % 2 ^ 64 ∧ e % 2 ^ 64 < r.arg 0 + r.arg 1))
      .next (s.answer resDone (l.flatMap (natLe 64)))

/-! ### Firmware (R724 to R729) -/

/-- FW_STAGE: the image at an address goes into the slot that is not loaded; a second staging is BUSY
(R727). -/
def execFwStage (s : State) : Host.Outcome State Fault Refusal :=
  match s.serving 0x10 with
  | none => .next s
  | some r =>
    if s.hdl.staging.isSome then .next (s.answer resBusy [])
    else if 0x2000000 < r.arg 1 then .next (s.answer resBadRequest [])
    else
      match s.blob (r.arg 0) (r.arg 1) with
      | (s, none) => .next (s.answer resMemory [])
      | (s, some l) => .next ((s.stage r (parseImage l)).nextReq)

/-- FW_STAGE_DONE: the staged image has been written and read back; a check that fails leaves the slot
erased (R727). -/
def execFwStageDone (s : State) : Host.Outcome State Fault Refusal :=
  if ¬ s.handleUp then .next s
  else
    match s.hdl.staging with
    | none => .next s
    | some (slot, image, r) =>
      let s := { s with hdl := { s.hdl with staging := none } }
      if ¬ image.ok then .next ((s.logEntry 3 3 slot 0).respond r resSignature [])
      else if image.svn < s.inForce.numOf 0x20 then .next ((s.logEntry 3 3 slot 0).respond r resRollback [])
      else .next (((s.setSlot slot (some image)).logEntry 3 0 slot 0).respond r resDone [])

/-- FW_ACTIVATE: FW_ACTIVE names the slot that is not loaded, when its image is valid and not older, or
FORCE_SLOT names it (R728). -/
def execFwActivate (s : State) : Host.Outcome State Fault Refusal :=
  match s.serving 0x11 with
  | none => .next s
  | some _ =>
    let slot := 1 - s.rg R.hdlStatusFwSlot 0
    match s.validImage slot with
    | none => .next (s.answer resBadRequest [])
    | some i =>
      let set : List CfgRec := [⟨0x22, 1, natLe 1 slot⟩]
      if ¬ s.inForce.valid then .next (s.answer resBadRequest [])
      else if s.rg R.hdlFwVersion 0 ≤ i.version then .next (s.store { CfgChange.none with set := set })
      else if s.inForce.value 0x21 = some (natLe 1 slot) then
        .next (s.store { CfgChange.none with set := set, del := [0x21] })
      else .next (s.answer resRollback [])

/-- FW_COMMIT: the floor rises to the svn of the loaded image (R729). -/
def execFwCommit (s : State) : Host.Outcome State Fault Refusal :=
  match s.serving 0x12 with
  | none => .next s
  | some _ =>
    let v := s.rg R.hdlFwSvn 0
    if v ≤ s.inForce.numOf 0x20 then .next (s.answer resDone [])
    else .next (s.store { CfgChange.none with set := [⟨0x20, 1, natLe 2 v⟩] })

/-! ### The configuration store (R730 to R737) -/

/-- Whether thresholds stay at or below their values in R738 (R735). -/
def limitsOk (v : List Byte) : Bool :=
  ((pieces 4 v).zip (below 71)).all (fun x => decide (bits (leNat x.1) 0 16 ≤ (sensorLimits x.2).1 ∧
    bits (leNat x.1) 16 16 ≤ (sensorLimits x.2).2))

/-- Whether a record's value has the form that its tag asks for (R732). -/
def valueOk (r : CfgRec) : Bool :=
  let n := r.value.length
  match r.tag with
  | 0x04 => n == 8
  | 0x10 => n == 256
  | 0x11 => n == 32
  | 0x20 => n == 2
  | 0x21 => n == 1 && decide (leNat r.value ≤ 1)
  | 0x22 => n == 1 && decide (leNat r.value ≤ 1)
  | 0x30 =>
    let ks := (pieces 65 r.value).map (fun e => (e.headD 0).toNat)
    n % 65 == 0 && ks.all (fun k => decide (1 ≤ k ∧ k ≤ 15)) && ks.eraseDups.length == ks.length
  | 0x40 => n == 1 && decide (leNat r.value < 128)
  | 0x41 => n == 284
  | _ => true

/-- CFG_SET: an integrator record is written; keys change only by ENROL_KEY and REVOKE_KEY (R735). -/
def execCfgSet (s : State) : Host.Outcome State Fault Refusal :=
  match s.serving 0x20 with
  | none => .next s
  | some r =>
    let tag := r.arg 0
    let v := r.payload.drop 8
    if tagWriter tag = 3 then .next (s.answer resBadRequest [])
    else if tagWriter tag ≠ 2 ∨ tag = 0x30 then .next (s.answer resDenied [])
    else if ¬ valueOk ⟨tag, 2, v⟩ then .next (s.answer resBadRequest [])
    else if tag = 0x41 ∧ ¬ limitsOk v then .next (s.answer resDenied [])
    else .next (s.store { CfgChange.none with set := [⟨tag, 2, v⟩] })

/-- ENROL_KEY: an integrator key under a key_id that is not enrolled (R735). -/
def execEnrolKey (s : State) : Host.Outcome State Fault Refusal :=
  match s.serving 0x21 with
  | none => .next s
  | some r =>
    let k := r.arg 0
    let key := (r.payload.drop 8)
    if k = 0 ∨ 15 < k ∨ key.length ≠ 64 ∨ (s.keyOf k).isSome then .next (s.answer resBadRequest [])
    else
      let v := (s.inForce.value 0x30).getD [] ++ natLe 1 k ++ key
      .next (s.store { CfgChange.none with set := [⟨0x30, 2, v⟩] })

/-- CHANNEL_RESTORE: a channel that is OUT or PENDING is recorded as GOOD (R478, R735). -/
def execChannelRestore (s : State) : Host.Outcome State Fault Refusal :=
  match s.serving 0x22 with
  | none => .next s
  | some r =>
    let ch := r.arg 0
    if 1024 ≤ ch ∨ s.healthOf ch < 2 then .next (s.answer resBadRequest [])
    else .next (s.store { CfgChange.none with health := [(ch, 0)] })

/-- The records of a body, which meet R732: known tags with their writers and values, each at most once. -/
def parseRecs : Nat → List Byte → Option (List CfgRec)
  | 0, l => if l.isEmpty then some [] else none
  | fuel + 1, l =>
    if l.isEmpty then some []
    else
      let h := leNat (l.take 8)
      let n := bits h 16 16
      let r : CfgRec := ⟨bits h 0 16, bits h 32 8, (l.drop 8).take n⟩
      let m := (recBytes r).length
      if l.take m ≠ recBytes r ∨ tagWriter r.tag ≠ r.writer ∨ 3 ≤ r.writer ∨ ¬ valueOk r then none
      else match parseRecs fuel (l.drop m) with
        | some rs => if rs.any (fun x => x.tag == r.tag) then none else some (r :: rs)
        | none => none

/-- A configuration copy from its bytes, where it is valid, with its length (R731, R733). -/
def parseCopy (l : List Byte) : Option (CfgCopy × Nat) :=
  let h := leNat (l.take 64)
  let n := bits h 128 32
  let body := (l.drop 64).take n
  if bits h 0 32 ≠ 0x47464E43 ∨ bits h 32 8 ≠ 1 ∨ bits h 40 24 ≠ 0 ∨ bits h 176 80 ≠ 0 ∨ 1048512 < n ∨ l.length < 64 + n ∨
      bits h 256 256 ≠ leNat (digest (natLe 64 (h % 2 ^ 256) ++ body)) then none
  else match parseRecs n body with
    | some rs => if rs.length = bits h 160 16 then some (⟨bits h 64 64, true, rs⟩, 64 + n) else none
    | none => none

/-- The device identifier (R740, R750). -/
def State.devId (s : State) : List Byte := (below 4).flatMap (fun j => natLe 8 (s.rg R.hdlIdId j))

/-- CFG_IMPORT: a signed image for this device becomes the other copy (R736). -/
def execCfgImport (s : State) : Host.Outcome State Fault Refusal :=
  match s.serving 0x23 with
  | none => .next s
  | some r =>
    if 0x200000 < r.arg 1 then .next (s.answer resBadRequest [])
    else
      match s.blob (r.arg 0) (r.arg 1) with
      | (s, none) => .next (s.answer resMemory [])
      | (s, some l) =>
        let n := 32 + 64 + bits (leNat ((l.drop 32).take 64)) 128 32
        if ¬ bootSigned l n then .next (s.answer resSignature [])
        else
          match parseCopy (l.drop 32) with
          | some (c, _) =>
            if s.rg R.hdlStatusCause 0 = 2 ∨ l.take 32 ≠ s.devId then .next (s.answer resBadRequest [])
            else .next (s.store { CfgChange.none with
              body := some c.recs, seq := max s.hdl.copy0.seq s.hdl.copy1.seq })
          | none => .next (s.answer resBadRequest [])

/-- REVOKE_KEY: over a sideband path only, an enrolled key_id is removed (R735, R737). -/
def execRevokeKey (s : State) : Host.Outcome State Fault Refusal :=
  match s.serving 0x24 with
  | none => .next s
  | some r =>
    let k := r.arg 0
    if r.path < 2 then .next (s.answer resDenied [])
    else if k = 0 ∨ 15 < k ∨ (s.keyOf k).isNone then .next (s.answer resBadRequest [])
    else
      let v := ((pieces 65 ((s.inForce.value 0x30).getD [])).filter (fun e => (e.headD 0).toNat != k)).flatten
      .next (s.store { CfgChange.none with set := [⟨0x30, 2, v⟩] })

/-- CONFIG_STORE_WRITE: the oldest waiting write completes and takes effect, and a request that waited for
it ends (R734). -/
def execConfigStoreWrite (s : State) : Host.Outcome State Fault Refusal :=
  match s.hdl.changes with
  | [] => .next s
  | c :: rest =>
    if ¬ s.handleUp then .next s
    else
      let s := { s with hdl := { s.hdl with changes := rest } }.writeStore c
      .next (if c.answers then s.answer resDone [] else s)

/-! ### Attestation (R741 to R745) -/

/-- The limit of reserved indices in force (R743). -/
def State.attLimit (s : State) : Nat := s.inForce.numOf 0x04

/-- Reserve 1,024 indices above a number (R743). -/
def State.reserve (s : State) (n : Nat) : State :=
  s.queueChange { CfgChange.none with set := [⟨0x04, 1, natLe 8 (n + 1024)⟩] }

/-- Set the next index. -/
def State.setNext (s : State) (n : Nat) : State :=
  { s with hdl := { s.hdl with next := n } }.rset R.hdlAttestNext 0 n

/-- The body of a report (R745). -/
def State.report (s : State) (nonce idx : Nat) : List Byte :=
  natLe 640 (0x54545441 + 1 * 2 ^ 32 + 0x0B320001 * 2 ^ 64 + s.rg R.glbSteppingStepping 0 * 2 ^ 96 +
    s.rg R.waleCfgModuleId 0 * 2 ^ 112 + leNat s.devId * 2 ^ 128 + s.round * 2 ^ 384 + idx * 2 ^ 448 + nonce * 2 ^ 512 +
    s.rg R.hdlFwVersion 0 * 2 ^ 768 + s.rg R.hdlFwSvn 0 * 2 ^ 800 + s.rg R.hdlCfgSeqSequence 0 * 2 ^ 832 +
    leNat ((below 16).flatMap s.measurement) * 2 ^ 1024)

/-- ATTEST: a report of identity and measurements, signed with the next index, is written at an address;
with next at the limit it waits for a reservation (R743, R745). -/
def execAttest (s : State) : Host.Outcome State Fault Refusal :=
  match s.serving 0x30 with
  | none => .next s
  | some r =>
    let idx := s.hdl.next
    let a := r.arg 4
    if 2 ^ 40 ≤ idx then .next (s.answer resExhausted [])
    else if a % 64 ≠ 0 ∨ r.payload.length < 40 then .next (s.answer resBadRequest [])
    else if s.attLimit ≤ idx then .next s
    else
      let body := s.report (leNat (r.payload.take 32)) idx
      let w := s.pwrite noCtx a (body ++ attestSignature idx body) true
      let s := w.s.setNext (idx + 1)
      let s := if s.attLimit - s.hdl.next = 256 then s.reserve s.attLimit else s
      .next (if w.st = 0 then s.answer resDone (natLe 8 10533) else s.answer resMemory [])

/-- MEASURE: a digest from the physical function extends measurement 8 to 15 (R744, R749). -/
def execMeasure (s : State) : Host.Outcome State Fault Refusal :=
  match s.serving 0x31 with
  | none => .next s
  | some r =>
    let m := r.arg 0
    if r.path ≠ 0 then .next (s.answer resDenied [])
    else if m < 8 ∨ 15 < m ∨ r.payload.length ≠ 40 then .next (s.answer resBadRequest [])
    else .next ((s.extend m (r.payload.drop 8)).answer resDone [])

end Sys2Proof.Machine
end

