-- ==== Sys2Proof/Machine/Sensor.lean ====
section
/-!
DEFINITION. The sensor hub: samples, levels, the thermal trip, supply faults, and the stretch that the
module asks for itself (R77, R738, R739, R783 to R786, R797).
-/

namespace Sys2Proof.Machine

/-- Trip threshold of sensor k, where it has one (R738). -/
def tripLimit (k : Nat) : Option Nat :=
  if k < 16 then some (110 * 16)
  else if k < 34 then some (105 * 16)
  else if k < 66 then some (95 * 16)
  else if k < 69 then none
  else some (60 * 16)

/-- What a sensor's thresholds are compared with: sensor 66 by magnitude (R785), the others' values as
temperatures or quantities. -/
def State.sensed (s : State) (k : Nat) : Int :=
  let v := toSigned 16 (s.rg R.hdlSensorValue k)
  if k = 66 then v.natAbs else if k = 67 ∨ k = 68 then (s.rg R.hdlSensorValue k : Int) else v

/-- The level that a sensor's value reaches (R739). -/
def State.reached (s : State) (k : Nat) : Nat :=
  let v := s.sensed k
  let trip := match tripLimit k with
    | some t => decide ((t : Int) ≤ v)
    | none => false
  if trip then 3
  else if (s.rg R.hdlSensorCrit k : Int) ≤ v then 2
  else if (s.rg R.hdlSensorWarn k : Int) ≤ v then 1 else 0

/-- Whether a sensor's value is below the threshold of its level by the hysteresis: 5 °C, or 2 % of the
threshold (R739). -/
def State.wellBelow (s : State) (k : Nat) : Bool :=
  let t : Int := if s.rg R.hdlSensorLevel k = 1 then s.rg R.hdlSensorWarn k else s.rg R.hdlSensorCrit k
  if 66 ≤ k ∧ k ≤ 68 then decide (100 * s.sensed k ≤ 98 * t) else decide (s.sensed k ≤ t - 80)

/-- Mean of a list, rounded down. -/
def meanOf (l : List Nat) : Nat := if l.isEmpty then 0 else l.sum / l.length

/-- Store a sample of sensor k in its unit: 66 as the voltage less 40,000 mV, 68 as the mean of the last 50
samples (R738, R785). -/
def State.putSample (s : State) (k : Nat) (v : Int) : State :=
  if k = 66 then { s with hdl := { s.hdl with volts := v.toNat } }.rset R.hdlSensorValue k (ofSigned 16 (v - 40000))
  else if k = 67 then { s with hdl := { s.hdl with amps := v.toNat } }.rset R.hdlSensorValue k v.toNat
  else if k = 68 then
    let l := s.hdl.watts ++ [v.toNat]
    let l := l.drop (l.length - 50)
    { s with hdl := { s.hdl with watts := l } }.rset R.hdlSensorValue k (meanOf l)
  else s.rset R.hdlSensorValue k (ofSigned 16 v)

/-- A sensor reaches trip: FLT_THERMAL_TRIP, and THERMTRIP_N low (R739, R797). -/
def State.trip (s : State) (k : Nat) : State :=
  let s := s.emit (.pin "THERMTRIP_N" false)
  let s := { s with hdl := { s.hdl with tripAt := some s.beat } }
  if s.pwr.stage = 0 then s.raise (FaultInfo.mk0 fltThermalTrip 9 k) else s

/-- A sensor's level after its sample: it rises at once, and counts the samples well below it (R739). -/
def State.riseLevel (s : State) (k : Nat) : State :=
  let l := s.reached k
  if s.rg R.hdlSensorLevel k < l then
    let t := (s.rset R.hdlSensorLevel k l).logEntry 1 l k 0
    let t := s.pinAlert { t with hdl := { t.hdl with calm := smErase t.hdl.calm k } }
    if l = 3 then t.trip k else t
  else
    let n := if s.rg R.hdlSensorLevel k ≠ 0 ∧ s.wellBelow k then smGetD s.hdl.calm k 0 + 1 else 0
    { s with hdl := { s.hdl with calm := smPut 0 s.hdl.calm k n } }

/-- Whether the input stands within the limits that re-arm FLT_SUPPLY (R784). -/
def State.supplyCalm (s : State) : Bool :=
  decide (36000 ≤ s.hdl.volts ∧ s.hdl.volts ≤ 44000 ∧ s.hdl.amps ≤ 30000)

/-- The module's thermal request begins with step_ticks (R77). -/
def State.thermalStart (s : State) : State :=
  if s.rb R.roundStretchCfgEnable 0 ∧ s.rnd.thermal = 0 ∧ s.hot ∧ s.pwr.stage = 0 then
    let a := min (s.rg R.roundStretchCfgMaxTicks 0) (s.rg R.roundStretchCfgStepTicks 0)
    (s.setRnd { s.rnd with thermal := a, thermalAt := s.beat, thermalCool := 0 }).reRequest
  else s

/-- SENSOR_SAMPLE: the hub samples every sensor, in order: temperatures in 1/16 °C, the input in mV, in 10
mA and in W (R738, R739, R77). -/
def execSensorSample (samples : List Int) (s : State) : Host.Outcome State Fault Refusal :=
  if s.pwr.off ∨ samples.length ≠ 71 then .next s
  else
    let s := (samples.zip (below 71)).foldl (fun s x => s.putSample x.2 x.1) s
    let s := (below 71).foldl (fun s k => s.riseLevel k) s
    let s := { s with hdl := { s.hdl with calmSupply := if s.supplyCalm then s.hdl.calmSupply + 1 else 0 } }
    let s := s.setRnd { s.rnd with warm := s.rnd.warm || !s.cool, powerWarm := s.rnd.powerWarm || !s.powerLow }
    .next s.thermalStart

/-- SENSOR_LEVEL_FALL: after 64 consecutive samples below its threshold by the hysteresis a level falls
by one; trip falls only at a cold reset (R739). -/
def execSensorLevelFall (sensor : Nat) (s : State) : Host.Outcome State Fault Refusal :=
  let l := s.rg R.hdlSensorLevel sensor
  if 71 ≤ sensor ∨ l = 0 ∨ l = 3 ∨ smGetD s.hdl.calm sensor 0 < 64 then .next s
  else
    let t := (s.rset R.hdlSensorLevel sensor (l - 1)).logEntry 1 (l - 1) sensor 0
    .next (s.pinAlert { t with hdl := { t.hdl with calm := smErase t.hdl.calm sensor } })

/-! ### The supply (R783, R784) -/

/-- FLT_SUPPLY: the input stood outside 35 V to 45 V for 100 µs, or the current above 320 A for 1 ms; once
for each excursion (R783, R784). -/
def execFltSupply (millivolts amps10 : Nat) (s : State) : Host.Outcome State Fault Refusal :=
  let low : Bool := decide (millivolts < 35000 ∨ 45000 < millivolts)
  if s.pwr.off ∨ s.hdl.excursion ∨ ¬ (low ∨ 32000 < amps10) then .next s
  else
    let s := { s with hdl := { s.hdl with excursion := true, calmSupply := 0 } }
    .next (if s.pwr.stage = 0 then s.raise (FaultInfo.mk0 fltSupply 9 (if low then 66 else 67)) else s)

/-- SUPPLY_REARM: 64 consecutive samples within limits arm FLT_SUPPLY again (R784). -/
def execSupplyRearm (s : State) : Host.Outcome State Fault Refusal :=
  if s.hdl.excursion ∧ 64 ≤ s.hdl.calmSupply then
    .next { s with hdl := { s.hdl with excursion := false } }
  else .next s

/-! ### The power request (R786) -/

/-- POWER_STRETCH_STEP: while sensor 68 is at warning level or above the module requests a stretch, and
raises it every 64 Rounds (R77, R786). -/
def execPowerStretchStep (s : State) : Host.Outcome State Fault Refusal :=
  let step := s.rg R.roundStretchCfgStepTicks 0
  let top := s.rg R.roundStretchCfgMaxTicks 0
  if s.pwr.off ∨ s.pwr.stage ≠ 0 ∨ s.rg R.hdlSensorLevel 68 = 0 ∨
      (s.rnd.power ≠ 0 ∧ s.beat < s.rnd.powerAt + 64) then .next s
  else
    .next ((s.setRnd { s.rnd with power := min top (s.rnd.power + step), powerAt := s.beat, powerCool := 0 }).reRequest)

/-- POWER_STRETCH_WITHDRAW: after 256 Rounds with sensor 68 below its threshold by the hysteresis the
request is withdrawn (R786). -/
def execPowerStretchWithdraw (s : State) : Host.Outcome State Fault Refusal :=
  if s.rnd.power ≠ 0 ∧ 256 ≤ s.rnd.powerCool then .next ((s.setRnd { s.rnd with power := 0 }).reRequest)
  else .next s

end Sys2Proof.Machine
end

