-- ==== Sys2Proof/Machine/Search.lean ====
section
/-!
DEFINITION. The codec unit's own memory: a session's work area, a cluster's syntax buffer, and the encoder's motion
search in windows of its references (R653, R660, R662, R685 to R687).
-/

namespace Sys2Proof.Machine

/-- Requests of a cluster for a context. -/
def vidRq (ctx b : Nat) : Rq := ⟨ctx, 16 + b⟩

/-- A coordinate clamped to 0 to n − 1. -/
def clampTo (n : Nat) (x : Int) : Nat := (max 0 (min ((n : Int) - 1) x)).toNat

/-! ### Work area and syntax buffer -/

/-- Read ranges of a work area of some length, up to the first status, which comes with its address (R677). -/
def State.workRead (s : State) (rq : Rq) (work len : Nat) : List (Nat × Nat) → State × Option (Status × Nat)
  | [] => (s, none)
  | p :: l =>
    let rd := s.vread rq (work + p.1) (min p.2 (len - p.1))
    if rd.st = 0 then rd.s.workRead rq work len l else (rd.s, some (rd.st, work + p.1 + rd.off))

/-- Write pieces into a work area of some length, up to the first status, which comes with its address (R677). -/
def State.workWrite (s : State) (rq : Rq) (work len : Nat) : List (Nat × List Byte) → State × Option (Status × Nat)
  | [] => (s, none)
  | p :: l =>
    let wr := s.vwrite rq (work + p.1) (p.2.take (len - p.1))
    if wr.st = 0 then wr.s.workWrite rq work len l else (wr.s, some (wr.st, work + p.1 + wr.off))

/-- 64 × 64 luma areas of a picture (R663). -/
def vidAreas (w h : Nat) : Nat := (w + 63) / 64 * ((h + 63) / 64)

/-- The syntax records of a frame, at most 40 KiB for each area (R662). -/
def vidRecords (codec : Nat) (streams : List (List Byte)) (idx : Nat) (f : Config.FrameInfo) : List Byte :=
  (Config.syntaxRecords codec streams idx).take (40960 * vidAreas f.width f.height)

/-- Where a frame's records lie in a syntax buffer of some size (log entry 51). -/
def recordPlace (held : List (Nat × Nat)) (size len : Nat) : Nat := Config.syntaxPlace held len % (size - len + 1)

/-! ### Search windows (R685, R686) -/

/-- A block of samples of a plane of a reference of w × h luma samples, edge-extended: nx luma columns from x, 320 luma
rows from y, each halved in a chroma plane (R685). -/
def refBlock {α : Type} (get : Nat → Nat → Nat → α) (w h plane : Nat) (x : Int) (nx : Nat) (y : Int) : List (List α) :=
  let d := if plane = 0 then 1 else 2
  (below (320 / d)).map (fun (i : Nat) => (below (nx / d)).map (fun (k : Nat) =>
    get plane (clampTo (w / d) (x / (d : Int) + (k : Int))) (clampTo (h / d) (y / (d : Int) + (i : Int)))))

/-- The luma column and the luma columns that an engine loads for the area at column sx: the whole window at 0, 64
columns after it (R686). -/
def windowLoad (sx : Nat) : Int × Nat := if sx = 0 then (-256, 576) else ((64 * sx + 256 : Nat), 64)

/-- A window for the area at column sx of row sy, from the one for the area before it (R686). -/
def nextWindow (get : Nat → Nat → Nat → Nat) (w h ref sx sy : Nat) (old : VidWindow) : VidWindow :=
  let c := windowLoad sx
  let new := fun p => refBlock get w h p c.1 c.2 ((64 * sy : Nat) - 128)
  let slide := fun (p : Nat) => ((old.planes.getD p []).zip (new p)).map (fun (q : List Nat × List Nat) =>
    q.1.drop (if p = 0 then 64 else 32) ++ q.2)
  ⟨ref, sx, sy, (below 3).map (fun p => if sx = 0 then new p else slide p)⟩

/-- The 64-byte pieces of a work area that hold the samples of a load, each once, rising (R686). -/
def loadSectors (place : Nat → Nat → Nat → Nat) (w h sx sy : Nat) : List (Nat × Nat) :=
  let c := windowLoad sx
  let l := (below 3).flatMap (fun p => (refBlock place w h p c.1 c.2 ((64 * sy : Nat) - 128)).flatten)
  ((l.map (fun a => a / 64)).mergeSort.eraseReps).map (fun k => (64 * k, 64))

/-- Width, height and depth of a coded frame. -/
def codedSize (f : List Nat) : Nat × Nat × Nat := (f.getD 3 0, f.getD 4 0, if f.getD 5 0 = 1 then 10 else 8)

/-- The frames from which a frame with some number of references predicts: the last ones coded since the last key frame,
the newest first; none for a key frame (R682). -/
def searchRefs (coded : List (List Nat)) (cur : List Nat) : List Nat :=
  if cur.getD 0 0 = 1 then []
  else
    let n := coded.length
    let since := ((coded.reverse.map (fun f => f.getD 0 0 == 1)).findIdx id) + 1
    ((below n).reverse.take since).take (cur.getD 2 0)

/-- An engine's window for a reference slides to an area, or is loaded, with the reads that this takes (R685, R686). -/
def State.slideWindow (s : State) (rq : Rq) (x : VidSess) (key ref sx sy : Nat) : State × Option (Status × Nat) :=
  let upTo := x.coded.take (ref + 1)
  let g := codedSize (x.coded.getD ref [])
  let rd := s.workRead rq x.work x.workLen (loadSectors (Config.refPlace upTo) g.1 g.2.1 sx sy)
  let old := smGetD rd.1.vid.windows key ⟨0, 0, 0, []⟩
  let get := fun p i k => (Config.refSample upTo p i k).toNat % 2 ^ g.2.2
  ({ rd.1 with vid := { rd.1.vid with
      windows := smPut ⟨0, 0, 0, []⟩ rd.1.vid.windows key (nextWindow get g.1 g.2.1 ref sx sy old) } }, rd.2)

/-- The motion search of a frame: for each area, row by row, the windows of its engine for every reference; up to the
first status (R677, R685, R686). -/
def State.search (s : State) (rq : Rq) (b : Nat) (x : VidSess) (cur : List Nat) : State × Option (Status × Nat) :=
  let refs := searchRefs x.coded cur
  let steps := (below ((cur.getD 4 0 + 63) / 64)).flatMap (fun sy => (below ((cur.getD 3 0 + 63) / 64)).flatMap (fun sx =>
    (below refs.length).map (fun k => (sy, sx, k))))
  steps.foldl (fun (w : State × Option (Status × Nat)) (t : Nat × Nat × Nat) =>
    if w.2.isSome then w
    else w.1.slideWindow rq x (b * 12 + Config.rowEngine t.1 % 4 * 3 + t.2.2) (refs.getD t.2.2 0) t.2.1 t.1) (s, none)

/-- Whether a vector's block, of one area, lies in the area's window with 3 samples before it and 4 after it in each
direction (R687). -/
def motionInside (m : Config.Motion) : Bool :=
  let sx : Int := (m.x / 64 : Nat)
  let sy : Int := (m.y / 64 : Nat)
  let px : Int := m.x + m.dx / 8
  let py : Int := m.y + m.dy / 8
  decide (m.x % 64 + m.w ≤ 64 ∧ m.y % 64 + m.h ≤ 64 ∧ 64 * sx - 256 ≤ px - 3 ∧ px + m.w + 4 ≤ 64 * sx + 320 ∧
    64 * sy - 128 ≤ py - 3 ∧ py + m.h + 4 ≤ 64 * sy + 192)

/-- The motion vectors that the encoder considers for a frame (R682, R687). -/
def considered (coded : List (List Nat)) (cur : List Nat) : List Config.Motion :=
  (Config.motions coded cur).filter (fun m => motionInside m && decide (m.ref < (searchRefs coded cur).length))

end Sys2Proof.Machine
end

