-- ==== Sys2Proof/Machine/Video.lean ====
section
/-!
DEFINITION. The video codec unit: sessions, job queues, decoding to tensors, concealment, encoding (R647
to R690).
-/

namespace Sys2Proof.Machine

/-! ### Sessions (R651 to R657) -/

/-- A session that holds nothing. -/
def VidSess.empty : VidSess := ⟨0, 0, [], [], [], false, [], false, 0, 0⟩

/-- What a session holds. -/
def State.session (s : State) (n : Nat) : VidSess := smGetD s.vid.sess n VidSess.empty

/-- Replace what a session holds. -/
def State.setSession (s : State) (n : Nat) (x : VidSess) : State :=
  { s with vid := { s.vid with sess := smPut VidSess.empty s.vid.sess n x } }

/-- State of a session: 0 CLOSED, 1 OPEN, 2 NEEDS_KEY, 3 CLOSING (R654). -/
def State.sessState (s : State) (n : Nat) : Nat := s.rg R.vidSessionState n

/-- A session needs a key frame, or no longer does: OPEN and NEEDS_KEY show it, CLOSING does not (R654). -/
def State.setNeeds (s : State) (n : Nat) (b : Bool) : State :=
  let t := s.setSession n { s.session n with needs := b }
  if s.sessState n = 1 ∨ s.sessState n = 2 then t.rset R.vidSessionState n (if b then 2 else 1) else t

/-- Move a session to NEEDS_KEY (R654). -/
def State.needKey (s : State) (n : Nat) : State := s.setNeeds n true

/-- Queue of a cluster. -/
def State.vidJobs (s : State) (b : Nat) : List VidJob := smGetD s.vid.jobs b []

/-- Replace the queue of a cluster, and show its length (R689). -/
def State.setVidJobs (s : State) (b : Nat) (l : List VidJob) : State :=
  { s with vid := { s.vid with jobs := smPut [] s.vid.jobs b l } }.rset R.vidJobsQueued b l.length

/-- Whether a cluster's syntax buffer meets R661. -/
def State.syntaxOk (s : State) (b : Nat) : Bool :=
  let base := s.rg R.vidSyntaxBaseBase b
  let size := s.rg R.vidSyntaxSizeSize b
  base % 4096 == 0 && decide (402653184 ≤ size ∧ base + size ≤ s.rg R.memHbmEndEnd 0)

/-- Open sessions of a cluster. -/
def State.openOn (s : State) (b : Nat) : Nat :=
  ((below 512).filter (fun n => s.sessState n != 0 && s.rg R.vidSessionCluster n == b)).length

/-- Work-area bytes that a session needs (R653). -/
def workNeed (w h : Nat) (bit10 encode : Bool) : Nat :=
  let f := 64 * ((w + 63) / 64) * (64 * ((h + 63) / 64)) * 3 / 2 * (if bit10 then 2 else 1)
  if encode then 6 * f + 8388608 else 17 * f + 4194304

/-- Fields of the open record (R651). -/
def openFields : List (Nat × Nat) :=
  [(0, 8), (8, 8), (16, 1), (17, 2), (19, 2), (21, 1), (22, 1), (24, 16), (40, 16), (64, 48), (128, 48)]

/-- Whether an open record breaks its layout (R651). -/
def openMalformed (r : Nat) : Bool :=
  bits r 0 8 != 1 || bits r 8 8 != 1 || decide (2 ≤ bits r 17 2) || bits r 19 2 == 3 || bits r 24 16 == 0 ||
  bits r 40 16 == 0 || bits r 64 12 != 0 || clearFields r openFields != 0

/-- Sessions of a context's range, rising (R652). -/
def State.sessRange (s : State) (ctx : Nat) : List Nat :=
  if ctx = 0 then below 512
  else
    let p := s.rg R.ctxCfgPartition ctx
    upFrom (s.rg R.partVidSessionFirst p) (s.rg R.partVidSessionCount p)

/-- The cluster that an open record takes, where one has a syntax buffer (R652). -/
def State.openCluster (s : State) (r : Nat) : Option Nat :=
  let ok := (if bits r 19 2 = 2 then [0, 1] else [bits r 19 2]).filter s.syntaxOk
  match ok with
  | [a, b] => some (if s.openOn b < s.openOn a then b else a)
  | a :: _ => some a
  | [] => none

/-- Open a session on a cluster (R651, R654, R690). -/
def State.openSession (s : State) (ctx n b r : Nat) : State :=
  let s := ((s.rset R.vidSessionState n (if bit r 16 then 1 else 2)).rset R.vidSessionEncode n (bits r 16 1)).rset
    R.vidSessionCodec n (bits r 17 2)
  let s := ((s.rset R.vidSessionCluster n b).rset R.vidSessionBit10 n (bits r 22 1)).rset R.vidSessionContext n ctx
  (s.rset R.vidSessionFrames n 0).setSession n { VidSess.empty with
    maxW := bits r 24 16, maxH := bits r 40 16, needs := !(bit r 16), work := bits r 64 48, workLen := bits r 128 48 }

/-- The work of a VID_OPEN (R652). -/
def State.vidOpen (s : State) (ctx w : Nat) : State × Done :=
  let rd := s.vread (s.frontRq ctx) (bits w 320 48) 64
  let s := rd.s
  let r := leNat rd.bs
  if rd.st ≠ 0 then (s, ⟨rd.st, 0, infoOf rd.st (bits w 320 48 + rd.off)⟩)
  else if openMalformed r then (s, Done.plain stCmdMalformed)
  else
    let free := (s.sessRange ctx).find? (fun n => s.sessState n == 0)
    let n := if bit r 21 then free else some (bits w 256 9)
    match n with
    | none => (s, Done.plain stVidSessionsFull)
    | some n =>
      let mw := bits r 24 16
      let mh := bits r 40 16
      if s.sessState n ≠ 0 then (s, Done.plain stVidSession)
      else if (bit r 16 ∧ bits r 17 2 = 1) ∨ 35651584 < mw * mh ∨ (bit r 16 ∧ (8192 < mw ∨ 4352 < mh)) then
        (s, Done.plain stVidUnsupported)
      else match s.openCluster r with
        | none => (s, Done.plain stVidUnsupported)
        | some b =>
          if bits r 128 48 < workNeed mw mh (bit r 22) (bit r 16) then (s, Done.plain stCmdLength)
          else (s.openSession ctx n b r, ⟨0, n + b * 2 ^ 9, 0⟩)

/-- VID_OPEN: checks an open record and opens a session (R651, R652). -/
def execVidOpen (ctx ring slot : Nat) (s : State) : Host.Outcome State Fault Refusal :=
  .next (s.runPacket ctx ring slot 0x70 (fun p => s.vidOpen ctx p.words))

/-- Whether a packet of a context may use a session (R655). -/
def State.sessUsable (s : State) (ctx n : Nat) : Bool :=
  (s.sessState n == 1 || s.sessState n == 2) && s.rg R.vidSessionContext n == ctx

/-- VID_CLOSE: the session moves to CLOSING; the packet completes at SESSION_CLOSED (R655, R656). -/
def execVidClose (ctx ring slot : Nat) (s : State) : Host.Outcome State Fault Refusal :=
  match s.running ctx ring slot 0x73 with
  | none => .next s
  | some p =>
    let n := bits p.words 256 9
    let first := (s.ctx ctx).jobs.find? (fun (j : Job) => j.fin.isNone && pkOp j.pkt.words == 0x73 && bits j.pkt.words 256 9 == n)
    if s.sessUsable ctx n then .next (s.rset R.vidSessionState n 3)
    else if s.sessState n = 3 ∧ s.rg R.vidSessionContext n = ctx ∧ first.any (fun j => j.at_ ring slot) then .next s
    else .next (s.finish ctx ring slot (Done.plain stVidSession))

/-- SESSION_CLOSED: every job of a closing session has completed, and it is CLOSED (R656). -/
def execSessionClosed (session : Nat) (s : State) : Host.Outcome State Fault Refusal :=
  let c := s.rg R.vidSessionContext session
  let busy := (below 2).any (fun b => (s.vidJobs b).any (fun j => j.session == session))
  if s.sessState session ≠ 3 ∨ busy then .next s
  else
    match (s.ctx c).jobs.find? (fun j => j.fin.isNone && pkOp j.pkt.words == 0x73 && bits j.pkt.words 256 9 == session) with
    | none => .next s
    | some j =>
      let s := (s.rset R.vidSessionState session 0).setSession session VidSess.empty
      .next (s.finish c j.pkt.ring j.pkt.slot (Done.plain stOk))

/-- Close the sessions of a partition's range, discarding their jobs (R657). -/
def State.closeSessions (s : State) (p : Nat) : State :=
  let l := upFrom (s.rg R.partVidSessionFirst p) (s.rg R.partVidSessionCount p)
  let s := (below 2).foldl (fun s b => s.setVidJobs b ((s.vidJobs b).filter (fun j => !(l.contains j.session)))) s
  l.foldl (fun s n =>
    [R.vidSessionState, R.vidSessionEncode, R.vidSessionCodec, R.vidSessionCluster, R.vidSessionBit10,
      R.vidSessionContext, R.vidSessionFrames].foldl (fun s f => s.rset f n 0) (s.setSession n VidSess.empty)) s

/-! ### Records of jobs (R664, R666, R679) -/

/-- Fields of the decode record (R664). -/
def decodeFields : List (Nat × Nat) :=
  [(0, 8), (8, 8), (16, 1), (17, 1), (18, 1), (19, 1), (20, 1), (21, 2), (24, 8), (64, 48), (128, 32), (160, 16),
    (176, 8), (192, 32), (256, 48), (320, 32), (384, 40), (448, 48), (512, 48), (560, 16)]

/-- Whether a decode record breaks its layout (R664). -/
def decodeMalformed (r : Nat) : Bool :=
  bits r 0 8 != 2 || bits r 8 8 != 1 || decide (4 < bits r 24 8) || bits r 128 32 == 0 || bits r 176 8 == 0 ||
  bits r 256 48 % (fmtBits (bits r 24 8) / 8) != 0 || bits r 448 5 != 0 || bits r 512 4 != 0 || clearFields r decodeFields != 0

/-- Fields of the encode record (R679). -/
def encodeFields : List (Nat × Nat) :=
  [(0, 8), (8, 8), (16, 2), (18, 1), (19, 1), (20, 1), (21, 1), (22, 1), (23, 1), (24, 8), (32, 8), (40, 2), (48, 16),
    (64, 48), (128, 16), (144, 16), (160, 32), (192, 40), (240, 16), (256, 16), (272, 16), (304, 48), (384, 48),
    (448, 32), (512, 48)]

/-- Whether an encode record breaks its layout in a session (R679). -/
def State.encodeMalformed (s : State) (n r : Nat) : Bool :=
  let x := s.session n
  bits r 0 8 != 3 || bits r 8 8 != 1 || (bit r 22 && !(s.rb R.vidSessionBit10 n)) || decide (2 < bits r 24 8) ||
  bits r 40 2 == 0 || bits r 128 16 == 0 || bits r 144 16 == 0 || bits r 240 16 == 0 ||
  bits r 256 16 == 0 || bits r 256 3 != 0 || decide (x.maxW < bits r 256 16) ||
  bits r 272 16 == 0 || bits r 272 3 != 0 || decide (x.maxH < bits r 272 16) || clearFields r encodeFields != 0

/-- Whether an FP32 word is infinite or NaN. -/
def f32Bad (w : Nat) : Bool := bits w 23 8 == 255

/-- Whether a colour record has a bad value in a row or bound that the job uses (R666). -/
def colourBad (col : List Nat) (rows : List Nat) (bounds : Bool) : Bool :=
  rows.any (fun r => ((col.drop (4 * r)).take 4).any f32Bad ||
    (bounds && (f32Bad (col.getD (16 + r) 0) || f32Bad (col.getD (20 + r) 0))))

/-- The work of a VID_DECODE or VID_ENCODE up to its place in the queue: none once it is queued (R655,
R658, R664, R679). -/
def State.vidQueue (s : State) (ctx : Nat) (p : Packet) (encode : Bool) : State × Option Done :=
  let n := bits p.words 256 9
  if ¬ s.sessUsable ctx n ∨ s.rb R.vidSessionEncode n ≠ encode then (s, some (Done.plain stVidSession))
  else
    let va := bits p.words 320 48
    let rd := s.vread (s.frontRq ctx) va 128
    let s := rd.s
    let r := leNat rd.bs
    if rd.st ≠ 0 then (s, some ⟨rd.st, 0, infoOf rd.st (va + rd.off)⟩)
    else if (if encode then s.encodeMalformed n r else decodeMalformed r) then (s, some (Done.plain stCmdMalformed))
    else
      let ca := if encode then bits r 304 48 else bits r 448 48
      let rc := s.vread (s.frontRq ctx) ca 96
      let col := (pieces 4 rc.bs).map leNat
      if rc.st ≠ 0 then (rc.s, some ⟨rc.st, 0, infoOf rc.st (ca + rc.off)⟩)
      else if colourBad col (if encode then [0, 1, 2] else below (bits r 21 2 + 1)) (!encode && bit r 20) then
        (rc.s, some (Done.plain stCmdMalformed))
      else
        let b := s.rg R.vidSessionCluster n
        (rc.s.setVidJobs b (rc.s.vidJobs b ++
          [⟨ctx, p.ring, p.slot, n, r, col, false, 0, false, [], false, 0, 0, 0, 0, 0, none, none⟩]), none)

/-- Run a packet that queues a job, once. -/
def State.runVid (s : State) (ctx ring slot op : Nat) (encode : Bool) : State :=
  match s.running ctx ring slot op with
  | none => s
  | some p =>
    if (below 2).any (fun b => (s.vidJobs b).any (fun j => j.ctx == ctx && j.ring == ring && j.slot == slot)) then s
    else
      match s.vidQueue ctx p encode with
      | (t, some d) => if s.regulated t ctx then s else t.finish ctx ring slot d
      | (t, none) => if s.regulated t ctx then s else t

/-- VID_DECODE: queues a decode job (R664). -/
def execVidDecode (ctx ring slot : Nat) (s : State) : Host.Outcome State Fault Refusal :=
  .next (s.runVid ctx ring slot 0x71 false)

/-- VID_ENCODE: queues an encode job (R679). -/
def execVidEncode (ctx ring slot : Nat) (s : State) : Host.Outcome State Fault Refusal :=
  .next (s.runVid ctx ring slot 0x72 true)

/-! ### Samples (R667 to R669, R674) -/

/-- How the history of a frame is named to the codec. -/
def VidFrame.tag (f : VidFrame) : Nat := f.streams * 2 ^ 33 + f.idx * 2 + b2n f.whole

/-- Whether the 64 × 64 area of a luma position is concealed. -/
def VidFrame.hides (f : VidFrame) (x y : Nat) : Bool :=
  f.whole || f.info.areas.contains (y / 64 * ((f.info.width + 63) / 64) + x / 64)

/-- Sample of the newest frame of a list, newest first: a concealed one is that of the frame before it
since the last random-access point, or the middle value (R674). -/
def vidSample (codec : Nat) (streams : List (List Byte)) : List VidFrame → Nat → Nat → Nat → Nat
  | [], _, _, _ => 0
  | f :: rest, plane, x, y =>
    let k := if plane = 0 then 1 else 2
    if f.hides (k * x) (k * y) then
      (if f.info.key ∨ rest.isEmpty then 2 ^ (f.info.depth - 1) else vidSample codec streams rest plane x y)
    else (Config.codecSample codec (streams.take f.streams) f.idx (rest.map VidFrame.tag) plane x y).toNat % 2 ^ f.info.depth

/-- Sample of the frame at decode number i of a session, with grain where asked (R669). -/
def State.outSample (s : State) (n i : Nat) (grain : Bool) (plane x y : Nat) : Nat :=
  let x0 := s.session n
  let codec := s.rg R.vidSessionCodec n
  let fs := (x0.frames.take (i + 1)).reverse
  let v := vidSample codec x0.streams fs plane x y
  match fs with
  | f :: _ =>
    if grain ∧ codec = 0 then
      let k := if plane = 0 then 1 else 2
      let l := vidSample codec x0.streams fs 0 (k * x) (k * y)
      (Config.codecGrain (x0.streams.take f.streams) f.idx plane x y v l).toNat % 2 ^ f.info.depth
    else v
  | [] => v

/-- Chroma columns of a luma column with weights in halves (R667). -/
def chromaCols (up : Bool) (x : Nat) : List (Int × Nat) :=
  if up ∧ x % 2 = 1 then [((x / 2 : Nat), 1), ((x / 2 + 1 : Nat), 1)] else [((x / 2 : Nat), 2)]

/-- Chroma rows of a luma row with weights in quarters (R667). -/
def chromaRows (up : Bool) (y : Nat) : List (Int × Nat) :=
  if ¬ up then [((y / 2 : Nat), 4)]
  else if y % 2 = 0 then [((y / 2 : Nat) - 1, 1), ((y / 2 : Nat), 3)]
  else [((y / 2 : Nat), 3), ((y / 2 + 1 : Nat), 1)]

/-- Chroma of a luma position, exactly (R667). -/
def chromaAt (f : Config.FrameInfo) (up : Bool) (get : Nat → Nat → Nat) (x y : Nat) : Num :=
  if f.mono then Num.ofInt (2 ^ (f.depth - 1) : Nat)
  else
    let t := (chromaRows up y).flatMap (fun r => (chromaCols up x).map (fun c =>
      c.2 * r.2 * get (clampTo ((f.width + 1) / 2) c.1) (clampTo ((f.height + 1) / 2) r.1)))
    (Num.ofInt (t.sum : Nat)).scale2 (-3)

/-- Row r of a colour record applied to three values (R668, R681). -/
def colourRow (col : List Nat) (r : Nat) (a b c : Num) : Num :=
  let m := fun i => f32 (col.getD (4 * r + i) 0)
  Num.sum [(m 0).mul a, (m 1).mul b, (m 2).mul c, m 3]

/-- Element of channel r of an output pixel (R668). -/
def pixelElem (rec : Nat) (col : List Nat) (r : Nat) (y cb cr : Num) : Nat :=
  let v := colourRow col r y cb cr
  let v := if bit rec 20 then (v.max2 (f32 (col.getD (16 + r) 0))).min2 (f32 (col.getD (20 + r) 0)) else v
  elemConv (bits rec 24 8) .even v

/-- Bytes of one output row of a frame (R665, R668). -/
def State.outRow (s : State) (j : VidJob) (i : Nat) (f : Config.FrameInfo) (y : Nat) : List Byte :=
  let g := bit j.words 18
  let up := bit j.words 19
  let get := fun p => s.outSample j.session i g p
  (below f.width).flatMap (fun x =>
    let a := Num.ofInt (get 0 x y)
    let cb := chromaAt f up (get 1) x y
    let cr := chromaAt f up (get 2) x y
    (below (bits j.words 21 2 + 1)).flatMap (fun r =>
      natLe (fmtBits (bits j.words 24 8) / 8) (pixelElem j.words j.colour r a cb cr)))

/-! ### Output (R665, R670) -/

/-- Write bytes for a job; a status ends it. -/
def State.jobWrite (s : State) (b : Nat) (j : VidJob) (va : Nat) (bs : List Byte) : State × VidJob :=
  if j.ends.isSome then (s, j)
  else
    let w := s.vwrite (vidRq j.ctx b) va bs
    (w.s, if w.st = 0 then j else { j with ends := some (w.st, va + w.off) })

/-- Write a status record where one is left (R670). -/
def State.statusRecord (s : State) (b : Nat) (j : VidJob) (count r : Nat) : State × VidJob :=
  if count ≤ j.records then (s, j)
  else
    let w := s.jobWrite b j (bits j.words 512 48 + 16 * j.records) (natLe 16 r)
    (w.1, { w.2 with records := j.records + 1 })

/-- Output the frame at decode number i: written as the record asks, then its status record (R665,
R670). -/
def State.outFrame (s : State) (b : Nat) (j : VidJob) (i : Nat) : State × VidJob :=
  match (s.session j.session).frames[i]? with
  | none => (s, j)
  | some f =>
    if j.ends.isSome then (s, j)
    else
      let n := s.rg R.vidSessionFrames j.session
      let s := s.radd R.vidSessionFrames j.session 1
      let first := bits j.words 192 32
      let wr : Bool := decide (first ≤ n) && (n - first) % bits j.words 176 8 == 0 && decide (j.written < bits j.words 160 16)
      let k := j.written
      let w := if wr then
          (below f.info.height).foldl (fun (w : State × VidJob) y =>
            w.1.jobWrite b w.2 (bits j.words 256 48 + k * bits j.words 384 40 + y * bits j.words 320 32)
              (w.1.outRow j i f.info y)) (s, j)
        else (s, j)
      let j := if wr ∧ w.2.ends.isNone then { w.2 with written := k + 1 } else w.2
      let areas := ((f.info.width + 63) / 64) * ((f.info.height + 63) / 64)
      let hidden := if f.whole then areas else f.info.areas.length
      w.1.statusRecord b j (bits j.words 560 16) (n + b2n wr * 2 ^ 32 + b2n f.concealed * 2 ^ 33 + b2n f.tainted * 2 ^ 34 +
        b2n f.info.key * 2 ^ 35 + min 65535 (if f.concealed then hidden else 0) * 2 ^ 48 + (if wr then k else 0) * 2 ^ 64)

/-- Output frames of a session, by decode number, and forget that they are held. -/
def State.outputs (s : State) (b : Nat) (j : VidJob) (l : List Nat) : State × VidJob :=
  l.foldl (fun (w : State × VidJob) i =>
    let x := w.1.session j.session
    if x.held.contains i then
      (w.1.setSession j.session { x with held := x.held.filter (fun h => h != i) }).outFrame b w.2 i
    else w) (s, j)

/-- Insert a decode number by its frame's place in display order. -/
def insertHeld (fs : List VidFrame) (i : Nat) : List Nat → List Nat
  | [] => [i]
  | h :: l =>
    let at_ := fun k => ((fs[k]?).map (fun (f : VidFrame) => f.info.order)).getD 0
    if at_ i < at_ h then i :: h :: l else h :: insertHeld fs i l

/-! ### Jobs (R659, R662) -/

/-- Replace the job of a packet in a cluster's queue. -/
def State.putJob (s : State) (b : Nat) (j : VidJob) : State :=
  s.setVidJobs b ((s.vidJobs b).map (fun x => if x.ctx = j.ctx ∧ x.ring = j.ring ∧ x.slot = j.slot then j else x))

/-- A job ends: its packet with its status, detail and info, which for a translation or memory status is the address at
which it arose (R139, R671, R676, R677, R683). -/
def State.endVid (s : State) (b : Nat) (j : VidJob) : State :=
  let enc := s.rb R.vidSessionEncode j.session
  let e := j.ends.getD (j.stop.getD (if j.concealed = 0 then stOk else stVidDamaged), 0)
  let s := s.setVidJobs b ((s.vidJobs b).filter (fun x => !(x.ctx == j.ctx && x.ring == j.ring && x.slot == j.slot)))
  let detail := if enc then min 65535 j.done else min 65535 j.written + min 65535 j.concealed * 2 ^ 16
  s.finish j.ctx j.ring j.slot ⟨e.1, detail, if stClass e.1 = 2 ∨ stClass e.1 = 3 then e.2 else j.used⟩

/-- Read the stream of a decode job as the entropy engine first meets it (R649, R677). -/
def State.beginJob (s : State) (b : Nat) (j : VidJob) : State × VidJob :=
  if j.begun then (s, j)
  else
    let rd := s.vread (vidRq j.ctx b) (bits j.words 64 48) (bits j.words 128 32)
    let x := rd.s.session j.session
    let j := { j with begun := true }
    if rd.st ≠ 0 then (rd.s.needKey j.session, { j with ends := some (rd.st, bits j.words 64 48 + rd.off) })
    else (rd.s.setSession j.session { x with streams := x.streams ++ [rd.bs] }, j)

/-- The next frame of a job that has begun, in decode order. -/
def State.nextFrame (s : State) (j : VidJob) : Option Config.FrameInfo :=
  if j.ends.isSome ∨ j.stop.isSome then none
  else Config.codecFrame (s.rg R.vidSessionCodec j.session) (s.session j.session).streams j.parsed

/-- Whether a job has nothing left to parse. -/
def State.parsedOut (s : State) (j : VidJob) : Bool :=
  s.rb R.vidSessionEncode j.session || (j.begun && (s.nextFrame j).isNone)

/-- Frames parsed or being parsed and not yet reconstructed (R662). -/
def aheadOf (l : List VidJob) : Nat := (l.map (fun j => j.ready.length + b2n j.parsing)).sum

/-- Decode jobs at the head of the queue with no frame left flush and end (R664, R671). -/
def State.settleVid (s : State) (b : Nat) : Nat → State
  | 0 => s
  | fuel + 1 =>
    match s.vidJobs b with
    | j :: _ =>
      if s.rb R.vidSessionEncode j.session ∨ ¬ j.begun ∨ j.parsing ∨ j.busy then s
      else if (s.nextFrame j).isSome ∨ ¬ j.ready.isEmpty then s
      else
        let w := if bit j.words 16 ∧ j.ends.isNone then s.outputs b j (s.session j.session).held else (s, j)
        let t := if w.2.ends.isSome ∧ j.ends.isNone then w.1.needKey j.session else w.1
        (t.endVid b w.2).settleVid b fuel
    | [] => s

/-- The first job, in queue order, that still has a frame to parse; jobs before it are parsed out. -/
def State.parseJob (s : State) : List VidJob → Option VidJob
  | [] => none
  | j :: l => if s.parsedOut j then s.parseJob l else some j

/-- FRAME_PARSE_START: the entropy engine begins the next frame while fewer than runahead frames are
parsed and not reconstructed (R662). -/
def execFrameParseStart (cluster : Nat) (s : State) : Host.Outcome State Fault Refusal :=
  let l := s.vidJobs cluster
  if 2 ≤ cluster ∨ l.any VidJob.parsing ∨ s.rg R.vidCfgRunahead 0 ≤ aheadOf l then .next s
  else
    match s.parseJob l with
    | none => .next s
    | some j =>
      let w := s.beginJob cluster j
      if s.regulated w.1 j.ctx then .next s
      else
        let go := (w.1.nextFrame w.2).isSome
        .next ((w.1.putJob cluster { w.2 with parsing := go }).settleVid cluster (l.length + 1))

/-- The records in a cluster's syntax buffer, but those of a frame that the pixel engines are freeing: places and
lengths (R662). -/
def recordsHeld (l : List VidJob) : List (Nat × Nat) :=
  l.flatMap (fun j => (if j.busy then j.ready.drop 1 else j.ready).map (fun (f : VidFrame) => (f.place, f.len)))

/-- Whether the syntax buffer has room for a frame's records beside the others (R662). -/
def State.syntaxRoom (s : State) (b : Nat) (j : VidJob) (f : Config.FrameInfo) : Bool :=
  let n := (vidRecords (s.rg R.vidSessionCodec j.session) (s.session j.session).streams j.parsed f).length
  decide (((recordsHeld (s.vidJobs b)).map (fun (q : Nat × Nat) => q.2)).sum + n ≤ s.rg R.vidSyntaxSizeSize b)

/-- What a decoder does with a parsed frame, in stream order: skipped, refused, or to be reconstructed,
concealed where it is damaged, its records in the syntax buffer (R662, R673 to R677). -/
def State.judge (s : State) (j : VidJob) (f : Config.FrameInfo) : State × VidJob :=
  let n := j.session
  let x := s.session n
  let b := s.rg R.vidSessionCluster n
  let j := { j with parsed := j.parsed + 1, parsing := false, used := f.used }
  let skip := (s.rsat R.vidSkippedCount b 1, j)
  if f.unsupported ∨ x.maxW < f.width ∨ x.maxH < f.height ∨ 35651584 < f.width * f.height ∨
      (8 < f.depth ∧ ¬ s.rb R.vidSessionBit10 n) then
    (s.needKey n, { j with stop := some stVidUnsupported })
  else if x.needs ∧ ¬ (f.access ∧ f.damage < 2) then skip
  else if f.rasl ∧ x.rasl then skip
  else
    let fresh := x.needs
    let s := if fresh then s.setNeeds n false else s
    let s := s.setSession n { s.session n with rasl := if fresh then f.cra else if f.key then false else x.rasl }
    if f.damage ≠ 0 ∧ bit j.words 17 then (s.needKey n, { j with stop := some stVidDamaged })
    else
      let s := if f.damage = 3 then s.needKey n else s
      let bs := vidRecords (s.rg R.vidSessionCodec n) x.streams (j.parsed - 1) f
      let at_ := recordPlace (recordsHeld (s.vidJobs b)) (s.rg R.vidSyntaxSizeSize b) bs.length
      ((s.pwrite j.ctx (s.rg R.vidSyntaxBaseBase b + at_) bs false).s, { j with
        ready := j.ready ++ [⟨x.streams.length, j.parsed - 1, f, decide (2 ≤ f.damage), f.damage != 0, false, at_, bs.length⟩] })

/-- FRAME_PARSE_DONE: the entropy engine finishes a frame's syntax, detecting damage, where its records have room (R662,
R663, R673 to R677). -/
def execFrameParseDone (cluster : Nat) (s : State) : Host.Outcome State Fault Refusal :=
  match (s.vidJobs cluster).find? VidJob.parsing with
  | none => .next s
  | some j =>
    match s.nextFrame j with
    | none => .next ((s.putJob cluster { j with parsing := false }).settleVid cluster 64)
    | some f =>
      let w := s.judge j f
      if ¬ s.syntaxRoom cluster j f ∨ s.regulated w.1 j.ctx then .next s
      else .next ((w.1.putJob cluster w.2).settleVid cluster 64)

/-- FRAME_RECONSTRUCT_START: the pixel engines begin the next frame of the queue's head, once its parse
is complete (R659, R662). -/
def execFrameReconstructStart (cluster : Nat) (s : State) : Host.Outcome State Fault Refusal :=
  match s.vidJobs cluster with
  | j :: _ =>
    if 2 ≤ cluster ∨ j.busy ∨ (¬ s.rb R.vidSessionEncode j.session ∧ j.ready.isEmpty) then .next s
    else .next (s.putJob cluster { j with busy := true })
  | [] => .next s

/-- The accesses that reconstruct a frame: its records, then the work area; up to the first status (R660, R662,
R677). -/
def State.frameAccess (s : State) (b : Nat) (j : VidJob) (f : VidFrame) : State × Option (Status × Nat) :=
  let x := s.session j.session
  let c := s.rg R.vidSessionCodec j.session
  let st := x.streams.take f.streams
  let rd := s.pread j.ctx (s.rg R.vidSyntaxBaseBase b + f.place) f.len false
  if rd.st ≠ 0 then (rd.s, some (rd.st, 0))
  else
    let q := rd.s.workRead (vidRq j.ctx b) x.work x.workLen (Config.decodeReads c st f.idx)
    if q.2.isSome then q else q.1.workWrite (vidRq j.ctx b) x.work x.workLen (Config.decodeKeeps c st f.idx)

/-- A decoded frame: taint, counters, the frames it outputs (R665, R670, R675, R689). -/
def State.decoded (s : State) (b : Nat) (j : VidJob) (f : VidFrame) : State × VidJob :=
  let n := j.session
  let x := s.session n
  let i := x.frames.length
  let refs := f.info.refs.any (fun k => decide (0 < k ∧ k ≤ i) && ((x.frames[i - k]?).map VidFrame.tainted).getD false)
  let f := { f with tainted := f.concealed || (refs && !f.info.key) }
  let s := (s.radd R.vidDecFramesCount b 1).radd R.vidPixelsCount b (f.info.width * f.info.height)
  let s := if f.concealed then s.rsat R.vidConcealedCount b 1 else s
  let fs := x.frames ++ [f]
  let s := s.setSession n { x with frames := fs, held := insertHeld fs i x.held }
  let j := { j with done := j.done + 1, concealed := j.concealed + b2n f.concealed }
  let w := s.outputs b j ((f.info.outputs.filter (fun k => decide (k ≤ i))).map (fun k => i - k))
  if w.2.ends.isSome then (w.1.needKey n, { w.2 with ready := [] }) else w

/-- Reconstruct a frame, or end its job with the status of an access (R659, R677). -/
def State.reconstruct (s : State) (b : Nat) (j : VidJob) (f : VidFrame) : State × VidJob :=
  let w := s.frameAccess b j f
  match w.2 with
  | some e => (w.1.needKey j.session, { j with ends := some e, ready := [] })
  | none => w.1.decoded b j f

/-! ### Encoding (R679 to R683) -/

/-- Source position of a coded pixel and the size of the grid (R680). -/
def encSource (r ox oy : Nat) : (Nat × Nat) × (Nat × Nat) :=
  let ow := bits r 256 16
  let oh := bits r 272 16
  let x := if bit r 18 then ow - 1 - ox else ox
  let y := if bit r 19 then oh - 1 - oy else oy
  match bits r 16 2 with
  | 0 => ((x, y), (ow, oh))
  | 1 => ((y, ow - 1 - x), (oh, ow))
  | 2 => ((ow - 1 - x, oh - 1 - y), (ow, oh))
  | _ => ((oh - 1 - y, x), (oh, ow))

/-- Input bytes of an encode job's frame, row by row (R679). -/
def State.encRows (s : State) (b : Nat) (j : VidJob) (f : Nat) : State × Except (Status × Nat) (List (List Nat)) :=
  let r := j.words
  let eb := fmtBits (bits r 24 8) / 8
  let n := bits r 128 16 * (if bit r 23 then 3 else 1) * eb
  (below (bits r 144 16)).foldl (fun (w : State × Except (Status × Nat) (List (List Nat))) y =>
    match w.2 with
    | .error e => (w.1, .error e)
    | .ok l =>
      let a := bits r 64 48 + f * bits r 192 40 + y * bits r 160 32
      let rd := w.1.vread (vidRq j.ctx b) a n
      if rd.st = 0 then (rd.s, .ok (l ++ [(pieces eb rd.bs).map leNat])) else (rd.s, .error (rd.st, a + rd.off))) (s, .ok [])

/-- Sampled value of an input channel at a grid position, exact (R680). -/
def encSampled (r : Nat) (rows : List (List Nat)) (p g : Nat × Nat) (c : Nat) : Num :=
  let iw := bits r 128 16
  let ih := bits r 144 16
  let ch := if bit r 23 then 3 else 1
  let xs := cropTaps (bit r 20) (cropSample 0 (8 * iw) g.1 p.1)
  let ys := cropTaps (bit r 20) (cropSample 0 (8 * ih) g.2 p.2)
  Num.sum (ys.flatMap (fun y => xs.map (fun x =>
    ((elemNum (bits r 24 8) ((rows.getD (clampTo ih y.1) []).getD (clampTo iw x.1 * ch + c) 0)).mul
      (Num.ofInt ((x.2 * y.2 : Nat) : Int))).scale2 (-32))))

/-- Y, Cb and Cr of a coded pixel before rounding (R681). -/
def encYuv (r : Nat) (col : List Nat) (rows : List (List Nat)) (ox oy k : Nat) : Num :=
  let q := encSource r ox oy
  let c := fun i => if i = 0 ∨ bit r 23 then encSampled r rows q.1 q.2 i else Num.zero
  colourRow col k (c 0) (c 1) (c 2)

/-- Round to an integer sample of a depth; NaN gives 0 (R681). -/
def toSample (depth : Nat) (v : Num) : Nat :=
  match v with
  | .nan => 0
  | .inf neg => if neg then 0 else 2 ^ depth - 1
  | .fin neg m e => if neg then 0 else min (2 ^ depth - 1) (roundSteps .even m e 0)

/-- The samples of a coded frame: luma, then each chroma plane (R681). -/
def encSamples (r : Nat) (col : List Nat) (rows : List (List Nat)) : List Nat :=
  let w := bits r 256 16
  let h := bits r 272 16
  let d := if bit r 22 then 10 else 8
  let at_ := fun k x y => encYuv r col rows x y k
  let chroma := fun k => (below (h / 2)).flatMap (fun i => (below (w / 2)).map (fun x =>
    toSample d ((Num.sum [at_ k (2 * x) (2 * i), at_ k (2 * x + 1) (2 * i), at_ k (2 * x) (2 * i + 1),
      at_ k (2 * x + 1) (2 * i + 1)]).scale2 (-2))))
  ((below h).flatMap (fun y => (below w).map (fun x => toSample d (at_ 0 x y)))) ++ chroma 1 ++ chroma 2

/-- Whether the next frame of an encoder is a key frame (R682). -/
def State.encKey (s : State) (j : VidJob) : Bool :=
  let n := s.rg R.vidSessionFrames j.session
  let i := bits j.words 48 16
  n == 0 || (s.session j.session).needs || (bit j.words 21 && j.done == 0) || (i != 0 && n % i == 0)

/-- A coded frame: its unit, what its session keeps of it, its status record, the counters (R682, R683, R689). -/
def State.putUnit (s : State) (b : Nat) (j : VidJob) (cur : List Nat) (unit : List Byte) : State × VidJob :=
  let r := j.words
  let n := j.session
  let x := s.session n
  let key := cur.getD 0 0
  let w := s.jobWrite b j (bits r 384 48 + j.used) unit
  let w := w.1.statusRecord b w.2 (bits r 240 16) (j.done + 2 ^ 32 + key * 2 ^ 35 + j.used * 2 ^ 64 + unit.length * 2 ^ 96)
  let k := if w.2.ends.isSome then (w.1, w.2.ends)
    else w.1.workWrite (vidRq j.ctx b) x.work x.workLen (Config.encodeKeeps x.coded cur)
  match k.2 with
  | some e => (k.1.needKey n, { w.2 with ends := some e })
  | none =>
    let s := (k.1.setSession n { x with coded := x.coded ++ [cur] }).radd R.vidSessionFrames n 1
    let s := if x.needs then s.setNeeds n false else s
    ((s.radd R.vidEncFramesCount b 1).radd R.vidPixelsCount b (bits r 256 16 * bits r 272 16),
      { w.2 with done := j.done + 1, used := j.used + unit.length })

/-- Code a frame: its samples, the motion search, its unit (R681 to R683, R685 to R687). -/
def State.encodeFrame (s : State) (b : Nat) (j : VidJob) : State × VidJob :=
  let r := j.words
  let n := j.session
  let stop := fun (s : State) (e : Status × Nat) => (s.needKey n, { j with ends := some e })
  match s.encRows b j j.done with
  | (s, .error e) => stop s e
  | (s, .ok rows) =>
    let x := s.session n
    let cur := [b2n (s.encKey j), bits r 32 8, bits r 40 2, bits r 256 16, bits r 272 16, bits r 22 1] ++
      encSamples r j.colour rows
    match s.search (vidRq j.ctx b) b x cur with
    | (s, some e) => stop s e
    | (s, none) =>
      let unit := Config.encodeUnit x.coded cur (considered x.coded cur)
      if bits r 448 32 < j.used + unit.length then stop s (stCmdLength, 0) else s.putUnit b j cur unit

/-- FRAME_RECONSTRUCT_DONE: a frame is reconstructed and what it outputs is written, or a frame is coded;
a job without a frame left ends (R659, R663 to R671, R679 to R683). -/
def execFrameReconstructDone (cluster : Nat) (s : State) : Host.Outcome State Fault Refusal :=
  match s.vidJobs cluster with
  | [] => .next s
  | j :: _ =>
    if ¬ j.busy then .next s
    else if s.rb R.vidSessionEncode j.session then
      let w := s.encodeFrame cluster { j with busy := false }
      if s.regulated w.1 j.ctx then .next s
      else
        let last := w.2.ends.isSome || w.2.done == bits j.words 240 16
        .next (if last then w.1.endVid cluster w.2 else w.1.putJob cluster w.2)
    else
      match j.ready with
      | [] => .next (s.putJob cluster { j with busy := false })
      | f :: rest =>
        let w := s.reconstruct cluster { j with busy := false, ready := rest } f
        if s.regulated w.1 j.ctx then .next s
        else .next ((w.1.putJob cluster w.2).settleVid cluster 64)

end Sys2Proof.Machine
end

