-- ==== Sys2Proof/Machine/Power.lean ====
section
/-!
DEFINITION. Resets and power states: what each clears, keeps and restores, the boot of the Handle, and
partition resets (R751 to R774, R783).
-/

namespace Sys2Proof.Machine

/-! ### What resets clear (R16, R768) -/

/-- The class of the field under a register key. -/
def keyClass (k : Nat) : RClass := ((allFlds[k % 1024]?).map Fld.cls).getD .m

/-- Whether a module reset keeps a field: classes C and S, and the live Hamper channels until the exit has
trained them again (R16, R536). -/
def moduleKeeps (k : Nat) : Bool :=
  keyClass k == .c || keyClass k == .s || k % 1024 == R.hampChanStateLive.id

/-- The copy that a write in progress leaves when it is cut short: as it was, invalid, or complete
(R734, R737). -/
def State.tearCopy (s : State) : State :=
  match s.hdl.changes with
  | [] => s
  | c :: _ =>
    let f := s.fresh
    let s := f.2
    let torn : CfgCopy := ⟨s.inForce.seq + 1, false, []⟩
    let full : CfgCopy := ⟨max s.inForce.seq c.seq + 1, true, s.newBody c⟩
    let put := fun (x : CfgCopy) =>
      { s with hdl := if s.rb R.hdlStatusCfgCopy 0 then { s.hdl with copy0 := x } else { s.hdl with copy1 := x } }
    if f.1 % 3 = 0 then s else if f.1 % 3 = 1 then put torn else put full

/-- The Handle as a reset leaves it: NOR keeps its contents, a staging its erased slot, the rest starts
again; the sensor hub's counts stay unless `cold` (R727, R752, R768). -/
def HdlSt.restart (h : HdlSt) (cold : Bool) : HdlSt :=
  let z := HdlSt.reset
  { z with
    log := h.log, copy0 := h.copy0, copy1 := h.copy1, slot0 := h.slot0, slot1 := h.slot1
    calm := if cold then [] else h.calm
    watts := if cold then [] else h.watts
    tripAt := if cold then none else h.tripAt
    excursion := if cold then false else h.excursion
    calmSupply := if cold then 0 else h.calmSupply
    volts := h.volts, amps := h.amps }

/-- Addresses of Creel scratch (R36). -/
def isScratch (a : Nat) : Bool := decide (0x200000000000 ≤ a ∧ a < 0x800000000000)

/-- Addresses of host memory (R36). -/
def isHost (a : Nat) : Bool := decide (0x800000000000 ≤ a)

/-- Every dirty line of every Creel is written back (R494, R765). -/
def State.writeBackAll (s : State) : State := (below 16).foldl (fun s c => s.creelFlush c (fun _ => true)) s

/-- Every unit outside the always-on domain loses its state, its dirty lines written back; the registers stay (R494, R754,
R765, R768). -/
def State.clearUnits (s : State) : State :=
  let s := s.writeBackAll
  { State.reset with
    regs := s.regs
    mem := s.mem.filter (fun c => !(isScratch c.1))
    imgBase := s.imgBase
    rnd := s.rnd
    parts := ⟨[], [], s.round, 0⟩
    ms := { MemSt.reset with bad := s.ms.bad }
    hdl := s.hdl
    pwr := s.pwr
    out := s.out
    numVfs := s.numVfs
    free := s.free
    nextWeave := s.nextWeave
    pending := s.pending }

/-- Issue and dispatch stop, UP ports send LINK_DOWN with a reason, and the units outside the always-on
domain are cleared (steps 1 to 5 of R754; R765). -/
def State.quiesce (s : State) (reason : Nat) : State :=
  let s := (s.rset R.weaveStatusState 0 0).dropWindows
  (s.upPorts.foldl (fun s n => s.sendDown n reason 0) s).clearUnits

/-- The entry of a module reset (R754, R814).  The module's own stretch request ends. -/
def State.enterModule (s : State) (cause : Nat) : State :=
  let s := (s.quiesce 1).tearCopy
  { s with
    regs := s.regs.filter (fun e => moduleKeeps e.1)
    rnd := { s.rnd with thermal := 0, power := 0 }
    hdl := s.hdl.restart false
    numVfs := if cause = 5 then s.numVfs else 0
    pwr := { s.pwr with stage := 1, cold := false, cause := cause, wake := false, leaving := [], partReset := [] } }

/-- A cold reset: every field but those of the store, the memories, the Round count (R47, R756, R768). -/
def State.enterCold (s : State) (cause : Nat) : State :=
  let hot := (below 71).any (fun k => s.rg R.hdlSensorLevel k == 3)
  let s := s.tearCopy
  let t := { State.reset with
    regs := s.regs.filter (fun e => keyClass e.1 == .s)
    mem := s.mem.filter (fun c => isHost c.1 && c.2 != memDflt 0 c.1)
    rnd := { RoundSt.reset with refPresent := s.rnd.refPresent }
    hdl := s.hdl.restart true
    out := s.out
    free := s.free
    pending := s.pending
    pwr := { State.reset.pwr with cause := cause, perst := s.pwr.perst } }
  if hot then t.emit (.pin "THERMTRIP_N" true) else t

/-- Any sensor stands at trip level (R766). -/
def State.tripped (s : State) : Bool := (below 71).any (fun k => s.rg R.hdlSensorLevel k == 3)

/-- Hold is left through a module reset with cause HOLD_EXIT (R766). -/
def State.leaveHold (s : State) : State := (s.enterModule 5).rset R.pwrStatusHoldState 0 3

/-- The start of a module reset: absorbed into a reset in progress, of which the least cause counts until
its exit begins (R758, R759); a wake in Hold or on its entry, unless a sensor is at trip (R766, R767). -/
def State.startModule (s : State) (cause : Nat) : State :=
  if s.pwr.off then s
  else if s.pwr.stage = 1 then { s with pwr := { s.pwr with cause := min s.pwr.cause cause } }
  else if s.pwr.stage = 2 then s
  else if s.rg R.pwrStatusHoldState 0 = 1 then (if s.tripped then s else { s with pwr := { s.pwr with wake := true } })
  else if s.rg R.pwrStatusHoldState 0 = 2 then (if s.tripped then s else s.leaveHold)
  else s.enterModule cause

/-- PERST_ASSERT: PERST_N goes low (R751, R754, R766). -/
def execPerstAssert (s : State) : Host.Outcome State Fault Refusal :=
  .next ({ s with pwr := { s.pwr with perst := true } }.startModule 2)

/-- HOT_RESET: a PCI Express hot reset (R751). -/
def execHotReset (s : State) : Host.Outcome State Fault Refusal := .next (s.startModule 3)

/-- PF_FLR: a function-level reset of the physical function (R751). -/
def execPfFlr (s : State) : Host.Outcome State Fault Refusal := .next (s.startModule 4)

/-- COLD_RST_N: held low for 1 ms, it starts a cold reset, which takes over a module reset (R751, R758). -/
def execColdRstN (s : State) : Host.Outcome State Fault Refusal :=
  if s.pwr.off then .next s
  else if s.pwr.cold ∧ s.pwr.stage ≠ 0 then
    .next (if s.pwr.stage = 1 then { s with pwr := { s.pwr with cause := min s.pwr.cause 1 } } else s)
  else .next (s.enterCold 1)

/-- POWER_ON: the input rises through 36 V while the module is Off (R769, R783). -/
def execPowerOn (s : State) : Host.Outcome State Fault Refusal :=
  if s.pwr.off ∧ ¬ s.pwr.cut then .next (s.enterCold 0) else .next s

/-- INPUT_RECONNECT: after an overvoltage disconnect the input is back within 36 V to 44 V (R783). -/
def execInputReconnect (millivolts : Nat) (s : State) : Host.Outcome State Fault Refusal :=
  if s.pwr.off ∧ s.pwr.cut ∧ 36000 ≤ millivolts ∧ millivolts ≤ 44000 then .next (s.enterCold 0) else .next s

/-- OFF: the input stood below 34 V or above 48 V for 1 ms (R783, R784).  Off keeps only what NOR holds. -/
def execOff (millivolts : Nat) (s : State) : Host.Outcome State Fault Refusal :=
  if s.pwr.off ∨ (34000 ≤ millivolts ∧ millivolts ≤ 48000) then .next s
  else
    let t := s.enterCold 0
    .next { t with pwr := { t.pwr with off := true, cut := decide (48000 < millivolts), stage := 0 } }

/-! ### Boot (R725, R733, R740, R743, R744, R755, R769) -/

/-- The log goes on from the largest number in it (R747). -/
def State.bootLog (s : State) : State :=
  s.rset R.hdlLogSeqSeq 0 (match s.hdl.log.getLast? with
    | some e => e % 2 ^ 64 + 1
    | none => 0)

/-- The valid copy of higher sequence is in force, copy 0 on a tie (R733). -/
def State.bootCopy (s : State) : State :=
  let one := s.hdl.copy1.valid && (!s.hdl.copy0.valid || decide (s.hdl.copy0.seq < s.hdl.copy1.seq))
  (s.rset R.hdlStatusCfgCopy 0 (b2n one)).readStore

/-- The valid image of higher version, slot 0 on a tie (R725). -/
def State.newerSlot (s : State) : Option Nat :=
  match s.validImage 0, s.validImage 1 with
  | some a, some b => some (if a.version < b.version then 1 else 0)
  | some _, none => some 0
  | none, some _ => some 1
  | none, none => none

/-- The slot to load, with the entry of a failed check (R725). -/
def State.bootSlot (s : State) : State × Option Nat :=
  match if s.inForce.valid then s.inForce.value 0x22 else none with
  | none => (s, s.newerSlot)
  | some v =>
    let k := leNat v
    if (s.validImage k).isSome then (s, some k)
    else (s.logEntry 3 3 k 0, if (s.validImage (1 - k)).isSome then some (1 - k) else none)

/-- Load and measure the firmware (R725, R726, R744). -/
def State.loadFw (s : State) : Option Nat → State
  | none => s
  | some k =>
    match s.slotImage k with
    | none => s
    | some i =>
      (((s.rset R.hdlStatusFwSlot 0 k).rset R.hdlFwVersion 0 i.version).rset R.hdlFwSvn 0 i.svn).extend 1 (natLe 32 i.digest)

/-- The device identifier, from the PUF's key (R740). -/
def State.bootId (s : State) : State :=
  let id := leNat (keyed "QP-YL32 ID" 0 32)
  (below 4).foldl (fun s j => s.rset R.hdlIdId j (bits id (64 * j) 64)) s

/-- The Handle's boot; answers whether the module is in recovery. -/
def State.boot (s : State) (pufOk : Bool) : State :=
  let s := (s.bootLog).logEntry 2 (if s.pwr.cold then 3 else 2) 0 0
  let s := (s.bootCopy).extend 0 (natLe 32 Config.bootRom.toNat)
  let s := if pufOk then s.bootId else s
  let r := s.bootSlot
  let s := (r.1.loadFw r.2).measureStore
  let cause := if ¬ s.inForce.valid then 1 else if ¬ pufOk then 2 else if r.2.isNone then 3 else 0
  let s := (s.rset R.hdlStatusState 0 (if cause = 0 then 1 else 2)).rset R.hdlStatusCause 0 cause
  let s := s.setNext (s.inForce.numOf 0x04)
  if cause = 0 then s.reserve s.hdl.next else s

/-! ### Memory training (R37, R38, R477 to R480, R484, R533, R536) -/

/-- Health of a channel after training: a failed channel is OUT, a PENDING one too unless deferred (R477). -/
def State.trainedHealth (s : State) (fail : List Nat) (rec ch : Nat) : Nat :=
  let st := bits rec (2 * ch) 2
  if st = 3 ∨ fail.contains ch then 3
  else if st = 2 ∧ (s.pwr.cold ∨ ¬ s.rb R.memHealthCfgDefer 0) then 3 else st

/-- Train HBM: health recorded, live channels, window bases; where the live set changed its bytes are
lost (R477 to R480, R484). -/
def State.trainHbm (s : State) (fail : List Nat) : State :=
  let rec_ := s.inForce.numOf 0x10
  let hs := (below 1024).map (fun ch => (ch, s.trainedHealth fail rec_ ch))
  let out := hs.filter (fun h => bits rec_ (2 * h.1) 2 != h.2)
  let old := (below 16).map (fun c => s.rg R.memChanLiveLive c)
  let s := hs.foldl (fun s h => s.rset R.memChanStateState h.1 h.2) s
  let s := if out.isEmpty then s else s.writeStore { CfgChange.none with health := out }
  let mask := fun (p : Nat → Bool) c => ((hs.filter (fun h => h.1 / 64 == c && p h.2)).map (fun h => 2 ^ (h.1 % 64))).sum
  let s := (below 16).foldl (fun s c => (s.rset R.memChanLiveLive c (mask (fun x => x != 3) c)).rset
    R.memChanPendingPending c (mask (fun x => x == 2) c)) s
  let n := fun c => popcount 64 (s.rg R.memChanLiveLive c)
  let gib3 := 0xC0000000
  let s := (below 16).foldl (fun s c => (s.rset R.memWindowBaseBase c (gib3 * ((below c).map n).sum)).rset
    R.memWindowSizeSize c (gib3 * n c)) s
  let s := s.rset R.memHbmEndEnd 0 (gib3 * ((below 16).map n).sum)
  if old = (below 16).map (fun c => s.rg R.memChanLiveLive c) then s
  else
    { s with
      mem := s.mem.filter (fun c => decide (0x100000000000 ≤ c.1))
      ms := { s.ms with bad := s.ms.bad.filter (fun k => decide (0x100000000000 ≤ 64 * k)) } }.rset
      R.memStatusLayoutChanged 0 1

/-- Train the Hamper tier: the channels that trained, with their capacities; those of the density of the
lowest-numbered one are live (R533, R536). -/
def State.trainHamper (s : State) (trained : List (Nat × Nat)) : State :=
  let old := (below 64).filter (fun ch => s.rb R.hampChanStateLive ch)
  let find := fun ch => (trained.find? (fun t => t.1 == ch)).map Prod.snd
  let cap := ((below 64).findSome? find).getD 0
  let live := if cap = 0 then [] else (below 64).filter (fun ch => decide (find ch = some cap))
  let s := (below 64).foldl (fun s ch => s.rset R.hampChanStateLive ch (b2n (live.contains ch))) s
  let s := (s.rset R.hampCapBytes 0 cap).rset R.hampEndEnd 0 (0x100000000000 + live.length * cap)
  let s := s.rset R.hampStatusLive 0 live.length
  if old = live ∨ s.pwr.cold then s
  else
    let hamp := fun a => decide (0x100000000000 ≤ a ∧ a < 0x200000000000)
    { s with
      mem := s.mem.filter (fun c => !(hamp c.1))
      ms := { s.ms with bad := s.ms.bad.filter (fun k => !(hamp (64 * k))) } }.rset R.hampStatusLayoutChanged 0 1

/-- The Handle writes the default set image into the last 1 MiB of HBM, measures it, and every Stake loads
it (R350, R351, R744). -/
def State.writeDefault (s : State) : State :=
  let e := s.rg R.memHbmEndEnd 0
  let base := if e < 0x100000 then 0 else e - 0x100000
  let img := fun a => decide (base ≠ 0 ∧ base ≤ a ∧ a < base + 0x100000)
  let s := { s with
    imgBase := base
    mem := s.mem.filter (fun c => !(img c.1) && c.2 != memDflt base c.1)
    ms := { s.ms with bad := s.ms.bad.filter (fun k => !(img (64 * k))) } }
  let s := (s.rset R.sfuDefaultBaseBase 0 base).extend 3 (digest ((below 0x100000).map defaultByte))
  s.radd R.sfuRestoresCount 0 1536

/-- MODULE_RESET_EXIT: the start of a reset is released; the Handle boots, memory is trained, and the
default set is written.  `pufOk` says that the PUF's key was reconstructed, `hbmFail` names the HBM
channels that fail training, `hamper` the Hamper channels that train, with their capacities (R755, R769). -/
def execModuleResetExit (pufOk : Bool) (hbmFail : List Nat) (hamper : List (Nat × Nat)) (s : State) :
    Host.Outcome State Fault Refusal :=
  let s := { s with pwr := { s.pwr with perst := false } }
  if s.pwr.off ∨ s.pwr.stage ≠ 1 then .next s
  else
    let s := { s with pwr := { s.pwr with stage := 2 } }
    let s := s.boot pufOk
    if s.recovery then .next s
    else .next (((s.trainHbm hbmFail).trainHamper hamper).writeDefault)

/-- The module's own stretch request starts again (R814). -/
def State.restartRequest (s : State) : State :=
  let step := s.rg R.roundStretchCfgStepTicks 0
  s.setRnd { s.rnd with
    thermal := if s.rb R.roundStretchCfgEnable 0 && s.hot then step else 0
    thermalAt := s.beat, thermalCool := 0
    power := if (s.rg R.hdlSensorWarn 68 : Int) ≤ s.sensed 68 then step else 0
    powerAt := s.beat, powerCool := 0
    resend := true }

/-- RESET_READY: the reset ends: the cause is recorded, ready is set, and enabled Wale ports enter DETECT;
in recovery the sequence stops at ready (R759, R767, R769, R770). -/
def execResetReady (s : State) : Host.Outcome State Fault Refusal :=
  if s.pwr.off ∨ s.pwr.stage ≠ 2 then .next s
  else
    let left := s.rg R.pwrStatusHoldState 0 == 3
    let s := { s with pwr := { s.pwr with stage := 0, cold := false } }
    let s := ((s.rset R.pwrResetCauseCause 0 s.pwr.cause).rset R.pwrStatusReady 0 1).rset R.pwrStatusHoldState 0 0
    let s := if left then s.logEntry 7 3 0 0 else s
    if s.recovery then .next s.restartRequest
    else
      let s := ((below 16).filter (fun n => s.rb R.walePortCtrlEnable n)).foldl
        (fun s n => s.rset R.walePortStatusState n 1) s
      .next s.restartRequest

/-! ### Handle restart (R751, R752) -/

/-- The Handle restarts: its request, mailbox and sideband state are lost, and a new reservation of
signature indices is made (R17, R743, R752, R768). -/
def State.restartHandle (s : State) : State :=
  let h := s.hdl
  let t := { s with hdl := { h with
    req := none
    queue := []
    staging := none
    mailbox := []
    restarting := true
    held := []
    eid := 0
    receiver := false
    events := []
    changes := h.changes.map (fun (c : CfgChange) => { c with answers := false }) } }
  let t := (t.rsat R.hdlStatusRestarts 0 1).setNext t.attLimit
  s.pinAlert ((t.reserve t.attLimit).logEntry 2 0 0 0)

/-- HANDLE_WATCHDOG: 500 ms passed without service (R751). -/
def execHandleWatchdog (s : State) : Host.Outcome State Fault Refusal :=
  if s.handleUp ∧ s.pwr.stage = 0 then .next s.restartHandle else .next s

/-- HANDLE_RESTART: a write of PWR_CTRL with handle_restart (R751, R774). -/
def execHandleRestart (value fn : Nat) (s : State) : Host.Outcome State Fault Refusal :=
  if fn = 0 ∧ bit value 2 ∧ s.barOpen 0x1000000 ∧ s.handleUp ∧ s.pwr.stage = 0 then .next s.restartHandle else .next s

/-- HANDLE_RESTART_DONE: the restart is over, and the hub writes the entries that it held, in order (R752). -/
def execHandleRestartDone (s : State) : Host.Outcome State Fault Refusal :=
  if ¬ s.hdl.restarting then .next s
  else
    let l := s.hdl.held
    .next (s.pinAlert ({ s with hdl := { s.hdl with restarting := false, held := [] } }.appendLog l))

/-! ### Partition reset (R152, R547, R753) -/

/-- Reset the fields of class P of a register block whose outer array index satisfies a test. -/
def State.clearP (s : State) (block : Nat) (p : Nat → Bool) : State :=
  let hit := fun (k : Nat) => match allFlds[k % 1024]? with
    | some f => match allRegs[f.reg]? with
      | some r => f.cls == .p && r.off / 0x10000 == block && p (k / 1024 / r.n2)
      | none => false
    | none => false
  { s with regs := smFilter (fun k => !(hit k)) s.regs }

/-- End a context's dispatched packets with records, one whose write fails being dropped without other effect, and make
the context FREE; what was not dispatched is dropped (R152). -/
def State.resetCtx (s : State) (c : Nat) : State :=
  let js := (endJobs stFaultPartitionReset (s.ctx c).jobs).filter (fun j => j.pkt.reject.isNone)
  let s := js.foldl (fun s j =>
    let d := j.fin.getD ⟨stFaultPartitionReset, 0, 0⟩
    if (d.status ≠ 0 ∨ pkCmpl j.pkt.words) ∧ (s.putRecord c j.pkt d).st = 0 then s.writeCq c j.pkt d else s) s
  let mine := fun (x : Nat) => x == c
  let s := ((s.plait.loads.filter (fun q => mine q.ctx)).flatMap PlaitLoad.left).foldl (fun s k => s.setClosed k false) s
  let s := { s with
    ctxs := smErase s.ctxs c
    rings := smFilter (fun k => k / 4 != c) s.rings
    polls := s.polls.map (fun (e : Nat × List Poll) => (e.1, e.2.filter (fun q => !(mine q.ctx))))
    waiting := s.waiting.filter (fun w => !(mine w.ctx))
    lists := s.lists.filter (fun l => !(mine l.ctx) || l.packet.isNone)
    ms := { s.ms with adds := s.ms.adds.filter (fun a => !(mine a.ctx)) }
    sfu := { s.sfu with
      queue := s.sfu.queue.filter (fun q => !(mine q.ctx)), pend := s.sfu.pend.filter (fun q => !(mine q.ctx)) }
    plait := { s.plait with loads := s.plait.loads.filter (fun q => !(mine q.ctx)) } }
  ((s.tlbDropCtx c).clearP 0x20 mine).clearP 0x48 mine

/-- Return the MAPPED frames of a context to their free lists, without writing table entries (R547). -/
def State.freeFrames (s : State) (cs : List Nat) : State :=
  ((below 1024).filter (fun p => s.rb R.poolCfgEnable p)).foldl (fun s p =>
    ((below (s.poolN p)).filter (fun i => frState (s.frec p i) == 1 && cs.contains (frCtx (s.frec p i)))).foldl
      (fun s i => (s.unage p i).pushFree p i) s) s

/-- A partition reset: descriptors, packets, frames, groups and sessions of the partition end, its Stakes
are freed and zeroed, and a table that names it stops (R152, R531, R547, R614, R657, R753). -/
def State.resetPartition (s : State) (p : Nat) : State :=
  let cs := s.ctxsOf p
  let s := (s.weaves.filter (fun w => w.ctx != 0 && w.part == p)).foldl (fun s w =>
    let s := s.releaseStakes w
    { s with weaves := s.weaves.filter (fun x => x.id != w.id) }) s
  let s := cs.foldl (fun s c => s.resetCtx c) s
  let s := (((s.freeFrames cs).dropColl p).dropVid (fun c => cs.contains c)).closeSessions p
  let s := (onesOf 64 (s.rg R.partSkeinsSkeins p)).foldl (fun s k =>
    (upFrom (24 * k) 24).foldl (fun s st => (s.zeroStake st).refreshSlots st) s) s
  let s := { s with
    lists := s.lists.filter (fun l => !(l.packet.isNone && l.part == p))
    wtab := { s.wtab with active := s.wtab.active.filter (fun e => wePart e.words != p) } }
  let named := s.jobParts.contains p
  let s := if named then
      { s with wtab := { s.wtab with waiting := [], lastOcc := none } }.endRun
    else s
  let chans := onesOf 32 (s.rg R.partResCollChannels p)
  let t := (s.clearP 0x40 (fun i => i == p)).clearP 0xA0 (fun i => chans.contains i)
  t.clearP 0xA1 (fun g => s.rg R.collGroupCfgPartition g == p)

/-- Start a partition reset, unless one of the partition or a stronger reset is in progress (R751, R753,
R758). -/
def State.startPartition (s : State) (p : Nat) : State :=
  if s.pwr.off ∨ s.pwr.stage ≠ 0 ∨ s.pwr.partReset.contains p then s
  else
    let s := (s.resetPartition p).logEntry 2 1 p 0
    { s with pwr := { s.pwr with partReset := s.pwr.partReset ++ [p] } }.rset R.pwrPartResetBusy 0 1

/-- PARTITION_RESET: a write of PWR_PART_RESET with request (R753, R774). -/
def execPartitionReset (value fn : Nat) (s : State) : Host.Outcome State Fault Refusal :=
  if fn = 0 ∧ bit value 6 ∧ s.barOpen 0x1000000 ∧ s.rb R.pwrStatusReady 0 ∧ s.rg R.pwrStatusHoldState 0 = 0 then
    .next (s.startPartition (bits value 0 6))
  else .next s

/-- PARTITION_RESET_DONE: a partition reset completes (R751, R774). -/
def execPartitionResetDone (part : Nat) (s : State) : Host.Outcome State Fault Refusal :=
  if ¬ s.pwr.partReset.contains part then .next s
  else
    let l := s.pwr.partReset.filter (fun p => p != part)
    .next ({ s with pwr := { s.pwr with partReset := l } }.rset R.pwrPartResetBusy 0 (b2n (!l.isEmpty)))

/-- The enabled partition of a virtual function (R158). -/
def State.vfPart (s : State) (vf : Nat) : Option Nat :=
  (below 64).find? (fun p => s.rb R.partCfgEnable p && s.rg R.partCfgFunction p == vf)

/-- VF_FLR: a function-level reset of a virtual function resets its partition (R158, R758). -/
def execVfFlr (vf : Nat) (s : State) : Host.Outcome State Fault Refusal :=
  if vf = 0 ∨ s.numVfs < vf then .next s
  else match s.vfPart vf with
    | some p => .next (s.startPartition p)
    | none => .next s

/-- VF_DISABLE: NumVFs falls to n, 0 where VF Enable is cleared; the partition of each virtual function
that ceases to exist is reset and disabled (R159). -/
def execVfDisable (n : Nat) (s : State) : Host.Outcome State Fault Refusal :=
  if s.numVfs ≤ n then .next s
  else
    .next ((upFrom (n + 1) (s.numVfs - n)).foldl (fun s vf =>
      match s.vfPart vf with
      | some p =>
        let s := s.startPartition p
        s.moveOwners (s.rset R.partCfgEnable p 0)
      | none => s) { s with numVfs := n })

/-- VF_ENABLE: VF Enable is set or NumVFs rises to n, at most TotalVFs, which is 0 in recovery (R154,
R733). -/
def execVfEnable (n : Nat) (s : State) : Host.Outcome State Fault Refusal :=
  if s.pwr.off ∨ s.recovery ∨ 63 < n ∨ n ≤ s.numVfs then .next s else .next { s with numVfs := n }

/-! ### Idle and Coil Nap (R760 to R762) -/

/-- Whether all 96 Stakes of a Coil are free. -/
def State.coilFree (s : State) (c : Nat) : Bool := s.rangeFree (96 * c) 96

/-- IDLE_ENTRY: a Coil whose Stakes have been free for 1,024 fabric cycles gates its arithmetic clock
(R760, R761). -/
def execIdleEntry (coil : Nat) (s : State) : Host.Outcome State Fault Refusal :=
  if coil < 16 ∧ s.rb R.pwrStatusReady 0 ∧ s.rg R.pwrStatusHoldState 0 = 0 ∧ ¬ s.recovery ∧ s.coilFree coil ∧ ¬ s.napping coil then
    .next (s.rset R.pwrStatusIdle 0 (putBits (s.rg R.pwrStatusIdle 0) coil 1 1))
  else .next s

/-- NAP_ENTRY: a Coil that has been unowned for nap_delay ms enters Coil Nap; its Stakes report state 2 and lose their
TLBs (R244, R760, R762, R767, R768). -/
def execNapEntry (coil : Nat) (s : State) : Host.Outcome State Fault Refusal :=
  if coil < 16 ∧ s.rb R.pwrStatusReady 0 ∧ s.rg R.pwrStatusHoldState 0 = 0 ∧ ¬ s.recovery ∧ s.rb R.pwrCfgNapEn 0 ∧
      ¬ s.coilOwned coil ∧ s.coilFree coil ∧ ¬ s.napping coil then
    let s := s.rset R.pwrStatusNap 0 (putBits (s.rg R.pwrStatusNap 0) coil 1 1)
    let s := (upFrom (96 * coil) 96).foldl (fun s st => s.rset R.stakeStatusState st 2) s
    let mine := fun u => decide (18 + 96 * coil ≤ u ∧ u < 114 + 96 * coil)
    let s := { s with ms := { s.ms with tlb := smFilter (fun u => !(mine u)) s.ms.tlb } }
    .next (s.logEntry 7 0 coil 0)
  else .next s

/-- NAP_EXIT_DONE: a Coil that leaves Nap has its Stakes zeroed and the default set loaded (R206, R351,
R762, R767). -/
def execNapExitDone (coil : Nat) (s : State) : Host.Outcome State Fault Refusal :=
  if ¬ s.pwr.leaving.contains coil then .next s
  else
    let s := { s with pwr := { s.pwr with leaving := s.pwr.leaving.filter (fun c => c != coil) } }
    let s := (upFrom (96 * coil) 96).foldl (fun s st =>
      ((s.zeroStake st).loadDefault st).rset R.stakeStatusState st 0) s
    let s := s.rset R.pwrStatusNap 0 (putBits (s.rg R.pwrStatusNap 0) coil 1 0)
    .next (s.logEntry 7 1 coil 0)

/-! ### Hold (R764 to R767) -/

/-- Enter Hold: the module quiesces with LINK_DOWN reason 2, and contexts are as after a module reset
(R765, R768). -/
def State.enterHold (s : State) : State :=
  let s := s.quiesce 2
  let s := { s with regs := smFilter (fun k => keyClass k != RClass.p) s.regs }
  (s.rset R.pwrStatusHoldState 0 1)

/-- Whether R764 refuses Hold. -/
def State.holdRefused (s : State) : Bool :=
  s.tableOn || s.pwr.perst || s.rg R.pwrStatusHoldState 0 == 3 ||
  s.boundCtxs.any (fun c => c != 0 && s.ctxState c != ctxReady)

/-- HOLD: a write of PWR_CTRL with hold (R764, R767). -/
def execHold (value fn : Nat) (s : State) : Host.Outcome State Fault Refusal :=
  if fn ≠ 0 ∨ ¬ bit value 0 ∨ ¬ s.barOpen 0x1000000 then .next s
  else if s.rg R.pwrStatusHoldState 0 = 1 ∨ s.rg R.pwrStatusHoldState 0 = 2 then .next s
  else if s.holdRefused ∨ s.pwr.stage ≠ 0 then .next (s.rset R.pwrStatusHoldRefused 0 1)
  else .next s.enterHold

/-- TRIP_HOLD: 1 ms after the thermal trip the module enters Hold in every case (R739, R764). -/
def execTripHold (s : State) : Host.Outcome State Fault Refusal :=
  if s.hdl.tripAt.isNone ∨ s.pwr.off ∨ s.pwr.stage ≠ 0 then .next s
  else
    let s := { s with hdl := { s.hdl with tripAt := none } }.rset R.pwrStatusTrip 0 1
    .next (if s.rg R.pwrStatusHoldState 0 = 0 then s.enterHold else s)

/-- HOLD_ENTERED: the entry of Hold completes; a wake that came meanwhile takes effect (R765, R767). -/
def execHoldEntered (s : State) : Host.Outcome State Fault Refusal :=
  if s.rg R.pwrStatusHoldState 0 ≠ 1 then .next s
  else
    let s := ((s.rset R.pwrStatusHoldState 0 2).rsat R.pwrHoldEntriesCount 0 1).logEntry 7 2 0 0
    .next (if s.pwr.wake ∧ ¬ s.tripped then s.leaveHold else { s with pwr := { s.pwr with wake := false } })

/-- WAKE: a write of PWR_CTRL with wake leaves Hold, unless a sensor is at trip (R766, R767). -/
def execWake (value fn : Nat) (s : State) : Host.Outcome State Fault Refusal :=
  if fn ≠ 0 ∨ ¬ bit value 1 ∨ ¬ s.barOpen 0x1000000 ∨ s.tripped then .next s
  else if s.rg R.pwrStatusHoldState 0 = 1 then .next { s with pwr := { s.pwr with wake := true } }
  else if s.rg R.pwrStatusHoldState 0 = 2 then .next s.leaveHold
  else .next s

end Sys2Proof.Machine
end

