-- ==== Sys2Proof/Machine/Registers.lean ====
section
/-!
DEFINITION. Host accesses: register reads and writes, bad accesses, BAR2 (R11 to R15, R148, R156, R157, R748,
R804 to R812).  A write to a register whose writes are commands of their own has that command's effect.
-/

namespace Sys2Proof.Machine

/-! ### The view of a function (R156, R157, R808) -/

/-- The offset in the physical function's BAR0 that a function's offset reaches, or none where it reaches
nothing. -/
def State.reach (s : State) (fn off : Nat) (write : Bool) : Option Nat :=
  if fn = 0 then some off
  else if off < 0x100000 then (if write ∨ 0x18 ≤ off then none else some off)
  else if off < 0x200000 then
    let c := (off - 0x100000) / 256
    let at_ := off - 0x100000 + 0x200000
    if ¬ s.fnReaches fn c then none
    else if write ∧ (off % 256 / 8 = 2 ∨ off % 256 / 8 = 4) then none
    else some at_
  else none

/-! ### Reading (R12 to R14, R805) -/

/-- Counters of cycles: what they show at a reading is free. -/
def cycleFlds : List Fld :=
  [R.partHeldCycles, R.stakeBusyCycles, R.stakeMmActiveCycles, R.stakeOperandStallCycles, R.stakeCreditWaitCycles,
    R.poolPselBusyCycles, R.plaitLoadWaitCycles, R.memAddHeldCycles, R.mmuWalkWaitCycles, R.mmuHampWaitCycles,
    R.mmuMoveHoldCycles, R.waleCreditWaitCycles, R.vidEntropyBusyCycles, R.vidEntropyHeldCycles, R.vidPixelBusyCycles,
    R.vidPixelStarvedCycles]

/-- Read a field: what the register tables say of a field whose value follows from others (R161, R180). -/
def State.readField (s : State) (f : Fld) (i : Nat) : Nat :=
  if f.id = R.partCtxStateAge.id then min (s.age i) (2 ^ 32 - 1)
  else if f.id = R.ctxStatusWaitBlocked.id then b2n (s.waitBlocked i)
  else if cycleFlds.any (fun x => x.id == f.id) then (Config.cycles f.id i s.free).toNat % 2 ^ f.width
  else match f.acc with
    | .wo => 0
    | _ => s.rg f i

/-- The value of a register. -/
def State.readReg (s : State) (r : Reg) (i : Nat) : Nat :=
  (r.flds.map (fun f => s.readField f i * 2 ^ f.lo)).sum

/-- A reading of a register that counts cycles: the next one is another. -/
def State.noteRead (s : State) (r : Reg) : State :=
  if r.flds.any (fun f => cycleFlds.any (fun x => x.id == f.id)) then { s with free := s.free + 1 } else s

/-- Whether an offset lies in the host mailbox (R748). -/
def inMailbox (off : Nat) : Bool := decide (0xF01000 ≤ off ∧ off < 0xF02000)

/-- Read 4 bytes at an aligned offset: a 32-bit register, or a half of a 64-bit one (R12, R805).  A read of the high
half with no latched value answers the half as it stands (the model's choice, log entry 27). -/
def State.read32 (s : State) (off : Nat) : State × Nat :=
  if inMailbox off then (s, s.mbox (off - 0xF01000) 4)
  else
    match regAt off with
    | some (r, i) =>
      let v := s.readReg r i
      if r.bytes = 4 then (s.noteRead r, v)
      else ({ s with latch := smSet s.latch off (v / 2 ^ 32) }.noteRead r, v % 2 ^ 32)
    | none =>
      match regAt (off - 4) with
      | some (r, i) =>
        if off < 4 ∨ r.bytes = 4 then (s, 0)
        else match smGet s.latch (off - 4) with
          | some h => ({ s with latch := smErase s.latch (off - 4) }, h)
          | none => (s.noteRead r, s.readReg r i / 2 ^ 32)
      | none => (s, 0)

/-- Read 4 or 8 bytes at an aligned offset of an open block (R806). -/
def State.readBar (s : State) (off size : Nat) : State × Nat :=
  if size = 4 then s.read32 off
  else
    match regAt off with
    | some (r, i) =>
      if r.bytes = 8 then (s.noteRead r, s.readReg r i)
      else
        let a := s.read32 off
        let b := a.1.read32 (off + 4)
        (b.1, a.2 + b.2 * 2 ^ 32)
    | none =>
      let a := s.read32 off
      let b := a.1.read32 (off + 4)
      (b.1, a.2 + b.2 * 2 ^ 32)

/-! ### Writing (R12 to R14, R148) -/

/-- Registers of a context that take writes only in FREE and READY (R148). -/
def ctxHeld : List Reg :=
  [R.ctxCfgReg, R.ctxSeedReg, R.ctxPtRootReg, R.ctxEventBaseReg, R.ctxEventCfgReg, R.ctxCqBaseReg, R.ctxCqCfgReg,
    R.ctxCqIdxAddrReg, R.ctxRingBaseReg, R.ctxRingCfgReg, R.ctxRingIdxAddrReg]

/-- Whether a register's RW fields take a write now (R148, R561, R645, R646, R661). -/
def State.takesWrite (s : State) (r : Reg) (i : Nat) : Bool :=
  if ctxHeld.any (fun x => x.id == r.id) then
    decide (s.ctxState (i / r.n2) = ctxFree ∨ s.ctxState (i / r.n2) = ctxReady)
  else if [R.poolHbmReg, R.poolHampReg, R.poolTableReg, R.poolCountsReg].any (fun x => x.id == r.id) then
    !(s.rb R.poolCfgEnable i)
  else if r.id = R.collChanCfgReg.id then (s.collOps i).isEmpty
  else if r.id = R.collGroupRanksReg.id ∨ r.id = R.collGroupSeqReg.id then !(s.rb R.collGroupCfgEnable i)
  else if r.id = R.vidSyntaxBaseReg.id ∨ r.id = R.vidSyntaxSizeReg.id then
    (below 512).all (fun n => decide (s.rg R.vidSessionState n = 0 ∨ s.rg R.vidSessionCluster n ≠ i))
  else true

/-- Whether an RW field takes a value: values that its table says are ignored leave it (R102 to R105,
R160, R193, R194, R516, R518, R558, R606, R644, R688, R717, R774). -/
def takesValue (f : Fld) (x : Nat) : Bool :=
  if [R.partCtxSchedShare, R.memHealthCfgCeLimit, R.memScrubCfgHours, R.hampCfgTimeoutUs, R.collCfgTimeout,
      R.pwrCfgNapDelay].any (fun y => y.id == f.id) then x != 0
  else if f.id = R.cmdPollCfgBudget.id then decide (1 ≤ x ∧ x ≤ 4096)
  else if f.id = R.memHealthCfgWindowLog2.id then decide (10 ≤ x ∧ x ≤ 31)
  else if f.id = R.memHoopCfgN.id then decide (1 ≤ x ∧ x ≤ 1024)
  else if f.id = R.collCfgEager.id then decide (x ≤ 256)
  else if f.id = R.vidCfgRunahead.id then decide (1 ≤ x ∧ x ≤ 8)
  else if f.id = R.fltRingCfgLog2Size.id then decide (6 ≤ x ∧ x ≤ 16)
  else if f.id = R.waleLtCtrlLoop.id then x != 3
  else if f.id = R.weaveCtrlCycleLen.id then decide (1 ≤ x ∧ x ≤ 2 ^ 24)
  else true

/-- Write a field from a register's value (R14). -/
def State.writeField (s : State) (open_ : Bool) (v i : Nat) (f : Fld) : State :=
  let x := bits v f.lo f.width
  match f.acc with
  | .rw => if open_ && takesValue f x then s.rset f i x else s
  | .rw1c => if x = 0 then s else s.rset f i (s.rg f i - Nat.land x (s.rg f i))
  | _ => s

/-- Thresholds of a sensor once the waiting store changes are done. -/
def State.limitOf (s : State) (k : Nat) : Nat × Nat :=
  match ((s.hdl.changes.flatMap CfgChange.limits).filter (fun h => h.1 == k)).getLast? with
  | some h => h.2
  | none => (s.rg R.hdlSensorWarn k, s.rg R.hdlSensorCrit k)

/-- A write of HDL_SENSORk: thresholds above the limits of R738 are ignored, others are recorded in
SENSOR_LIMITS first (R734, R750). -/
def State.writeLimits (s : State) (k v : Nat) : State :=
  let lim := sensorLimits k
  let old := s.limitOf k
  let w := if bits v 32 16 ≤ lim.1 then bits v 32 16 else old.1
  let c := if bits v 48 16 ≤ lim.2 then bits v 48 16 else old.2
  if (w, c) = old then s else s.queueChange { CfgChange.none with limits := [(k, w, c)] }

/-- The state that a command of its own leaves. -/
def State.ran (s : State) (o : Host.Outcome State Fault Refusal) : State :=
  match o with
  | .next t => t
  | _ => s

/-- The commands that the set bits of a value make, one after the other. -/
def State.ranBits (s : State) (v : Nat) (l : List (Nat × (State → Host.Outcome State Fault Refusal))) : State :=
  l.foldl (fun s x => if bit v x.1 then s.ran (x.2 s) else s) s

/-- A start of a test engine by a register write: whether its checker locks is free (R602). -/
def State.ltStartFree (s : State) (i v fn : Nat) : Host.Outcome State Fault Refusal :=
  let f := s.fresh
  execLtStart i v fn (f.1 % 2 == 1) f.2

/-- A stop of a test engine by a register write: what it has counted is free (R602). -/
def State.ltStopFree (s : State) (i v fn : Nat) : Host.Outcome State Fault Refusal :=
  let f := s.fresh
  let g := f.2.fresh
  let r := (below 8).foldl (fun (r : State × List Nat) _ => let h := r.1.fresh; (h.2, h.1 :: r.2)) (g.2, [])
  execLtStop i v fn f.1 g.1 r.2 r.1

/-- A write whose effect is a command of its own: that command's effect (R12); none for the other registers and values.
Several command bits of PWR_CTRL or WALE_LT_CTRL act in the order hold, wake, handle_restart, and start, stop, inject
(the model's choice, log entry 44). -/
def State.rowWrite (s : State) (fn : Nat) (r : Reg) (i v : Nat) : Option State :=
  let is := fun (x : Reg) => r.id == x.id
  if is R.roundCfgReg then
    some (s.ran (if bits v 0 1 = s.rg R.roundCfgRole 0 then execRoundLenWrite v s else execRoleChange v s))
  else if is R.roundCountSetReg then some (s.ran (execRoundCountSet v s))
  else if is R.roundStretchReqReg then some (s.ran (execRoundStretchReq (bits v 0 16) s))
  else if is R.partCfgReg then
    some (s.ran (if bits v 0 1 = s.rg R.partCfgEnable i then execPartConfigWrite i 0 v fn s else execPartEnable i v fn s))
  else if is R.partSkeinsReg then some (s.ran (execPartConfigWrite i 1 v fn s))
  else if is R.partResReg then some (s.ran (execPartConfigWrite i 2 v fn s))
  else if is R.partVidReg then some (s.ran (execPartConfigWrite i 3 v fn s))
  else if is R.memMapoutReg then some (s.ran (execMemMapout v fn s))
  else if is R.creelWaycfgReg then some (s.ran (execCreelWaycfg i v fn s))
  else if is R.poolCfgReg then some (s.ran (execPoolEnable i v fn s))
  else if is R.walePortCtrlReg then some (s.ran (execPortEnable i v fn s))
  else if is R.collGroupCfgReg then some (s.ran (execGroupEnable i v fn s))
  else if is R.glbBar2BaseReg then some (if fn = 0 then s.rset R.glbBar2BaseBase 0 (bits v 0 48) else s)
  else if is R.pwrCtrlReg then
    some (s.ranBits v [(0, execHold v fn), (1, execWake v fn), (2, execHandleRestart v fn)])
  else if is R.pwrPartResetReg then some (s.ran (execPartitionReset v fn s))
  else if is R.weaveCtrlReg ∧ bits v 17 4 ≠ 0 then
    some (s.ran (if bit v 17 then execWeaveLoad v s else if bit v 18 then execWeaveArm v s
      else if bit v 19 then execWeaveStop v s else execWeaveStopNow v s))
  else if is R.ctxCtrlReg then
    match bits v 0 3 with
    | 0 => none
    | 1 => some (s.ran (execBind i fn s))
    | 2 => some (s.ran (execActivate i fn s))
    | 3 => some (s.ran (execDrain i fn s))
    | 4 => some (s.ran (execClearError i fn s))
    | 5 => some (s.ran (execRelease i fn s))
    | _ => none
  else if is R.waleLtCtrlReg ∧ (bits v 4 2 ≠ 0 ∨ bit v 16) then
    some (s.ranBits v [(4, fun s => s.ltStartFree i v fn), (5, fun s => s.ltStopFree i v fn), (16, execLtInject i v fn)])
  else if is R.fltRestoreReg ∧ bit v 0 then some (s.ran (execRestoreStart v fn s))
  else none

/-- Write a whole register. -/
def State.writeReg (s : State) (fn : Nat) (r : Reg) (i v : Nat) : State :=
  match s.rowWrite fn r i v with
  | some t => t
  | none =>
    if r.id = R.ctxCtrlReg.id then
      if 6 ≤ bits v 0 3 then s.ctxCmd fn i false s else s
    else if r.id = R.hdlSensorReg.id then s.writeLimits i v
    else
      let open_ := s.takesWrite r i
      let s := r.flds.foldl (fun s f => s.writeField open_ v i f) s
      let s := if r.id ≠ R.memScrubCfgReg.id ∨ s.rb R.memScrubCfgEnable 0 then s else s.rset R.memStatusScrubActive 0 0
      let s := if r.id = R.walePairReg.id then ([7, 15].filter (fun n => s.isUp n)).foldl (fun s n => s.notePair n) s else s
      if r.id = R.fltRingCiReg.id ∧ ¬ s.fltRingFull then s.rset R.fltStatusRingFull 0 0 else s

/-- The low half of a register as its RW fields hold it, for a commit of the high half alone (R12). -/
def State.keptLow (s : State) (r : Reg) (i : Nat) : Nat :=
  ((r.flds.filter (fun f => decide (f.acc = .rw))).map (fun f => s.rg f i * 2 ^ f.lo)).sum % 2 ^ 32

/-- The bytes of the mailbox that the host writes: req_seq, opcode, length and the payload (R748). -/
def hostByte (o : Nat) : Bool := decide (o < 3 ∨ 6 ≤ o)

/-- Write bytes of the mailbox. -/
def State.writeMbox (s : State) (o : Nat) (l : List Byte) : State :=
  ((l.zip (upFrom o l.length)).filter (fun x => hostByte x.2)).foldl (fun s x => s.setMbox x.2 [x.1]) s

/-- Write 4 bytes at an aligned offset (R12, R805). -/
def State.write32 (s : State) (fn off v : Nat) : State :=
  if inMailbox off then s.writeMbox (off - 0xF01000) (natLe 4 v)
  else
    match regAt off with
    | some (r, i) => if r.bytes = 4 then s.writeReg fn r i v else { s with staged := smSet s.staged off v }
    | none =>
      match regAt (off - 4) with
      | some (r, i) =>
        if off < 4 ∨ r.bytes = 4 then s
        else
          let low := (smGet s.staged (off - 4)).getD (s.keptLow r i)
          { s with staged := smErase s.staged (off - 4) }.writeReg fn r i (low + v * 2 ^ 32)
      | none => s

/-- Write 4 or 8 bytes at an aligned offset of an open block (R806).  A write of a whole 64-bit register discards a low
half that is staged (the model's choice, log entry 27). -/
def State.writeBar (s : State) (fn off size v : Nat) : State :=
  if size = 4 then s.write32 fn off (v % 2 ^ 32)
  else
    match regAt off with
    | some (r, i) =>
      if r.bytes = 8 then { s with staged := smErase s.staged off }.writeReg fn r i (v % 2 ^ 64)
      else (s.write32 fn off (v % 2 ^ 32)).write32 fn (off + 4) (v / 2 ^ 32 % 2 ^ 32)
    | none => (s.write32 fn off (v % 2 ^ 32)).write32 fn (off + 4) (v / 2 ^ 32 % 2 ^ 32)

/-- Whether an access is of 32 or 64 bits, naturally aligned (R11, R806). -/
def goodAccess (off size : Nat) : Bool := (size == 4 || size == 8) && off % size == 0

/-- Bytes of a function's BAR0 (R156, R804). -/
def barBytes (fn : Nat) : Nat := if fn = 0 then 0x4000000 else 0x200000

/-- REGISTER_WRITE: a host access of 32 or 64 bits to BAR0: a write stores or ignores each field by its
access type; a read answers the register's value (R11 to R15, R805 to R808).  A write that is a command of its own has
that command's effect (log entry 44). -/
def execRegisterWrite (fn off size : Nat) (write : Bool) (value : Nat) (s : State) : Host.Outcome State Fault Refusal :=
  if ¬ goodAccess off size ∨ barBytes fn ≤ off ∨ s.pwr.off ∨ (fn ≠ 0 ∧ ¬ s.fnEnabled fn) then .next s
  else
    match s.reach fn off write with
    | none => .next (if write then s else s.emit (.readData 0))
    | some o =>
      if ¬ s.barOpen o then .next (if write then s else s.emit (.readData 0))
      else if write then .next (s.writeBar fn o size value)
      else
        let r := s.readBar o size
        .next (r.1.emit (.readData r.2))

/-- BAR0_BAD_ACCESS: an access of 8 or 16 bits, or one that is not naturally aligned, reads zero or is
discarded, and its offset is recorded in GLB_ERR (R806). -/
def execBar0BadAccess (fn off size : Nat) (write : Bool) (s : State) : Host.Outcome State Fault Refusal :=
  if goodAccess off size ∨ barBytes fn ≤ off ∨ s.pwr.off ∨ (fn ≠ 0 ∧ ¬ s.fnEnabled fn) then .next s
  else
    let s := ((s.rset R.glbErrOffset 0 off).rset R.glbErrValid 0 1).rsat R.glbErrCount 0 1
    .next (if write then s else s.emit (.readData 0))

/-! ### BAR2 (R810 to R812) -/

/-- Module physical address of a BAR2 offset: the bits of base below the BAR2 size are ignored (R810). -/
def State.bar2Addr (s : State) (log2 off : Nat) : Nat :=
  s.rg R.glbBar2BaseBase 0 / 2 ^ log2 * 2 ^ log2 + off

/-- Whether BAR2 reaches an address (R811). -/
def State.bar2Reaches (s : State) (a : Nat) : Bool := decide (a < 0x800000000000) && s.region a != .unbacked

/-- Read the pieces of a BAR2 range: the bytes, and whether the completion is poisoned (R487, R811). -/
def bar2Read : List (Nat × Nat) → State → List Byte → Bool → State × List Byte × Bool
  | [], s, bs, bad => (s, bs, bad)
  | (a, n) :: ps, s, bs, bad =>
    if ¬ s.bar2Reaches a then bar2Read ps s (bs ++ natLe n 0) bad
    else
      let r := s.pread noCtx a n true
      bar2Read ps r.s (bs ++ if r.st = 0 then r.bs else natLe n 0) (bad || r.st != 0)

/-- Write the pieces of a BAR2 range (R811). -/
def bar2Write : List (Nat × Nat) → List Byte → State → State
  | [], _, s => s
  | (a, n) :: ps, bs, s =>
    bar2Write ps (bs.drop n) (if s.bar2Reaches a then (s.pwrite noCtx a (bs.take n) true).s else s)

/-- BAR2_ACCESS: a host access at a BAR2 offset reaches memory without translation and with policy
NO_ALLOCATE; it is neither charged nor held.  `log2` gives the BAR2 size, `err` the error that a read
meets (R487, R810, R811).  Before the module is ready the spec gives a read no value. -/
def execBar2Access (log2 off n : Nat) (write : Bool) (data : List Byte) (err : Nat) (s : State) :
    Host.Outcome State Fault Refusal :=
  if log2 < 30 ∨ 38 < log2 ∨ 2 ^ log2 < off + n ∨ s.pwr.off then .next s
  else if ¬ s.barOpen 0x600000 then
    if write then .next s else let f := s.fresh; .next (f.2.emit (.readData f.1))
  else
    let a := s.bar2Addr log2 off
    if write then .next (bar2Write (spans 64 a n) (data.take n ++ natLe (n - data.length) 0) s)
    else
      let e := if s.bar2Reaches a then s.meetError a err else (s, false)
      if e.2 then .next (e.1.emit (.poisoned a))
      else
        let r := bar2Read (spans 64 a n) e.1 [] false
        .next (r.1.emit (if r.2.2 then .poisoned a else .readData (leNat r.2.1)))

/-- GLB_BAR2_BASE_WRITE: a write of GLB_BAR2_BASE applies to the BAR2 requests after it (R809, R812). -/
def execGlbBar2BaseWrite (value fn : Nat) (s : State) : Host.Outcome State Fault Refusal :=
  if fn ≠ 0 ∨ ¬ s.barOpen 0 then .next s else .next (s.rset R.glbBar2BaseBase 0 (bits value 0 48))

end Sys2Proof.Machine
end

