-- ==== Sys2Proof/Machine/Stream.lean ====
section
/-!
DEFINITION. The stream of a Stake: descriptors fetched ahead into its queue, checked as they are read, dispatched
in order and started (R219 to R231, R344).
-/

namespace Sys2Proof.Machine

/-- Whether the fields that an op gives a descriptor are malformed in themselves (R220): those that the rules of its op
constrain, tables and operations that it names apart. -/
def opMalformed (wv : Weave) (w : Nat) : Bool :=
  match dOp w with
  | 0x01 => mmMalformed wv true w || paramsBad w mmParams
  | 0x02 => mmrMalformed wv w
  | 0x03 => convMalformed wv w
  | 0x04 => wconvMalformed wv w
  | 0x05 => attnMalformed wv w
  | 0x06 => normMalformed wv w
  | 0x07 => smaxMalformed wv w
  | 0x08 => sfuMalformed wv w
  | 0x09 => vprogMalformed w
  | 0x0A => moveMalformed wv w
  | 0x0B => packMalformed wv w
  | 0x0C => cropMalformed wv w
  | 0x0D => poolMalformed wv w
  | 0x0E => scatterMalformed wv w
  | _ => pselMalformed w

/-- The next descriptor of a stream, whose bits are given, is dispatched: it starts, or waits in its queue for its tiles
(R229, R230). -/
def State.dispatchDesc (s : State) (stake : Nat) (x : StakeSt) (w : Nat) : State :=
  let y := { x with next := x.next + 1, fetched := x.fetched.drop 1 }
  if x.clear x.next w then s.startDesc stake y x.next w
  else s.setStake stake { y with queued := y.queued ++ [(x.next, w)] }

/-- Descriptors that a Stake's queue holds, of at most 64 (R195, R219). -/
def StakeSt.held (x : StakeSt) : Nat := x.started.length + x.queued.length + x.fetched.length

/-- A Stake fetches the next descriptor of its stream into its queue, and checks it (R187, R219, R220); one that nothing
is ahead of is dispatched where its barrier and credit admit it. -/
def State.fetchDesc (s : State) (wv : Weave) (stake : Nat) (x : StakeSt) : State :=
  let i := x.next + x.fetched.length
  if x.total ≤ i ∨ 64 ≤ x.held then s
  else
    let va := x.stream + 128 * i
    let rd := s.vread (stakeRq wv stake) va 128
    let w := leNat rd.bs
    let y := { x with fetched := x.fetched ++ [w] }
    if !wv.launch && s.regulated rd.s wv.ctx then s
    else if rd.st ≠ 0 then rd.s.stopWeave wv rd.st stake (va + rd.off)
    else if descMalformed wv w ∨ opMalformed wv w then rd.s.stopWeave wv stWeaveImage stake i
    else if x.fetched.isEmpty ∧ s.mayDispatch stake x w then rd.s.dispatchDesc stake y w
    else rd.s.setStake stake y

/-- DESCRIPTOR_START: a dispatched descriptor whose tiles have come free starts; else the oldest fetched one is dispatched
where its barrier and credit admit it; else the Stake fetches ahead (R187, R219, R220, R229 to R231).  How far ahead a
Stake has fetched when a malformed descriptor stops it is a matter of timing (log entry 49). -/
def execDescriptorStart (stake : Nat) (s : State) : Host.Outcome State Fault Refusal :=
  match smGet s.stakes stake, s.weaveOf stake with
  | some x, some wv =>
    if wv.stop.isSome then .next s
    else
      match x.queued.find? (fun q => x.clear q.1 q.2) with
      | some q => .next (s.startDesc stake { x with queued := x.queued.filter (fun r => r.1 != q.1) } q.1 q.2)
      | none =>
        match x.fetched with
        | w :: _ => .next (if s.mayDispatch stake x w then s.dispatchDesc stake x w else s.fetchDesc wv stake x)
        | [] => .next (s.fetchDesc wv stake x)
  | _, _ => .next s

end Sys2Proof.Machine
end

