-- ==== Sys2Proof/Machine/Dispatch.lean ====
section
/-!
DEFINITION. The dispatch of the commands: one arm for each constructor of `Instr`, each a call of
that command's meaning on the state whose queue is what waits behind it.
-/

namespace Sys2Proof.Machine

def exec (i : Instr) (s : State) : Host.Outcome State Fault Refusal :=
  match i with
  | .registerWrite fn off size write value => Sys2Proof.Machine.execRegisterWrite fn off size write value s
  | .bar0BadAccess fn off size write => Sys2Proof.Machine.execBar0BadAccess fn off size write s
  | .bar2Access log2 off n write data err => Sys2Proof.Machine.execBar2Access log2 off n write data err s
  | .glbBar2BaseWrite value fn => Sys2Proof.Machine.execGlbBar2BaseWrite value fn s
  | .roundBoundary => Sys2Proof.Machine.execRoundBoundary s
  | .roundSync port count depth len s2 offset => Sys2Proof.Machine.execRoundSync port count depth len s2 offset s
  | .roundLen port len round => Sys2Proof.Machine.execRoundLen port len round s
  | .delayReqSend t1 => Sys2Proof.Machine.execDelayReqSend t1 s
  | .delayReq port id t2 t3 => Sys2Proof.Machine.execDelayReq port id t2 t3 s
  | .delayResp port id t2 t3 t4 => Sys2Proof.Machine.execDelayResp port id t2 t3 t4 s
  | .followerLock => Sys2Proof.Machine.execFollowerLock s
  | .noLockRetry => Sys2Proof.Machine.execNoLockRetry s
  | .lossOfLock => Sys2Proof.Machine.execLossOfLock s
  | .referenceLoss => Sys2Proof.Machine.execReferenceLoss s
  | .masterLock => Sys2Proof.Machine.execMasterLock s
  | .roundCountSet value => Sys2Proof.Machine.execRoundCountSet value s
  | .roleChange value => Sys2Proof.Machine.execRoleChange value s
  | .roundLenWrite value => Sys2Proof.Machine.execRoundLenWrite value s
  | .stretch port origin n amount => Sys2Proof.Machine.execStretch port origin n amount s
  | .thermalStretchStep => Sys2Proof.Machine.execThermalStretchStep s
  | .thermalStretchWithdraw => Sys2Proof.Machine.execThermalStretchWithdraw s
  | .powerStretchStep => Sys2Proof.Machine.execPowerStretchStep s
  | .powerStretchWithdraw => Sys2Proof.Machine.execPowerStretchWithdraw s
  | .roundStretchReq amount => Sys2Proof.Machine.execRoundStretchReq amount s
  | .weaveLoad value => Sys2Proof.Machine.execWeaveLoad value s
  | .weaveLoadDone => Sys2Proof.Machine.execWeaveLoadDone s
  | .weaveArm value => Sys2Proof.Machine.execWeaveArm value s
  | .weaveStop value => Sys2Proof.Machine.execWeaveStop value s
  | .weaveStopNow value => Sys2Proof.Machine.execWeaveStopNow value s
  | .entryAccept idx occ => Sys2Proof.Machine.execEntryAccept idx occ s
  | .fltScheduleOverrun => Sys2Proof.Machine.execFltScheduleOverrun s
  | .linkSlotFinish idx occ => Sys2Proof.Machine.execLinkSlotFinish idx occ s
  | .contextPoll ctx failMask => Sys2Proof.Machine.execContextPoll ctx failMask s
  | .packetFetch ctx ring fail => Sys2Proof.Machine.execPacketFetch ctx ring fail s
  | .fetchContinue ctx ring fail => Sys2Proof.Machine.execFetchContinue ctx ring fail s
  | .packetDispatch ctx ring => Sys2Proof.Machine.execPacketDispatch ctx ring s
  | .nop ctx ring slot => Sys2Proof.Machine.execNop ctx ring slot s
  | .eventSignal ctx ring slot => Sys2Proof.Machine.execEventSignal ctx ring slot s
  | .waitMem ctx ring => Sys2Proof.Machine.execWaitMem ctx ring s
  | .writeImm ctx ring slot => Sys2Proof.Machine.execWriteImm ctx ring slot s
  | .timestamp ctx ring slot => Sys2Proof.Machine.execTimestamp ctx ring slot s
  | .copy ctx ring slot => Sys2Proof.Machine.execCopy ctx ring slot s
  | .fill ctx ring slot => Sys2Proof.Machine.execFill ctx ring slot s
  | .weaveRun ctx ring slot => Sys2Proof.Machine.execWeaveRun ctx ring slot s
  | .collective ctx ring slot => Sys2Proof.Machine.execCollective ctx ring slot s
  | .prefetch ctx ring slot => Sys2Proof.Machine.execPrefetch ctx ring slot s
  | .place ctx ring slot => Sys2Proof.Machine.execPlace ctx ring slot s
  | .tlbInvalidate ctx ring slot => Sys2Proof.Machine.execTlbInvalidate ctx ring slot s
  | .sfuTableLoad ctx ring slot => Sys2Proof.Machine.execSfuTableLoad ctx ring slot s
  | .sfuBind ctx ring slot => Sys2Proof.Machine.execSfuBind ctx ring slot s
  | .plaitTableLoad ctx ring slot => Sys2Proof.Machine.execPlaitTableLoad ctx ring slot s
  | .plaitSlotWrite key => Sys2Proof.Machine.execPlaitSlotWrite key s
  | .vidOpen ctx ring slot => Sys2Proof.Machine.execVidOpen ctx ring slot s
  | .vidDecode ctx ring slot => Sys2Proof.Machine.execVidDecode ctx ring slot s
  | .vidEncode ctx ring slot => Sys2Proof.Machine.execVidEncode ctx ring slot s
  | .vidClose ctx ring slot => Sys2Proof.Machine.execVidClose ctx ring slot s
  | .sessionClosed session => Sys2Proof.Machine.execSessionClosed session s
  | .kvUnpark ctx ring slot => Sys2Proof.Machine.execKvUnpark ctx ring slot s
  | .packetComplete ctx ring slot => Sys2Proof.Machine.execPacketComplete ctx ring slot s
  | .msixModeratedSend ctx => Sys2Proof.Machine.execMsixModeratedSend ctx s
  | .flushedRecordWrite ctx => Sys2Proof.Machine.execFlushedRecordWrite ctx s
  | .bind ctx fn => Sys2Proof.Machine.execBind ctx fn s
  | .activate ctx fn => Sys2Proof.Machine.execActivate ctx fn s
  | .drain ctx fn => Sys2Proof.Machine.execDrain ctx fn s
  | .drainDone ctx => Sys2Proof.Machine.execDrainDone ctx s
  | .clearError ctx fn => Sys2Proof.Machine.execClearError ctx fn s
  | .release ctx fn => Sys2Proof.Machine.execRelease ctx fn s
  | .vfFlr vf => Sys2Proof.Machine.execVfFlr vf s
  | .vfDisable n => Sys2Proof.Machine.execVfDisable n s
  | .partEnable part value fn => Sys2Proof.Machine.execPartEnable part value fn s
  | .partConfigWrite part reg value fn => Sys2Proof.Machine.execPartConfigWrite part reg value fn s
  | .overBound id => Sys2Proof.Machine.execOverBound id s
  | .contextUrgent ctx => Sys2Proof.Machine.execContextUrgent ctx s
  | .energyAttribution energy => Sys2Proof.Machine.execEnergyAttribution energy s
  | .descriptorStart stake => Sys2Proof.Machine.execDescriptorStart stake s
  | .descriptorComplete stake idx => Sys2Proof.Machine.execDescriptorComplete stake idx s
  | .weaveComplete id => Sys2Proof.Machine.execWeaveComplete id s
  | .mm stake idx => Sys2Proof.Machine.execMm stake idx s
  | .mmr stake idx => Sys2Proof.Machine.execMmr stake idx s
  | .conv stake idx => Sys2Proof.Machine.execConv stake idx s
  | .wconv stake idx => Sys2Proof.Machine.execWconv stake idx s
  | .attn stake idx => Sys2Proof.Machine.execAttn stake idx s
  | .norm stake idx => Sys2Proof.Machine.execNorm stake idx s
  | .smax stake idx => Sys2Proof.Machine.execSmax stake idx s
  | .sfu stake idx => Sys2Proof.Machine.execSfu stake idx s
  | .vprog stake idx => Sys2Proof.Machine.execVprog stake idx s
  | .move stake idx => Sys2Proof.Machine.execMove stake idx s
  | .encode stake idx => Sys2Proof.Machine.execEncode stake idx s
  | .decode stake idx => Sys2Proof.Machine.execDecode stake idx s
  | .compact stake idx => Sys2Proof.Machine.execCompact stake idx s
  | .build stake idx => Sys2Proof.Machine.execBuild stake idx s
  | .crop stake idx => Sys2Proof.Machine.execCrop stake idx s
  | .pool stake idx => Sys2Proof.Machine.execPool stake idx s
  | .scatterAdd stake idx => Sys2Proof.Machine.execScatterAdd stake idx s
  | .stepBegin stake idx => Sys2Proof.Machine.execStepBegin stake idx s
  | .stepEnd stake idx => Sys2Proof.Machine.execStepEnd stake idx s
  | .pselWrite stake idx => Sys2Proof.Machine.execPselWrite stake idx s
  | .pselSelect stake idx => Sys2Proof.Machine.execPselSelect stake idx s
  | .vadd stake => Sys2Proof.Machine.execVadd stake s
  | .vsub stake => Sys2Proof.Machine.execVsub stake s
  | .vmul stake => Sys2Proof.Machine.execVmul stake s
  | .vfma stake => Sys2Proof.Machine.execVfma stake s
  | .vmax stake => Sys2Proof.Machine.execVmax stake s
  | .vmin stake => Sys2Proof.Machine.execVmin stake s
  | .vabs stake => Sys2Proof.Machine.execVabs stake s
  | .vneg stake => Sys2Proof.Machine.execVneg stake s
  | .vcmplt stake => Sys2Proof.Machine.execVcmplt stake s
  | .vcmpeq stake => Sys2Proof.Machine.execVcmpeq stake s
  | .vsel stake => Sys2Proof.Machine.execVsel stake s
  | .vand stake => Sys2Proof.Machine.execVand stake s
  | .vor stake => Sys2Proof.Machine.execVor stake s
  | .vxor stake => Sys2Proof.Machine.execVxor stake s
  | .viadd stake => Sys2Proof.Machine.execViadd stake s
  | .vshl stake => Sys2Proof.Machine.execVshl stake s
  | .vshr stake => Sys2Proof.Machine.execVshr stake s
  | .vcvti stake => Sys2Proof.Machine.execVcvti stake s
  | .vcvtf stake => Sys2Proof.Machine.execVcvtf stake s
  | .vsfu stake => Sys2Proof.Machine.execVsfu stake s
  | .vexp2 stake => Sys2Proof.Machine.execVexp2 stake s
  | .vbcast stake => Sys2Proof.Machine.execVbcast stake s
  | .vidx stake => Sys2Proof.Machine.execVidx stake s
  | .vrsum stake => Sys2Proof.Machine.execVrsum stake s
  | .vrmax stake => Sys2Proof.Machine.execVrmax stake s
  | .vmovs stake => Sys2Proof.Machine.execVmovs stake s
  | .vld stake => Sys2Proof.Machine.execVld stake s
  | .vst stake => Sys2Proof.Machine.execVst stake s
  | .vlda stake => Sys2Proof.Machine.execVlda stake s
  | .vsta stake => Sys2Proof.Machine.execVsta stake s
  | .saddi stake => Sys2Proof.Machine.execSaddi stake s
  | .slui stake => Sys2Proof.Machine.execSlui stake s
  | .sori stake => Sys2Proof.Machine.execSori stake s
  | .sadd stake => Sys2Proof.Machine.execSadd stake s
  | .smul stake => Sys2Proof.Machine.execSmul stake s
  | .bne stake => Sys2Proof.Machine.execBne stake s
  | .blt stake => Sys2Proof.Machine.execBlt stake s
  | .jmp stake => Sys2Proof.Machine.execJmp stake s
  | .endProgram stake => Sys2Proof.Machine.execEndProgram stake s
  | .vprogInstructionLimit stake => Sys2Proof.Machine.execVprogInstructionLimit stake s
  | .memMapout value fn => Sys2Proof.Machine.execMemMapout value fn s
  | .creelRequest who addr n write noAlloc data err => Sys2Proof.Machine.execCreelRequest who addr n write noAlloc data err s
  | .ceWindowEnd => Sys2Proof.Machine.execCeWindowEnd s
  | .patrolScrubRead ch ca err last => Sys2Proof.Machine.execPatrolScrubRead ch ca err last s
  | .creelWaycfg coil value fn => Sys2Proof.Machine.execCreelWaycfg coil value fn s
  | .scratchReady coil => Sys2Proof.Machine.execScratchReady coil s
  | .addRequest id => Sys2Proof.Machine.execAddRequest id s
  | .orderedAdd id => Sys2Proof.Machine.execOrderedAdd id s
  | .heldAddAdmit id => Sys2Proof.Machine.execHeldAddAdmit id s
  | .doneMarker id => Sys2Proof.Machine.execDoneMarker id s
  | .hamperTimeout ch => Sys2Proof.Machine.execHamperTimeout ch s
  | .poolEnable pool value fn => Sys2Proof.Machine.execPoolEnable pool value fn s
  | .promote id => Sys2Proof.Machine.execPromote id s
  | .demote id => Sys2Proof.Machine.execDemote id s
  | .listCopy id => Sys2Proof.Machine.execListCopy id s
  | .map id => Sys2Proof.Machine.execMap id s
  | .unmap id => Sys2Proof.Machine.execUnmap id s
  | .portEnable port value fn => Sys2Proof.Machine.execPortEnable port value fn s
  | .signalDetect port => Sys2Proof.Machine.execSignalDetect port s
  | .trainingDone port => Sys2Proof.Machine.execTrainingDone port s
  | .pairLock port reversed polarity => Sys2Proof.Machine.execPairLock port reversed polarity s
  | .ident port id peerPort part master running => Sys2Proof.Machine.execIdent port id peerPort part master running s
  | .trainFail port => Sys2Proof.Machine.execTrainFail port s
  | .returnToDetect port => Sys2Proof.Machine.execReturnToDetect port s
  | .linkDown port reason => Sys2Proof.Machine.execLinkDown port reason s
  | .linkLoss port lock => Sys2Proof.Machine.execLinkLoss port lock s
  | .flitReceive port k errs flit => Sys2Proof.Machine.execFlitReceive port k errs flit s
  | .flitTransmit port => Sys2Proof.Machine.execFlitTransmit port s
  | .retry port seq => Sys2Proof.Machine.execRetry port seq s
  | .retryTimer port => Sys2Proof.Machine.execRetryTimer port s
  | .credit port slots => Sys2Proof.Machine.execCredit port slots s
  | .writeMessage port vc => Sys2Proof.Machine.execWriteMessage port vc s
  | .addMessage port vc => Sys2Proof.Machine.execAddMessage port vc s
  | .ltStart engine value fn sync => Sys2Proof.Machine.execLtStart engine value fn sync s
  | .ltStop engine value fn nbits errors lanes => Sys2Proof.Machine.execLtStop engine value fn nbits errors lanes s
  | .ltInject engine value fn => Sys2Proof.Machine.execLtInject engine value fn s
  | .ltDurationEnd engine nbits errors lanes => Sys2Proof.Machine.execLtDurationEnd engine nbits errors lanes s
  | .groupEnable group value fn => Sys2Proof.Machine.execGroupEnable group value fn s
  | .collStepStart chan => Sys2Proof.Machine.execCollStepStart chan s
  | .coll port vc => Sys2Proof.Machine.execColl port vc s
  | .collGrant port vc => Sys2Proof.Machine.execCollGrant port vc s
  | .collReadySend chan => Sys2Proof.Machine.execCollReadySend chan s
  | .collStepComplete chan => Sys2Proof.Machine.execCollStepComplete chan s
  | .collTimeout chan => Sys2Proof.Machine.execCollTimeout chan s
  | .frameParseStart cluster => Sys2Proof.Machine.execFrameParseStart cluster s
  | .frameParseDone cluster => Sys2Proof.Machine.execFrameParseDone cluster s
  | .frameReconstructStart cluster => Sys2Proof.Machine.execFrameReconstructStart cluster s
  | .frameReconstructDone cluster => Sys2Proof.Machine.execFrameReconstructDone cluster s
  | .faultRaise code kind unit part ctx status addr => Sys2Proof.Machine.execFaultRaise code kind unit part ctx status addr s
  | .fault port origin code round => Sys2Proof.Machine.execFault port origin code round s
  | .mirrorWindowFinish idx occ => Sys2Proof.Machine.execMirrorWindowFinish idx occ s
  | .mirrorData port => Sys2Proof.Machine.execMirrorData port s
  | .mirrorDirectory port => Sys2Proof.Machine.execMirrorDirectory port s
  | .mirrorCommit port => Sys2Proof.Machine.execMirrorCommit port s
  | .restoreStart value fn => Sys2Proof.Machine.execRestoreStart value fn s
  | .restoreDone => Sys2Proof.Machine.execRestoreDone s
  | .mirrorRestore port => Sys2Proof.Machine.execMirrorRestore port s
  | .mailboxPoll => Sys2Proof.Machine.execMailboxPoll s
  | .mctpMessage path body => Sys2Proof.Machine.execMctpMessage path body s
  | .getInfo => Sys2Proof.Machine.execGetInfo s
  | .logRead => Sys2Proof.Machine.execLogRead s
  | .fwStage => Sys2Proof.Machine.execFwStage s
  | .fwStageDone => Sys2Proof.Machine.execFwStageDone s
  | .fwActivate => Sys2Proof.Machine.execFwActivate s
  | .fwCommit => Sys2Proof.Machine.execFwCommit s
  | .cfgSet => Sys2Proof.Machine.execCfgSet s
  | .enrolKey => Sys2Proof.Machine.execEnrolKey s
  | .channelRestore => Sys2Proof.Machine.execChannelRestore s
  | .cfgImport => Sys2Proof.Machine.execCfgImport s
  | .revokeKey => Sys2Proof.Machine.execRevokeKey s
  | .attest => Sys2Proof.Machine.execAttest s
  | .measure => Sys2Proof.Machine.execMeasure s
  | .configStoreWrite => Sys2Proof.Machine.execConfigStoreWrite s
  | .sensorSample samples => Sys2Proof.Machine.execSensorSample samples s
  | .sensorLevelFall sensor => Sys2Proof.Machine.execSensorLevelFall sensor s
  | .tripHold => Sys2Proof.Machine.execTripHold s
  | .fltSupply millivolts amps10 => Sys2Proof.Machine.execFltSupply millivolts amps10 s
  | .supplyRearm => Sys2Proof.Machine.execSupplyRearm s
  | .off millivolts => Sys2Proof.Machine.execOff millivolts s
  | .powerOn => Sys2Proof.Machine.execPowerOn s
  | .coldRstN => Sys2Proof.Machine.execColdRstN s
  | .perstAssert => Sys2Proof.Machine.execPerstAssert s
  | .hotReset => Sys2Proof.Machine.execHotReset s
  | .pfFlr => Sys2Proof.Machine.execPfFlr s
  | .moduleResetExit pufOk hbmFail hamper => Sys2Proof.Machine.execModuleResetExit pufOk hbmFail hamper s
  | .resetReady => Sys2Proof.Machine.execResetReady s
  | .handleWatchdog => Sys2Proof.Machine.execHandleWatchdog s
  | .handleRestart value fn => Sys2Proof.Machine.execHandleRestart value fn s
  | .partitionReset value fn => Sys2Proof.Machine.execPartitionReset value fn s
  | .idleEntry coil => Sys2Proof.Machine.execIdleEntry coil s
  | .napEntry coil => Sys2Proof.Machine.execNapEntry coil s
  | .napExitDone coil => Sys2Proof.Machine.execNapExitDone coil s
  | .hold value fn => Sys2Proof.Machine.execHold value fn s
  | .holdEntered => Sys2Proof.Machine.execHoldEntered s
  | .wake value fn => Sys2Proof.Machine.execWake value fn s
  | .referenceReturn => Sys2Proof.Machine.execReferenceReturn s
  | .vfEnable n => Sys2Proof.Machine.execVfEnable n s
  | .handleRestartDone => Sys2Proof.Machine.execHandleRestartDone s
  | .partitionResetDone part => Sys2Proof.Machine.execPartitionResetDone part s
  | .inputReconnect millivolts => Sys2Proof.Machine.execInputReconnect millivolts s

end Sys2Proof.Machine
end

