-- ==== Sys2Proof/Safety.lean ====
section
/-!
DEFINITION. What every state of a run keeps: registers, memory, Trays and accumulator files each listed
once, in rising order, with nothing listed that an unlisted place already reads as; and what no command
undoes: the queue, the free values used and what the module has put on its boundary.
-/

namespace Sys2Proof.Machine

/-- Register fields, memory, Trays and accumulator elements are in canonical form. -/
def State.canonical (s : State) : Bool :=
  smWf s.regs && Memory.wf s.imgBase s.mem && smWf s.trays && s.trays.all (fun e => e.2 != 0) &&
  smWf s.accs && s.accs.all (fun e => e.2 != 0)

/-- What every command does: it leaves the queue as it is, never uses a free value again, only adds to what
the module has put on its boundary, and keeps the canonical form. -/
def Keeps (s t : State) : Prop :=
  t.pending = s.pending ∧ s.free ≤ t.free ∧ s.out <+: t.out ∧ (s.canonical = true → t.canonical = true)

/-- A step that stops neither with a fault nor with a refusal. -/
def Completes (s : State) : Prop := ∃ t, step s = .next t

/-! ### Places that memory gives and takes (R41, R473, R520, R529) -/

/-- A range of virtual addresses within one sector that a requester may read: a cached leaf that the walk also finds maps it
to pa, and the memory there is backed and good. -/
def State.ReadableAt (s : State) (rq : Rq) (va n pa : Nat) : Prop :=
  s.rb R.ctxPtRootValid rq.ctx = true ∧ 0 < n ∧ va % 64 + n ≤ 64 ∧
  (∃ l, s.leaf rq va = some l ∧ (s.walk rq.ctx va false).2 = some l ∧ l.pa % 4096 = 0 ∧ 12 ≤ l.log2 ∧
    pa = l.pa + va % 2 ^ l.log2) ∧
  s.readStatus pa n = 0 ∧ s.ms.bad = [] ∧ s.ms.badWords = []

/-- A range of virtual addresses within one sector that a requester may write: a cached leaf that the walk also finds maps
it to pa with right to write, and the memory there is backed. -/
def State.WritableAt (s : State) (rq : Rq) (va n pa : Nat) : Prop :=
  s.rb R.ctxPtRootValid rq.ctx = true ∧ 0 < n ∧ va % 64 + n ≤ 64 ∧
  (∃ l, s.leaf rq va = some l ∧ (s.walk rq.ctx va true).2 = some l ∧ l.write = true ∧ l.pa % 4096 = 0 ∧ 12 ≤ l.log2 ∧
    pa = l.pa + va % 2 ^ l.log2) ∧
  s.writeStatus pa = 0

/-- A range of module physical addresses that is backed and good. -/
def State.GoodAt (s : State) (a n : Nat) : Prop :=
  s.ms.bad = [] ∧ s.ms.badWords = [] ∧ ∀ p ∈ spans 64 a n, s.readStatus p.1 p.2 = 0

/-- The bytes of t are those of s but for l, which stands at a. -/
def Stored (s t : State) (a : Nat) (l : List Byte) : Prop :=
  (∀ k, k < l.length → t.byte (a + k) = (l[k]?).getD 0) ∧ ∀ x, x < a ∨ a + l.length ≤ x → t.byte x = s.byte x

/-! ### Descriptors that nothing keeps from completing -/

/-- Operand k of a descriptor is plain, of a format of whole bytes without block scales, and lies in the Stake's own Tray
wherever its address generator is in bounds; `inner` and `outer` are the sizes of its dense walk (R216, R224, R285,
R288). -/
def TrayOperand (wv : Weave) (w k fmt inner outer : Nat) : Prop :=
  (dOpnd w k).space = 0 ∧ (dOpnd w k).packed = false ∧ isMx fmt = false ∧ fmtBits fmt % 8 = 0 ∧
  ∀ (u v : List Nat) (e : Int), (agenOf wv (dOpnd w k) inner outer).offset u v = some e →
    0 ≤ (((dOpnd w k).addr % 2 ^ 21 : Nat) : Int) + e * (fmtBits fmt / 8 : Nat) ∧
    (((dOpnd w k).addr % 2 ^ 21 : Nat) : Int) + (e + 1) * (fmtBits fmt / 8 : Nat) ≤ trayBytes

/-- Operand C of a descriptor with an epilogue lies in the Tray, plain, and no function is applied (R225). -/
def TrayOutput (wv : Weave) (w inner outer : Nat) : Prop :=
  TrayOperand wv w 2 (dFmtOut w) inner outer ∧ bit w 656 = false ∧ bits w 648 8 = 0

/-- A started descriptor of a Stake has ended with status 0. -/
def State.EndedWell (s : State) (stake idx : Nat) : Prop :=
  ∃ x d, smGet s.stakes stake = some x ∧ x.desc idx = some d ∧ d.fin = some ⟨0, 0, 0⟩

end Sys2Proof.Machine
end

