-- ==== Sys2Proof/Certificates/Slice0/Obligations.lean ====
section
/-!
DEFINITION. The statements for the provers.
-/

set_option linter.unusedVariables false

open Sys2Proof Sys2Proof.Machine

/-! ### The block as a whole -/

/-- A step gives the command at the front of the queue its meaning, with the rest of the queue.

With nothing waiting the block idles, and no word spells a command (the model's choice, log entries 2
and 5). -/
def Obligations.StepRunsTheFrontCommand : Prop :=
  (∀ (c : Instr) (cs : List Instr) (s : State), s.pending = c :: cs → step s = exec c { s with pending := cs }) ∧
  (∀ (s : State) (nbits w : Nat), s.pending = [] → step s = .next s ∧ s.withFetchWord nbits w = s)

/-- The state after reset has every register field at its reset value, no table, no weave, no packet, no
port enabled and nothing on the boundary; context 0 is READY and every other context FREE. -/
def Obligations.ResetLeavesEveryFieldAtItsResetValue : Prop :=
  (∀ (f : Fld) (i : Nat), State.reset.rg f i = fieldReset f i) ∧
  State.reset.ctxState 0 = ctxReady ∧ (∀ c, c ≠ 0 → State.reset.ctxState c = ctxFree) ∧
  State.reset.round = 0 ∧ State.reset.rg R.roundCfgLenTicks 0 = 250 ∧ State.reset.follower = false ∧
  State.reset.locked = false ∧ (∀ n, State.reset.portState n = 0) ∧ (∀ p, State.reset.rb R.partCfgEnable p = false) ∧
  State.reset.rb R.pwrStatusReady 0 = false ∧ State.reset.pending = [] ∧ State.reset.out = []

/-- The canonical form holds after reset. -/
def Obligations.ResetStateIsCanonical : Prop := State.reset.canonical = true

/-- Every step keeps the canonical form of registers, memory, Trays and accumulator files. -/
def Obligations.EveryStepKeepsTheCanonicalForm : Prop :=
  ∀ s t : State, s.canonical = true → step s = .next t → t.canonical = true

/-- Every command completes in every state: no command stops with a fault or a refusal.  It leaves the queue
as it is, never uses a free value again and only adds to what the module has put on its boundary. -/
def Obligations.EveryCommandCompletesAndLeavesTheQueue : Prop :=
  ∀ (c : Instr) (s : State), ∃ t, exec c s = .next t ∧ t.pending = s.pending ∧ s.free ≤ t.free ∧ s.out <+: t.out

/-! ### Registers -/

/-- A write of a 32-bit register gives each RW field the value written where its table takes it, clears the RW1C
bits written with 1, leaves every other field of it, every other register and everything else; a write that is a command
of its own has that command's effect instead. -/
def Obligations.RegisterWriteFollowsTheAccessTypes : Prop :=
  ∀ (s : State) (off v i : Nat) (r : Reg),
    regAt off = some (r, i) → r.bytes = 4 → off % 4 = 0 → off < 0x4000000 → inMailbox off = false → v < 2 ^ 32 →
    s.barOpen off = true →
    (∀ u, s.rowWrite 0 r i v = some u → exec (.registerWrite 0 off 4 true v) s = .next u) ∧
    (s.rowWrite 0 r i v = none → s.takesWrite r i = true →
      r.id ≠ R.ctxCtrlReg.id → r.id ≠ R.hdlSensorReg.id → r.id ≠ R.fltRingCiReg.id → r.id ≠ R.memScrubCfgReg.id →
      r.id ≠ R.walePairReg.id →
      ∃ regs, exec (.registerWrite 0 off 4 true v) s = .next { s with regs := regs } ∧
        (∀ f ∈ r.flds, ({ s with regs := regs } : State).rg f i =
          match f.acc with
          | .rw => if takesValue f (bits v f.lo f.width) then bits v f.lo f.width else s.rg f i
          | .rw1c =>
            if bits v f.lo f.width = 0 then s.rg f i
            else (s.rg f i - Nat.land (bits v f.lo f.width) (s.rg f i)) % 2 ^ f.width
          | _ => s.rg f i) ∧
        (∀ f ∈ allFlds, ∀ j, f.reg ≠ r.id ∨ j ≠ i → ({ s with regs := regs } : State).rg f j = s.rg f j))

/-- The host reads the low half of a 64-bit register: the high half is latched, and the next read of the high
half answers what was latched, whatever the register has become.

The host writes the two halves of a 64-bit register: the low half is staged and changes no register, and
the write of the high half commits all 64 bits. -/
def Obligations.HalvesOfWideRegistersAreLatchedAndStaged : Prop :=
  (∀ (s u : State) (off i : Nat) (r : Reg),
    regAt off = some (r, i) → regAt (off + 4) = none → r.bytes = 8 → off % 8 = 0 → off + 4 < 0x4000000 →
    inMailbox off = false → inMailbox (off + 4) = false → s.barOpen off = true → u.barOpen (off + 4) = true →
    (∃ t, exec (.registerWrite 0 off 4 false 0) s = .next t ∧ smGet t.latch off = some (s.readReg r i / 2 ^ 32) ∧
      t.out = s.out ++ [.readData (s.readReg r i % 2 ^ 32)] ∧ t.regs = s.regs ∧ t.mem = s.mem) ∧
    (smGet u.latch off = some (s.readReg r i / 2 ^ 32) →
      exec (.registerWrite 0 (off + 4) 4 false 0) u =
        .next ({ u with latch := smErase u.latch off }.emit (.readData (s.readReg r i / 2 ^ 32))))) ∧
  (∀ (s : State) (off lo hi i : Nat) (r : Reg),
    regAt off = some (r, i) → regAt (off + 4) = none → r.bytes = 8 → off % 8 = 0 → off + 4 < 0x4000000 →
    inMailbox off = false → inMailbox (off + 4) = false → s.barOpen off = true → s.barOpen (off + 4) = true →
    lo < 2 ^ 32 → hi < 2 ^ 32 →
    ∃ t, exec (.registerWrite 0 off 4 true lo) s = .next t ∧ t.regs = s.regs ∧ t.mem = s.mem ∧
      ∃ u, exec (.registerWrite 0 (off + 4) 4 true hi) t = .next (State.writeReg u 0 r i (lo + hi * 2 ^ 32)) ∧
        u.regs = s.regs ∧ u.mem = s.mem ∧ smGet u.staged off = none)

/-- An access of 8 or 16 bits or one that is not naturally aligned is recorded in GLB_ERR, answers zero and
changes nothing else; a BAR2 base takes the low 48 bits written.

A BAR2 access at offset o of a backed address reaches module physical address base + o: a write within one
sector stores its bytes and no other, and a read answers the bytes there.  An unbacked one reads zero and is
discarded on a write. -/
def Obligations.BadAccessesAreRecordedAndBar2ReachesMemory : Prop :=
  (∀ (s : State) (off size : Nat) (write : Bool), goodAccess off size = false → off < 0x4000000 → s.pwr.off = false →
    exec (.bar0BadAccess 0 off size write) s =
      .next (if write then ((s.rset R.glbErrOffset 0 off).rset R.glbErrValid 0 1).rsat R.glbErrCount 0 1
        else (((s.rset R.glbErrOffset 0 off).rset R.glbErrValid 0 1).rsat R.glbErrCount 0 1).emit (.readData 0))) ∧
  (∀ (s : State) (v : Nat), s.barOpen 0 = true →
    ∃ t, exec (.glbBar2BaseWrite v 0) s = .next t ∧ t.rg R.glbBar2BaseBase 0 = v % 2 ^ 48 ∧
      (∀ f ∈ allFlds, ∀ j, f.id ≠ R.glbBar2BaseBase.id ∨ j ≠ 0 → t.rg f j = s.rg f j) ∧ t.mem = s.mem) ∧
  (∀ (s : State) (log2 off n : Nat) (data : List Byte),
    30 ≤ log2 → log2 ≤ 38 → off + n ≤ 2 ^ log2 → 0 < n → s.bar2Addr log2 off % 64 + n ≤ 64 → data.length = n →
    s.barOpen 0x600000 = true →
    (s.bar2Reaches (s.bar2Addr log2 off) = true → s.writeStatus (s.bar2Addr log2 off) = 0 →
      ∃ t, exec (.bar2Access log2 off n true data 0) s = .next t ∧
        (∀ k, k < n → t.byte (s.bar2Addr log2 off + k) = (data[k]?).getD 0) ∧
        (∀ a, a < s.bar2Addr log2 off ∨ s.bar2Addr log2 off + n ≤ a → t.byte a = s.byte a)) ∧
    (s.bar2Reaches (s.bar2Addr log2 off) = true → s.readStatus (s.bar2Addr log2 off) n = 0 →
      ∃ t, exec (.bar2Access log2 off n false [] 0) s = .next t ∧
        t.out = s.out ++ [.readData (leNat (s.bytes (s.bar2Addr log2 off) n))] ∧ (∀ a, t.byte a = s.byte a)) ∧
    (s.bar2Reaches (s.bar2Addr log2 off) = false →
      exec (.bar2Access log2 off n true data 0) s = .next s ∧
      exec (.bar2Access log2 off n false [] 0) s = .next (s.emit (.readData 0))))

/-! ### Rounds -/

/-- At a Round boundary the Round count increments by one, becomes the count that Withy has set, or waits for the
upstream module's while it is held; and a module that holds lock sends ROUND_SYNC with the new count and its timing
depth on every port that is UP. -/
def Obligations.RoundBoundaryIncrementsTheCount : Prop :=
  ∀ s : State, s.pwr.off = false →
    ∃ t, exec .roundBoundary s = .next t ∧
      (s.rnd.setCount = none → s.rnd.holding = false → t.round = (s.round + 1) % 2 ^ 64) ∧
      (∀ v, s.rnd.setCount = some v → t.round = v % 2 ^ 64) ∧
      (∀ u, s.rnd.setCount = none → s.rnd.holding = true → s.rnd.upCount = some u →
        t.round = max s.round (u + s.rnd.syncMiss + 1) % 2 ^ 64) ∧
      (s.locked = true → ∀ n ∈ s.upPorts, ∃ len s2 off, off ≤ 64 ∧
        Output.sym n (.roundSync t.round (s.rg R.roundStatusDepth 0) len s2 off) ∈ t.out)

/-- No command but a Round boundary, what keeps a follower in lock (its lock, and a ROUND_SYNC whose higher count it
adopts) and a cold reset (the supply's return, COLD_RST_N, the loss of the supply) changes the Round count. -/
def Obligations.OnlyBoundaryLockAndColdResetMoveTheRoundCount : Prop :=
  ∀ (c : Instr) (s t : State), exec c s = .next t → t.round ≠ s.round →
    c = .roundBoundary ∨ c = .followerLock ∨
      (∃ port count depth len s2 o, c = .roundSync port count depth len s2 o ∧ s.locked = true ∧ s.follower = true ∧
        s.tableOn = false ∧ s.round < count) ∨
      c = .powerOn ∨ c = .coldRstN ∨ (∃ mv, c = .off mv) ∨ (∃ mv, c = .inputReconnect mv)

/-- A follower takes the timing depth, L, offset and stretch announcement of a ROUND_SYNC on its timing port, keeps
or adopts its count, or raises FLT_ROUND_LOCK where the count differs while a table is armed or running; it sends
DELAY_REQ, answers one, and takes ((t4 − t1) − (t3 − t2)) ÷ 2 from the DELAY_RESP as a measurement, of which it keeps the
newest 16 and their median.  (Which count a late symbol marks, the phase of the delay requests and the halving of odd
differences are the model's choices, log entries 32, 33 and 34.) -/
def Obligations.FollowerMeasuresItsTimingPort : Prop :=
  (∀ (s : State) (count depth len s2 : Nat) (o : Int), s.follower = true → s.timingPort ∈ s.upPorts →
    depth + 1 ≤ 8 → len < 2 ^ 16 → count < 2 ^ 64 → (s.locked = false ∨ s.tableOn = false) →
    ∃ t, exec (.roundSync s.timingPort count depth len s2 o) s = .next t ∧ t.rg R.roundStatusDepth 0 = depth + 1 ∧
      t.rnd.upCount = some count ∧ t.rnd.syncMiss = 0 ∧ t.rg R.roundOffsetOffset 0 = ofSigned 32 o ∧
      t.rnd.good = (if -8 ≤ o ∧ o ≤ 8 ∧ s.rnd.meas.length = 16 then
        (if s.rnd.upCount.isSome ∧ s.rnd.syncMiss = 0 then s.rnd.good else s.rnd.good + 1) else 0) ∧
      (s.locked = false ∨ count ≤ t.round → t.rg R.roundCfgLenTicks 0 = len ∧ t.rnd.len = len) ∧
      (s.locked = true → t.round < count → len ≠ s.rnd.len → t.rnd.newLen = some (len, count)) ∧
      (count ≤ t.round → t.rnd.s2 = s2 ∧ t.rnd.sIn = none) ∧
      (t.round < count → t.rnd.s2 = s.rnd.s2 ∧ t.rnd.sIn = some s2) ∧
      (s.locked = false → t.round = s.round) ∧
      (s.locked = true → t.round = (if s.round < count ∧ s.rnd.upCount ≠ some s.round then count else s.round)) ∧
      t.locked = s.locked ∧ t.mem = s.mem ∧ t.out = s.out) ∧
  (∀ (s : State) (count depth len s2 : Nat) (o : Int), s.follower = true → s.timingPort ∈ s.upPorts →
    depth + 1 ≤ 8 → s.locked = true → s.tableOn = true → count ≠ s.markedCount →
    ∃ t, exec (.roundSync s.timingPort count depth len s2 o) s = .next t ∧
      t.rg R.fltCountCount 0 = (s.rg R.fltCountCount 0 + 1) % 2 ^ 64 ∧ t.rb R.fltStatusJobHalted 0 = true ∧
      t.tableOn = false ∧ t.round = s.round) ∧
  (∀ (s : State) (count depth len s2 : Nat) (o : Int), s.follower = true → s.timingPort ∈ s.upPorts →
    8 < depth + 1 →
    exec (.roundSync s.timingPort count depth len s2 o) s =
      .next ((s.rset R.roundStatusDepthExceeded 0 1).setRnd { s.rnd with good := 0 })) ∧
  (∀ (s : State) (port id t2 t3 : Nat), port ∈ s.upPorts →
    ∃ t, exec (.delayReq port id t2 t3) s = .next t ∧ .sym port (.delayResp id t2 t3) ∈ t.out ∧ s.out <+: t.out ∧
      t.regs = s.regs ∧ t.rnd = s.rnd ∧ t.mem = s.mem) ∧
  (∀ (s : State) (t1 : Nat), s.follower = true → s.timingPort ∈ s.upPorts → s.rnd.reqAt ≠ some s.round →
    (s.locked = true ∧ s.round % 64 = 0 ∨ s.locked = false ∧ s.rnd.meas.length < 16 ∧ 1 ≤ s.rnd.attempt) →
    ∃ t, exec (.delayReqSend t1) s = .next t ∧ .sym s.timingPort (.delayReq (s.round % 256) t1) ∈ t.out ∧
      t.rnd = { s.rnd with reqOut := some (s.round % 256, t1), reqAt := some s.round } ∧ t.regs = s.regs ∧
      t.mem = s.mem) ∧
  (∀ (s : State) (id t1 t2 t3 t4 : Nat), s.follower = true → s.rnd.reqOut = some (id, t1) → s.rnd.meas.length ≤ 16 →
    ∃ t, exec (.delayResp s.timingPort id t2 t3 t4) s = .next t ∧ t.rnd.reqOut = none ∧
      t.rnd.meas = (if s.rnd.meas.length = 16 then s.rnd.meas.drop 1 else s.rnd.meas) ++
        [(((t4 : Int) - t1) - ((t3 : Int) - t2)) / 2] ∧
      t.rg R.roundDelayDelay 0 =
        (if 15 ≤ s.rnd.meas.length then ofSigned 32 (median t.rnd.meas) else s.rg R.roundDelayDelay 0) ∧
      t.mem = s.mem ∧ t.out = s.out) ∧
  (∀ (s : State) (len round : Nat), s.follower = true → s.timingPort ∈ s.upPorts → s.round < round →
    exec (.roundLen s.timingPort len round) s = .next (s.setRnd { s.rnd with newLen := some (len, round) }))

/-- A follower sets locked after 16 Rounds within ±5 ns with 16 measurements made: on its first lock, and later where
its own count is not above it, it loads the upstream module's present count, and else it holds its own; 64 Rounds after
an attempt began it sets no_lock and begins again, on the other port where the backup port is enabled; a module of the
master role sets locked when the 16th whole Round with the reference has ended. -/
def Obligations.LockIsDeclaredAndRetried : Prop :=
  (∀ (s : State) (u : Nat), s.follower = true → s.timingPort ∈ s.upPorts → s.locked = false → s.rnd.upCount = some u →
    16 ≤ s.rnd.good → s.rnd.meas.length = 16 → s.rnd.attempt ≤ 64 → u + s.rnd.syncMiss < 2 ^ 64 →
    (s.rnd.everLocked = false ∨ s.round ≤ u + s.rnd.syncMiss) →
    ∃ t, exec .followerLock s = .next t ∧ t.locked = true ∧ t.round = u + s.rnd.syncMiss ∧ t.rnd.holding = false ∧
      t.mem = s.mem ∧ t.out = s.out) ∧
  (∀ (s : State) (u : Nat), s.follower = true → s.timingPort ∈ s.upPorts → s.locked = false → s.rnd.upCount = some u →
    16 ≤ s.rnd.good → s.rnd.meas.length = 16 → s.rnd.attempt ≤ 64 → s.rnd.everLocked = true →
    u + s.rnd.syncMiss < s.round →
    ∃ t, exec .followerLock s = .next t ∧ t.locked = true ∧ t.round = s.round ∧ t.rnd.holding = true ∧
      t.mem = s.mem ∧ t.out = s.out) ∧
  (∀ s : State, s.follower = true → s.locked = false → 64 ≤ s.rnd.attempt →
    ∃ t, exec .noLockRetry s = .next t ∧ t.rb R.roundStatusNoLock 0 = true ∧ t.rnd.attempt = 0 ∧ t.rnd.meas = [] ∧
      t.rnd.holding = false ∧ t.round = s.round ∧ t.rg R.roundStatusOnBackup 0 =
        if s.rb R.roundCfgBackupEn 0 then (1 - s.rg R.roundStatusOnBackup 0) % 2 else s.rg R.roundStatusOnBackup 0) ∧
  (∀ s : State, s.follower = false → s.locked = false → s.rnd.refPresent = true → 16 ≤ s.rnd.refRounds →
    exec .masterLock s = .next (s.rset R.roundStatusLocked 0 1))

/-- Loss of lock or of the reference clears locked and sets lock_lost; without a Weave table a follower with
a backup port goes to it; the Round in which the reference returns does not count, and an absence of at most 4
ticks leaves the count of Rounds as it is.  While a table is armed or running it raises FLT_ROUND_LOCK: the fault is
counted and the job is halted.  (A loss on the backup port goes back to timing_port: the model's choice, log entry
35.) -/
def Obligations.LossOfTimingClearsLock : Prop :=
  (∀ s : State, s.follower = true → s.locked = true →
    (s.rnd.dropped = true ∨ s.timingPort ∉ s.upPorts ∨ 5 ≤ s.rnd.syncMiss) →
    ∃ t, exec .lossOfLock s = .next t ∧ t.locked = false ∧ t.rb R.roundStatusLockLost 0 = true ∧
      t.rg R.roundStatusOnBackup 0 =
        (if s.tableOn = false ∧ s.rb R.roundCfgBackupEn 0 = true then (1 - s.rg R.roundStatusOnBackup 0) % 2
          else s.rg R.roundStatusOnBackup 0) ∧
      t.rnd.attempt = 0 ∧ t.rnd.holding = false ∧ t.round = s.round ∧ t.tableOn = false ∧
      (s.tableOn = false → t.mem = s.mem ∧ t.out = s.out ∧ t.rg R.fltCountCount 0 = s.rg R.fltCountCount 0) ∧
      (s.tableOn = true → t.rg R.fltCountCount 0 = (s.rg R.fltCountCount 0 + 1) % 2 ^ 64 ∧
        t.rb R.fltStatusJobHalted 0 = true)) ∧
  (∀ s : State, s.follower = false →
    ∃ t, exec .referenceLoss s = .next t ∧ t.locked = false ∧ t.rb R.roundStatusLockLost 0 = true ∧
      t.rnd.refPresent = false ∧ t.rnd.refRounds = 0 ∧ t.round = s.round ∧ t.tableOn = false ∧
      (s.tableOn = false → t.mem = s.mem ∧ t.out = s.out ∧ t.rg R.fltCountCount 0 = s.rg R.fltCountCount 0) ∧
      (s.tableOn = true → t.rg R.fltCountCount 0 = (s.rg R.fltCountCount 0 + 1) % 2 ^ 64 ∧
        t.rb R.fltStatusJobHalted 0 = true)) ∧
  (∀ s : State, s.follower = true →
    exec .referenceLoss s = .next (s.setRnd { s.rnd with refPresent := false, refRounds := 0, refNew := false })) ∧
  (∀ s : State, s.rnd.refPresent = false →
    exec .referenceReturn s = .next (s.setRnd { s.rnd with refPresent := true, refNew := true, refRounds := 0 })) ∧
  (∀ s : State, s.pwr.off = false → s.rnd.refPresent = true → s.rnd.refNew = true →
    ∃ t, exec .roundBoundary s = .next t ∧ t.rnd.refRounds = s.rnd.refRounds ∧ t.rnd.refNew = false) ∧
  (∀ s : State, s.rnd.refPresent = true → exec .referenceReturn s = .next (s.setRnd { s.rnd with refNew := true }))

/-- The host's writes of the Round block: the master takes a greater count for its next boundary, a change of L
is announced at least 16 Rounds ahead, and a change of role takes effect at once and clears locked; the length in the
write that makes a module the master is a change of L (the model's choice, log entry 36). -/
def Obligations.RoundBlockWritesTakeEffect : Prop :=
  (∀ (s : State) (v : Nat), s.barOpen 0x500000 = true → s.follower = false → s.tableOn = false → s.round + 1 < v →
    v < 2 ^ 64 → exec (.roundCountSet v) s = .next (s.setRnd { s.rnd with setCount := some v })) ∧
  (∀ (s : State) (v : Nat), s.barOpen 0x500000 = true → (s.follower = true ∨ s.tableOn = true ∨ v ≤ s.round + 1) →
    exec (.roundCountSet v) s = .next s) ∧
  (∀ (s : State) (v : Nat), s.barOpen 0x500000 = true → s.follower = false → v % 2 = 0 → 25 ≤ bits v 16 16 →
    bits v 16 16 ≠ s.rg R.roundCfgLenTicks 0 → s.rg R.weaveStatusState 0 ≠ 3 → s.rg R.roundCfgRole 0 = 0 →
    ∃ t, exec (.roundLenWrite v) s = .next t ∧ t.rnd.newLen = some (bits v 16 16, s.round + 17) ∧
      t.rg R.roundCfgLenTicks 0 = bits v 16 16 ∧ t.rnd.len = s.rnd.len) ∧
  (∀ (s : State) (v : Nat), s.barOpen 0x500000 = true → s.follower = false → v % 2 = 0 → 25 ≤ bits v 16 16 →
    bits v 16 16 ≠ s.rg R.roundCfgLenTicks 0 → s.rg R.weaveStatusState 0 = 3 → s.rg R.roundCfgRole 0 = 0 →
    ∃ t, exec (.roundLenWrite v) s = .next t ∧ t.rb R.roundStatusCfgRefused 0 = true ∧
      t.rg R.roundCfgLenTicks 0 = s.rg R.roundCfgLenTicks 0 ∧ t.rnd = s.rnd ∧
      t.rg R.roundCfgTimingPort 0 = bits v 4 4) ∧
  (∀ (s : State) (v : Nat), s.barOpen 0x500000 = true → s.rg R.roundCfgRole 0 = 0 → v % 2 = 1 → s.tableOn = false →
    ∃ t, exec (.roleChange v) s = .next t ∧ t.follower = true ∧ t.locked = false ∧ t.rnd.newLen = none ∧
      t.round = s.round ∧ t.rg R.roundStatusLockLost 0 = s.rg R.roundStatusLockLost 0) ∧
  (∀ (s : State) (v : Nat), s.barOpen 0x500000 = true → s.rg R.roundCfgRole 0 = 1 → v % 2 = 0 → s.tableOn = false →
    ∃ t, exec (.roleChange v) s = .next t ∧ t.follower = false ∧ t.locked = false ∧ t.round = s.round ∧
      t.rnd.holding = false ∧ t.rnd.newLen =
        (if 25 ≤ bits v 16 16 ∧ bits v 16 16 ≠ s.rg R.roundCfgLenTicks 0 then some (bits v 16 16, s.round + 17) else none))

/-- A master keeps a module's stretch request with the Round from which it counts, n + 4 when it came before the
boundary of Round n + 2 and a + 2 when it came later in Round a; a follower relays it once toward the master;
a symbol seen before is dropped.

The module's own request: Withy's amount, and a thermal and a power amount that rise by step_ticks up to
max_ticks 64 Rounds after their last rise and end after 256 Rounds below the threshold by the hysteresis.  The
request made is the largest of the three. -/
def Obligations.StretchRequestsAreRelayedAndCombined : Prop :=
  (∀ (s : State) (port origin n amount : Nat), port ∈ s.upPorts → (origin, n) ∉ s.rnd.seen →
    s.follower = false →
    ∃ t, exec (.stretch port origin n amount) s = .next t ∧ t.rnd.reqs = s.rnd.reqs ++
        [(origin, amount, if s.round < n + 2 then n + 4 else s.round + 2)] ∧
      (n + 2 ≤ s.round → t.rnd.s2 = t.stretchAt (s.round + 2)) ∧ t.out = s.out ∧ t.regs = s.regs ∧ t.mem = s.mem) ∧
  (∀ (s : State) (port origin n amount : Nat), port ∈ s.upPorts → (origin, n) ∉ s.rnd.seen →
    s.follower = true → s.timingPort ∈ s.upPorts →
    ∃ t, exec (.stretch port origin n amount) s = .next t ∧ .sym s.timingPort (.stretch origin n amount) ∈ t.out ∧
      s.out <+: t.out ∧ t.rnd.seen = (origin, n) :: s.rnd.seen ∧ t.rnd.reqs = s.rnd.reqs ∧ t.regs = s.regs ∧
      t.mem = s.mem) ∧
  (∀ (s : State) (port origin n amount : Nat), (origin, n) ∈ s.rnd.seen →
    exec (.stretch port origin n amount) s = .next s) ∧
  (∀ (s : State) (a : Nat), s.barOpen 0x500000 = true → s.locked = true → s.follower = false → a < 2 ^ 16 →
    max a (max s.rnd.thermal s.rnd.power) < 2 ^ 16 →
    ∃ t, exec (.roundStretchReq a) s = .next t ∧ t.rg R.roundStretchReqAmount 0 = a ∧
      t.rg R.roundStretchStatusRequested 0 = max a (max s.rnd.thermal s.rnd.power) ∧
      t.rnd.reqs = s.rnd.reqs ++ [(s.rg R.waleCfgModuleId 0, max a (max s.rnd.thermal s.rnd.power), s.round + 4)]) ∧
  (∀ (s : State) (a : Nat), s.barOpen 0x500000 = true → s.locked = true → s.follower = true → a < 2 ^ 16 →
    max a (max s.rnd.thermal s.rnd.power) < 2 ^ 16 → s.timingPort ∈ s.upPorts →
    ∃ t, exec (.roundStretchReq a) s = .next t ∧ t.rg R.roundStretchReqAmount 0 = a ∧
      t.rg R.roundStretchStatusRequested 0 = max a (max s.rnd.thermal s.rnd.power) ∧
      .sym s.timingPort (.stretch (s.rg R.waleCfgModuleId 0) s.round (max a (max s.rnd.thermal s.rnd.power))) ∈ t.out) ∧
  (∀ s : State, s.rb R.roundStretchCfgEnable 0 = true → s.rnd.thermal ≠ 0 → s.hot = true → s.rnd.thermalAt + 64 ≤ s.beat →
    ∃ t, exec .thermalStretchStep s = .next t ∧ t.rnd.thermalAt = s.beat ∧
      t.rnd.thermal = min (s.rg R.roundStretchCfgMaxTicks 0) (s.rnd.thermal + s.rg R.roundStretchCfgStepTicks 0) ∧
      (s.locked = true → t.ownAmount < 2 ^ 16 → t.rg R.roundStretchStatusRequested 0 = t.ownAmount)) ∧
  (∀ s : State, s.rnd.thermal ≠ 0 → 256 ≤ s.rnd.thermalCool →
    ∃ t, exec .thermalStretchWithdraw s = .next t ∧ t.rnd.thermal = 0 ∧ t.mem = s.mem ∧
      (s.locked = true → t.ownAmount < 2 ^ 16 → t.rg R.roundStretchStatusRequested 0 = t.ownAmount)) ∧
  (∀ s : State, s.pwr.off = false → s.pwr.stage = 0 → s.rg R.hdlSensorLevel 68 ≠ 0 →
    (s.rnd.power = 0 ∨ s.rnd.powerAt + 64 ≤ s.beat) →
    ∃ t, exec .powerStretchStep s = .next t ∧ t.rnd.powerAt = s.beat ∧
      t.rnd.power = min (s.rg R.roundStretchCfgMaxTicks 0) (s.rnd.power + s.rg R.roundStretchCfgStepTicks 0) ∧
      (s.locked = true → t.ownAmount < 2 ^ 16 → t.rg R.roundStretchStatusRequested 0 = t.ownAmount)) ∧
  (∀ s : State, s.rnd.power ≠ 0 → 256 ≤ s.rnd.powerCool →
    ∃ t, exec .powerStretchWithdraw s = .next t ∧ t.rnd.power = 0 ∧ t.mem = s.mem ∧
      (s.locked = true → t.ownAmount < 2 ^ 16 → t.rg R.roundStretchStatusRequested 0 = t.ownAmount)) ∧
  (∀ s : State, s.ownAmount = max (s.rg R.roundStretchReqAmount 0) (max s.rnd.thermal s.rnd.power))

/-! ### The Weave table -/

/-- A write of WEAVE_CTRL that sets load starts loading and replaces any table; one that sets more than one of
load, arm, stop and stop_now is ignored whole and sets refused; a load while a table runs is ignored and sets
refused.  (That a cycle_len out of range leaves the field is the model's choice, log entry 37.) -/
def Obligations.WeaveCtrlWritesLoadOrAreRefused : Prop :=
  (∀ (s : State) (v : Nat), s.barOpen 0x500000 = true → bit v 17 = true → ctrlBits v = 1 → s.rg R.weaveStatusState 0 ≠ 3 →
    ∃ t, exec (.weaveLoad v) s = .next t ∧ t.rg R.weaveStatusState 0 = 0 ∧ t.rg R.weaveCtrlEntries 0 = bits v 0 17 ∧
      t.rg R.weaveCtrlCycleLen 0 =
        (if 1 ≤ bits v 32 25 ∧ bits v 32 25 ≤ 2 ^ 24 then bits v 32 25 else s.rg R.weaveCtrlCycleLen 0) ∧
      t.wtab.loading = some (bits v 0 17, s.rg R.weaveImageBaseBase 0 / 4096 * 4096, t.rg R.weaveCtrlCycleLen 0) ∧
      t.wtab.table = [] ∧ t.wtab.waiting = [] ∧ t.mem = s.mem ∧ t.out = s.out) ∧
  (∀ (s : State) (v : Nat), s.barOpen 0x500000 = true → bit v 17 = true → ctrlBits v = 1 → s.rg R.weaveStatusState 0 = 3 →
    ∃ t, exec (.weaveLoad v) s = .next t ∧ t.rb R.weaveStatusRefused 0 = true ∧ t.rg R.weaveStatusState 0 = 3 ∧
      t.wtab = s.wtab) ∧
  (∀ (s : State) (v : Nat), s.barOpen 0x500000 = true → 1 < ctrlBits v →
    (bit v 17 = true → exec (.weaveLoad v) s = .next (s.rset R.weaveStatusRefused 0 1)) ∧
    (bit v 18 = true → exec (.weaveArm v) s = .next (s.rset R.weaveStatusRefused 0 1)) ∧
    (bit v 19 = true → exec (.weaveStop v) s = .next (s.rset R.weaveStatusRefused 0 1)) ∧
    (bit v 20 = true → exec (.weaveStopNow v) s = .next (s.rset R.weaveStatusRefused 0 1)))

/-- A load that ends well holds as many entries as it was asked for, in rising order of their Round offsets,
none malformed and none beyond the cycle; entries in good HBM that pass the checks of R80 are loaded as memory holds
them; a load of no entry, or of more than 65,536, ends as malformed. -/
def Obligations.LoadedTableIsCheckedAndOrdered : Prop :=
  (∀ (s : State) (n base cyc : Nat), s.wtab.loading = some (n, base, cyc) → 0 < n → n ≤ 65536 → base % 32 = 0 →
    s.ms.bad = [] → (∀ i, i < n → s.region (base + 32 * i) = .hbm) →
    (∀ i, i < n → weMalformed (s.num (base + 32 * i) 32) = false ∧ weOffset (s.num (base + 32 * i) 32) < cyc) →
    (∀ i, i + 1 < n → weOffset (s.num (base + 32 * i) 32) ≤ weOffset (s.num (base + 32 * (i + 1)) 32)) →
    (∀ i, i + 256 < n → weOffset (s.num (base + 32 * i) 32) < weOffset (s.num (base + 32 * (i + 256)) 32)) →
    ∃ t, exec .weaveLoadDone s = .next t ∧
      t.wtab = { s.wtab with loading := none, table := (below n).map (fun i => s.num (base + 32 * i) 32) } ∧
      t.rg R.weaveStatusState 0 = 1 ∧ t.rg R.weaveStatusError 0 = 0 ∧ t.mem = s.mem) ∧
  (∀ (s u : State) (n base cyc : Nat) (l : List Nat), s.wtab.loading = some (n, base, cyc) → 0 < n → n ≤ 65536 →
    ({ s with wtab := { s.wtab with loading := none } } : State).loadEntries cyc n base 0 0 0 = (u, .ok l) →
    ∃ t, exec .weaveLoadDone s = .next t ∧ t.wtab.table = l ∧ t.rg R.weaveStatusState 0 = 1 ∧
      t.rg R.weaveStatusError 0 = 0 ∧ t.wtab.loading = none ∧ l.length = n ∧
      List.Pairwise (fun a b => weOffset a ≤ weOffset b) l ∧
      ∀ e ∈ l, weMalformed e = false ∧ weOffset e < cyc) ∧
  (∀ (s : State) (n base cyc : Nat), s.wtab.loading = some (n, base, cyc) → n = 0 ∨ 65536 < n →
    ∃ t, exec .weaveLoadDone s = .next t ∧ t.rg R.weaveStatusError 0 = stWeaveMalformed ∧ t.wtab.table = s.wtab.table ∧
      t.rg R.weaveStatusErrorEntry 0 = 0 ∧ t.rg R.weaveStatusState 0 = s.rg R.weaveStatusState 0 ∧ t.wtab.loading = none)

/-- An arm needs lock and a start at least 16 Rounds ahead; it takes WEAVE_START, cycle_len and WEAVE_CYCLES,
clears the slip counters and the job's halt.  A stop of an armed table ends the arm; a stop of a running one makes
its current occurrence the last; stop_now ends issue at once and drops the entries that wait. -/
def Obligations.ArmAndStopControlTheRun : Prop :=
  (∀ (s : State) (v : Nat), s.barOpen 0x500000 = true → bit v 18 = true → ctrlBits v = 1 →
    s.rg R.weaveStatusState 0 = 1 → s.locked = true → s.round + 16 ≤ s.rg R.weaveStartStart 0 →
    1 ≤ bits v 32 25 → bits v 32 25 ≤ 2 ^ 24 →
    (∀ e ∈ s.wtab.table, weOffset e < bits v 32 25) →
    ∃ t, exec (.weaveArm v) s = .next t ∧ t.rg R.weaveStatusState 0 = 2 ∧ t.rg R.weaveStatusError 0 = 0 ∧
      t.wtab.armS = s.rg R.weaveStartStart 0 ∧ t.wtab.armC = bits v 32 25 ∧ t.wtab.armN = s.rg R.weaveCyclesCycles 0 ∧
      t.wtab.table = s.wtab.table ∧ t.rg R.weaveSlipTotalTotal 0 = 0 ∧ t.rg R.weaveSlipMaxSlip 0 = 0 ∧
      t.rb R.fltStatusJobHalted 0 = false ∧ t.round = s.round) ∧
  (∀ (s : State) (v : Nat), s.barOpen 0x500000 = true → bit v 18 = true → ctrlBits v = 1 →
    s.rg R.weaveStatusState 0 = 1 → s.locked = false →
    ∃ t, exec (.weaveArm v) s = .next t ∧ t.rg R.weaveStatusState 0 = 1 ∧ t.rg R.weaveStatusError 0 = stRoundUnlocked ∧
      t.wtab = s.wtab) ∧
  (∀ (s : State) (v : Nat), s.barOpen 0x500000 = true → bit v 18 = true → ctrlBits v = 1 →
    s.rg R.weaveStatusState 0 = 1 → s.locked = true → s.rg R.weaveStartStart 0 < s.round + 16 →
    ∃ t, exec (.weaveArm v) s = .next t ∧ t.rg R.weaveStatusState 0 = 1 ∧
      t.rg R.weaveStatusError 0 = stWeaveStartPast ∧ t.wtab = s.wtab) ∧
  (∀ (s : State) (v : Nat), s.barOpen 0x500000 = true → bit v 19 = true → ctrlBits v = 1 →
    s.rg R.weaveStatusState 0 = 2 →
    ∃ t, exec (.weaveStop v) s = .next t ∧ t.rg R.weaveStatusState 0 = 1 ∧ t.rb R.weaveStatusDone 0 = true ∧ t.wtab = s.wtab) ∧
  (∀ (s : State) (v : Nat), s.barOpen 0x500000 = true → bit v 19 = true → ctrlBits v = 1 →
    s.rg R.weaveStatusState 0 = 3 → s.wtab.armN = 0 → s.wtab.lastOcc = none →
    ∃ t, exec (.weaveStop v) s = .next t ∧ t.wtab.lastOcc = some (s.occurrenceAt s.round) ∧ t.wtab.table = s.wtab.table ∧
      t.wtab.waiting = s.wtab.waiting) ∧
  (∀ (s : State) (v : Nat), s.barOpen 0x500000 = true → bit v 20 = true → ctrlBits v = 1 →
    2 ≤ s.rg R.weaveStatusState 0 →
    ∃ t, exec (.weaveStopNow v) s = .next t ∧ t.rg R.weaveStatusState 0 = 1 ∧ t.rb R.weaveStatusDone 0 = true ∧
      t.wtab.waiting = [] ∧ t.wtab.active = s.wtab.active ∧ t.wtab.table = s.wtab.table)

/-- A LINK_SLOT entry that waits is accepted once no earlier work has its unit, and finishes when its duration has
ended with no message of its VC waiting on the port; an entry whose slip exceeds its budget raises
FLT_SCHEDULE_OVERRUN with the entry, its slip and its occurrence: the fault is counted and the job halted. -/
def Obligations.EntriesAreAcceptedFinishedOrOverrun : Prop :=
  (∀ (s : State) (e : EntryOcc), s.rg R.weaveStatusState 0 = 3 → s.wtab.waiting = [e] → s.wtab.active = [] →
    weKind e.words = 2 →
    ∃ t, exec (.entryAccept e.idx e.occ) s = .next t ∧ t.wtab.waiting = [] ∧ t.wtab.active = [e] ∧ t.mem = s.mem ∧
      t.wale = s.wale) ∧
  (∀ (s : State) (e a : EntryOcc), s.wtab.waiting = [e] → s.wtab.active = [a] → sameUnit a.words e.words = true →
    exec (.entryAccept e.idx e.occ) s = .next s) ∧
  (∀ (s : State) (e : EntryOcc), s.wtab.active = [e] → weKind e.words = 2 → e.due + weDuration e.words ≤ s.round →
    (∀ m ∈ (s.port (bits e.words 64 4)).out, m.vc ≠ 32 + bits e.words 68 4) →
    ∃ t, exec (.linkSlotFinish e.idx e.occ) s = .next t ∧ t.wtab.active = [] ∧ t.wtab.waiting = s.wtab.waiting) ∧
  (∀ (s : State) (e : EntryOcc), s.rg R.weaveStatusState 0 = 3 → s.wtab.waiting = [e] → s.wtab.active = [] →
    e ∉ s.wtab.quiet → weBudget e.words < s.round - e.due →
    ∃ t, exec .fltScheduleOverrun s = .next t ∧
      t = ({ s with wtab := { s.wtab with quiet := [e] } } : State).raise { FaultInfo.mk0 fltScheduleOverrun 7 0 with
        part := wePart e.words, ctx := weCtx e.words, entry := e.idx, slip := s.round - e.due, occ := e.occ } ∧
      t.rg R.fltCountCount 0 = (s.rg R.fltCountCount 0 + 1) % 2 ^ 64 ∧ t.rb R.fltStatusJobHalted 0 = true ∧
      t.rg R.weaveStatusState 0 = 1 ∧ t.wtab.waiting = [])

/-! ### Contexts and packets -/

/-- The commands of CTX_CTRL from the physical function move a context between its states: BIND from FREE to
READY with its accounting at zero, DRAIN from ACTIVE or ERROR to DRAINING with nothing left undispatched,
CLEAR_ERROR from ERROR to ACTIVE, RELEASE from READY to FREE; a command that its state does not admit sets
cmd_refused and changes nothing else.

ACTIVATE of a READY context that passes its checks makes it ACTIVE with the consumer index of each enabled
ring at zero, its queues empty and its event counters as memory holds them. -/
def Obligations.ContextCommandsMoveTheContext : Prop :=
  (∀ (s : State) (c : Nat), s.barOpen 0x200000 = true → c < 4096 → s.bindOk 0 c = true →
    ∃ t, exec (.bind c 0) s = .next t ∧ t.ctxState c = ctxReady ∧ (∀ f ∈ acctFields, t.rg f c = 0) ∧ t.mem = s.mem ∧
      t.out = s.out) ∧
  (∀ (s : State) (c : Nat), s.barOpen 0x200000 = true → c < 4096 → (s.ctxState c = ctxActive ∨ s.ctxState c = ctxError) →
    ∃ t, exec (.drain c 0) s = .next t ∧ t.ctxState c = ctxDraining ∧ (∀ n, n < 4 → (t.ring c n).queue = []) ∧
      (t.ctx c).flushed = (s.ctx c).flushed ++ (below 4).flatMap (fun n => (s.ring c n).queue) ∧
      (t.ctx c).jobs = (s.ctx c).jobs ∧ t.mem = s.mem) ∧
  (∀ (s : State) (c : Nat), c < 4096 → s.ctxState c = ctxDraining → (s.ctx c).jobs = [] → (s.ctx c).flushed = [] →
    exec (.drainDone c) s = .next (s.rset R.ctxStatusState c ctxReady)) ∧
  (∀ (s : State) (c : Nat), s.barOpen 0x200000 = true → c < 4096 → s.ctxState c = ctxError →
    exec (.clearError c 0) s = .next (s.rset R.ctxStatusState c ctxActive)) ∧
  (∀ (s : State) (c : Nat), s.barOpen 0x200000 = true → 0 < c → c < 4096 → s.ctxState c = ctxReady →
    exec (.release c 0) s = .next ((s.tlbDropCtx c).rset R.ctxStatusState c ctxFree)) ∧
  (∀ (s : State) (c : Nat), s.barOpen 0x200000 = true → c < 4096 →
    (s.ctxState c ≠ ctxFree → exec (.bind c 0) s = .next (s.rset R.ctxStatusCmdRefused c 1)) ∧
    (s.ctxState c ≠ ctxError → exec (.clearError c 0) s = .next (s.rset R.ctxStatusCmdRefused c 1)) ∧
    (s.ctxState c ≠ ctxActive → s.ctxState c ≠ ctxError → exec (.drain c 0) s = .next (s.rset R.ctxStatusCmdRefused c 1)) ∧
    (s.ctxState c ≠ ctxReady ∨ c = 0 → exec (.release c 0) s = .next (s.rset R.ctxStatusCmdRefused c 1))) ∧
  (∀ (s : State) (c : Nat), s.barOpen 0x200000 = true → c < 4096 → (s.tlbDropCtx c).activateOk c = true →
    ((s.tlbDropCtx c).vread ⟨c, 16⟩ (s.rg R.ctxEventBaseBase c) (8 * s.rg R.ctxEventCfgCount c)).st = 0 →
    ∃ t, exec (.activate c 0) s = .next t ∧ t.ctxState c = ctxActive ∧ (∀ n, n < 4 → (t.ring c n).queue = []) ∧
      (∀ n ∈ s.enabledRings c, t.rg R.ctxRingCiCi (c * 4 + n) = 0) ∧ (t.ctx c).jobs = [] ∧
      (t.ctx c).counters = counterMap 0 (pieces 8
        ((s.tlbDropCtx c).vread ⟨c, 16⟩ (s.rg R.ctxEventBaseBase c) (8 * s.rg R.ctxEventCfgCount c)).bs))

/-- At a poll within its budget the front spends one index read for each enabled ring and one for the completion
ring, and takes each index that it reads; a poll that the budget does not cover is deferred whole to the next
Round, counted and shown. -/
def Obligations.PollsReadIndicesWithinTheBudget : Prop :=
  (∀ (s u : State) (c fm : Nat) (e : Bool) (rest : List Poll), s.pollQ (2 * (s.ctx c).front) = ⟨c, e⟩ :: rest →
    s.ctxState c = ctxActive → s.pollCost c ≤ s.budgetLeft (s.ctx c).front → (∀ j, j < 4 → s.heldBack c j = false) →
    u = (((s.setPollQ (2 * (s.ctx c).front) rest).spend (s.ctx c).front (s.pollCost c)).setCtx c
      { s.ctx c with polled := some s.beat }) →
    u.budgetLeft (s.ctx c).front = s.budgetLeft (s.ctx c).front - ((s.enabledRings c).length + 1) ∧
    exec (.contextPoll c fm) s = .next (((s.enabledRings c).foldl (fun x n => x.pollRing c fm n) u).pollCq c fm) ∧
    (∀ (n : Nat) (rd v : Rd), s.enabledRings c = [n] → n < 4 → rd = u.vread (s.frontRq c) (s.rg R.ctxRingIdxAddrAddr (c * 4 + n)) 4 →
      s.ringFailed c n = false → bit fm n = false → bit fm 4 = false → rd.st = 0 →
      (leNat rd.bs + 2 ^ 32 - s.rg R.ctxRingCiCi (c * 4 + n)) % 2 ^ 32 ≤ 2 ^ s.rg R.ctxRingCfgLog2Slots (c * 4 + n) →
      v = (u.pollRing c fm n).vread (s.frontRq c) (s.rg R.ctxCqIdxAddrAddr c) 4 → v.st = 0 →
      ∃ t, exec (.contextPoll c fm) s = .next t ∧ (t.ring c n).pi = leNat rd.bs ∧
        (t.ring c n).more = (leNat rd.bs != s.rg R.ctxRingCiCi (c * 4 + n)) ∧ (t.ctx c).cqCi = leNat v.bs ∧
        (t.ctx c).polled = some s.beat ∧ (t.ring c n).queue = (s.ring c n).queue)) ∧
  (∀ (s : State) (c fm : Nat) (e : Bool) (rest : List Poll), s.pollQ (2 * (s.ctx c).front) = ⟨c, e⟩ :: rest →
    s.ctxState c = ctxActive → s.budgetLeft (s.ctx c).front < s.pollCost c →
    ∃ t, exec (.contextPoll c fm) s = .next t ∧ t.rb R.ctxStatusPollDeferred c = true ∧
      t.rg R.cmdPollDeferredCount 0 = (s.rg R.cmdPollDeferredCount 0 + 1) % 2 ^ R.cmdPollDeferredCount.width ∧
      t.pollQ (2 * (s.ctx c).front) = rest ∧
      t.pollQ (2 * (s.ctx c).front + 1) = s.pollQ (2 * (s.ctx c).front + 1) ++ [⟨c, e⟩] ∧ t.mem = s.mem)

/-- In the Round of a poll the front fetches from a ring with unfetched packets, and in a later Round it goes on
without a new index read; a packet read whole is queued with the status of its checks and the Round after as the
first in which it is eligible, and the consumer index advances past it; a read that fails on PCI Express puts a record
in the ring's order and is counted; a packet whose opcode the table does not define gets ST_CMD_OPCODE. -/
def Obligations.FetchQueuesCheckedPackets : Prop :=
  (∀ (s : State) (c n : Nat) (rd : Rd), s.fetchable c n = true → (∀ j, j < 4 → s.heldBack c j = false) →
    (s.ring c n).queue = [] →
    rd = (s.setRing c n { s.ring c n with fetchAt := some s.beat }).readSlots c n (s.rg R.ctxRingCiCi (c * 4 + n)) 1 →
    rd.st = 0 → pkUnits (leNat rd.bs) = 1 →
    ((s.ring c n).pi + 2 ^ 32 - s.rg R.ctxRingCiCi (c * 4 + n)) % 2 ^ 32 = 1 →
    ∃ t, (if (s.ctx c).polled = some s.beat then exec (.packetFetch c n false) s = .next t
        else exec (.fetchContinue c n false) s = .next t) ∧
      (t.ring c n).queue = [⟨n, s.rg R.ctxRingCiCi (c * 4 + n), leNat rd.bs, s.beat + 1,
        if rd.s.fetchCheck c (leNat rd.bs) = 0 then none else some ⟨rd.s.fetchCheck c (leNat rd.bs), 0, 0⟩, none⟩] ∧
      t.rg R.ctxRingCiCi (c * 4 + n) = (s.rg R.ctxRingCiCi (c * 4 + n) + 1) % 2 ^ 32 ∧ (t.ring c n).more = false) ∧
  (∀ (s : State) (c n : Nat), s.fetchable c n = true →
    ∃ t, (if (s.ctx c).polled = some s.beat then exec (.packetFetch c n true) s = .next t
        else exec (.fetchContinue c n true) s = .next t) ∧
      t.rg R.cmdFetchErrorsCount 0 = (s.rg R.cmdFetchErrorsCount 0 + 1) % 2 ^ R.cmdFetchErrorsCount.width ∧
      (∃ p, (t.ring c n).queue = (s.ring c n).queue ++ [p] ∧ p.reject = some ⟨stCmdRingFetch, 0, 0⟩) ∧ t.mem = s.mem) ∧
  (∀ (s : State) (c w : Nat), pkOp w ∉ pkOpcodes → s.fetchCheck c w = stCmdOpcode)

/-- The head packet of a ring is dispatched once it is eligible, its wait and fence hold, fewer than 64 packets
are dispatched and a completion slot is free; without a slot cq_full is shown, and while it is shown nothing is
dispatched; one that names what its context may not use ends with ST_CMD_DENIED, and one rejected at fetch is
never dispatched and takes a slot for its record. -/
def Obligations.DispatchTakesTheHeadPacket : Prop :=
  (∀ (s : State) (c n : Nat) (p : Packet) (rest : List Packet), c < 4096 → n < 4 → s.ctxState c = ctxActive →
    s.rb R.ctxStatusCqFull c = false → (s.ring c n).queue = p :: rest → s.ready c p = true → (p.reject = none → pkOp p.words ≠ 0x02) → (s.scarce c = true → s.turn c = some n) →
    s.cqFree c = true → (p.reject = none → s.denied c p.words = false) →
    ∃ t, exec (.packetDispatch c n) s = .next t ∧ (t.ring c n).queue = rest ∧
      (t.ctx c).jobs = (s.ctx c).jobs ++ [⟨p, p.reject⟩] ∧ t.mem = s.mem ∧ t.out = s.out ∧
      (t.ctx c).lastRing = (if p.reject = none then n else (s.ctx c).lastRing) ∧
      t.rg R.ctxStatusDispatched c =
        ((s.ctx c).dispatched + (if p.reject = none then 1 else 0)) % 2 ^ R.ctxStatusDispatched.width) ∧
  (∀ (s : State) (c n : Nat) (p : Packet) (rest : List Packet), c < 4096 → n < 4 → s.ctxState c = ctxActive →
    s.rb R.ctxStatusCqFull c = false → (s.ring c n).queue = p :: rest → s.ready c p = true → p.reject = none → pkOp p.words ≠ 0x02 → (s.scarce c = true → s.turn c = some n) →
    s.cqFree c = true → s.denied c p.words = true →
    ∃ t, exec (.packetDispatch c n) s = .next t ∧ (t.ctx c).jobs = (s.ctx c).jobs ++ [⟨p, some ⟨stCmdDenied, 0, 0⟩⟩]) ∧
  (∀ (s : State) (c n : Nat) (p : Packet) (rest : List Packet), c < 4096 → n < 4 → s.ctxState c = ctxActive →
    s.rb R.ctxStatusCqFull c = false → (s.ring c n).queue = p :: rest → s.ready c p = true → (p.reject = none → pkOp p.words ≠ 0x02) → (s.scarce c = true → s.turn c = some n) →
    s.cqFree c = false → exec (.packetDispatch c n) s = .next (s.rset R.ctxStatusCqFull c 1)) ∧
  (∀ (s : State) (c n : Nat) (p : Packet) (rest : List Packet), (s.ring c n).queue = p :: rest →
    (s.beat < p.elig ∨ s.rb R.ctxStatusCqFull c = true ∨
      (p.reject = none ∧ (64 ≤ (s.ctx c).dispatched ∨ s.waitMet c p.words = false ∨
        (pkFence p.words = true ∧ ∃ j ∈ (s.ctx c).jobs, j.pkt.ring = p.ring)))) →
    exec (.packetDispatch c n) s = .next s)

/-- WAIT_MEM at the head of a ring reads its 64-bit value when its other conditions hold: where the comparison
holds it completes, where it does not it stays at the head and is not evaluated again before a later poll.

A NOP packet does nothing but end; EVENT_SIGNAL adds its value to a counter of its target, or sets it, with the
write-through to memory that `State.setCounter` makes, and ends with ST_CMD_EVENT_RANGE where the target has no such counter;
TLB_INVALIDATE leaves no cached translation that its range covers, and counts itself. -/
def Obligations.SignallingAndWaitingPacketsEnd : Prop :=
  (∀ (s : State) (c n : Nat) (p : Packet) (rest : List Packet) (rd : Rd), c < 4096 → n < 4 → s.ctxState c = ctxActive →
    s.rb R.ctxStatusCqFull c = false → (s.ring c n).queue = p :: rest → s.ready c p = true → p.reject = none →
    pkOp p.words = 0x02 → s.waitDue c p = true → (s.scarce c = true → s.turn c = some n) →
    (∀ j, j < 4 → s.heldBack c j = false) → s.cqFree c = true →
    rd = (s.spend (s.ctx c).front 1).vread (s.frontRq c) (bits p.words 256 48) 8 → rd.st = 0 →
    (waitCompare p.words (leNat rd.bs) = true →
      ∃ t, exec (.waitMem c n) s = .next t ∧ (t.ring c n).queue = rest ∧
        (t.ctx c).jobs = (s.ctx c).jobs ++ [⟨p, some ⟨0, 0, 0⟩⟩]) ∧
    (waitCompare p.words (leNat rd.bs) = false →
      ∃ t, exec (.waitMem c n) s = .next t ∧ (t.ring c n).queue = { p with evalAt := some s.beat } :: rest ∧
        (t.ctx c).jobs = (s.ctx c).jobs)) ∧
  (∀ (s : State) (c n slot : Nat) (p : Packet), s.running c n slot 0x00 = some p →
    (∀ j, j < 4 → s.heldBack c j = false) → exec (.nop c n slot) s = .next (s.finish c n slot ⟨0, 0, 0⟩)) ∧
  (∀ (s : State) (c n slot : Nat) (p : Packet), s.running c n slot 0x01 = some p →
    (∀ j, j < 4 → s.heldBack c j = false) →
    s.ctxState (bits p.words 272 12) ≠ ctxFree → s.ctxState (bits p.words 272 12) ≠ ctxReady →
    bits p.words 256 16 < s.rg R.ctxEventCfgCount (bits p.words 272 12) →
    ∃ t, exec (.eventSignal c n slot) s = .next t ∧
      t = (s.setCounter (bits p.words 272 12) (bits p.words 256 16)
        (if bit p.words 288 then bits p.words 320 64
          else s.counter (bits p.words 272 12) (bits p.words 256 16) + bits p.words 320 64)).finish c n slot ⟨0, 0, 0⟩ ∧
      t.counter (bits p.words 272 12) (bits p.words 256 16) =
        (if bit p.words 288 then bits p.words 320 64
          else s.counter (bits p.words 272 12) (bits p.words 256 16) + bits p.words 320 64) % 2 ^ 64) ∧
  (∀ (s : State) (c n slot : Nat) (p : Packet), s.running c n slot 0x01 = some p →
    (∀ j, j < 4 → s.heldBack c j = false) →
    s.ctxState (bits p.words 272 12) = ctxFree ∨ s.ctxState (bits p.words 272 12) = ctxReady ∨ s.rg R.ctxEventCfgCount (bits p.words 272 12) ≤ bits p.words 256 16 →
    exec (.eventSignal c n slot) s = .next (s.finish c n slot ⟨stCmdEventRange, 0, 0⟩)) ∧
  (∀ (s : State) (c n slot : Nat) (p : Packet), s.running c n slot 0x50 = some p →
    (∀ j, j < 4 → s.heldBack c j = false) → bit p.words 269 = false →
    ∃ t, exec (.tlbInvalidate c n slot) s = .next t ∧ t.mem = s.mem ∧
      t.rg R.mmuInvalidationsCount 0 = (s.rg R.mmuInvalidationsCount 0 + 1) % 2 ^ R.mmuInvalidationsCount.width ∧
      (∀ x ∈ t.ms.tlb, ∀ e ∈ x.2, (∃ y ∈ s.ms.tlb, y.1 = x.1 ∧ e ∈ y.2) ∧
        ((bit p.words 268 = true ∨ e.ctx = bits p.words 256 12) →
          bits p.words 320 48 + bits p.words 384 40 ≤ e.va ∨ e.va + 2 ^ e.log2 ≤ bits p.words 320 48)) ∧
      (∀ x ∈ t.ms.walks, ∀ e ∈ x.2, (∃ y ∈ s.ms.walks, y.1 = x.1 ∧ e ∈ y.2) ∧
        ((bit p.words 268 = true ∨ e.ctx = bits p.words 256 12) →
          bits p.words 320 48 + bits p.words 384 40 ≤ e.va ∨ e.va + 2 ^ tableSpan e.level ≤ bits p.words 320 48)))

/-- A packet whose work has ended completes: it leaves the dispatched packets; one that ended with status 0, asks
for no completion and signals no counter does no more; one with an error status has its record written and moves its
context to ERROR with that status, discarding what is queued.  A moderated MSI-X message goes out once moderation
allows it, and the record of a discarded packet once a slot is free and no earlier packet of its ring runs. -/
def Obligations.CompletionsRecordsAndMessages : Prop :=
  (∀ (s : State) (c n slot : Nat) (p : Packet), (s.ctx c).jobs = [⟨p, some ⟨0, 0, 0⟩⟩] → p.ring = n → p.slot = slot →
    pkCmpl p.words = false → s.rg R.ctxEventCfgCount c ≤ pkSignal p.words →
    ∃ t, exec (.packetComplete c n slot) s = .next t ∧ (t.ctx c).jobs = [] ∧ t.rg R.ctxStatusDispatched c = 0 ∧
      t.mem = s.mem ∧ t.out = s.out ∧ t.ctxState c = s.ctxState c) ∧
  (∀ (s : State) (c n slot : Nat) (p : Packet) (d : Done), (s.ctx c).jobs = [⟨p, some d⟩] → p.ring = n → p.slot = slot →
    (∀ j, j < 4 → s.heldBack c j = false) → d.status < 2 ^ 16 →
    d.status ≠ 0 → isErrorStatus d.status = true → s.ctxState c = ctxActive → s.rg R.ctxEventCfgCount c ≤ pkSignal p.words →
    ∃ u t : State, (u.ctx c).jobs = [] ∧ u.mem = s.mem ∧ u.ctxState c = ctxActive ∧
      exec (.packetComplete c n slot) s = .next t ∧ t = (u.writeCq c p d).enterError c d.status n slot 0 ∧
      t.ctxState c = ctxError ∧ t.rg R.ctxLastErrorStatus c = d.status ∧ (t.ctx c).jobs = [] ∧
      (t.ctx c).cqPi = ((s.ctx c).cqPi + 1) % 2 ^ 32 ∧ (∀ k, k < 4 → (t.ring c k).queue = [])) ∧
  (∀ (s : State) (c r : Nat), (s.ctx c).msiDue = true → (s.ctx c).lastMsi = some r →
    r + s.rg R.ctxCqCfgModerate c ≤ s.beat →
    exec (.msixModeratedSend c) s = .next ((s.setCtx c { s.ctx c with lastMsi := some s.beat, msiDue := false }).emit
      (.msix (s.rg R.ctxCfgFunction c) (s.rg R.ctxCfgMsixVector c)))) ∧
  (∀ (s : State) (c : Nat) (p : Packet) (rest : List Packet), (s.ctx c).flushed = p :: rest → s.cqFree c = true →
    (∀ j ∈ (s.ctx c).jobs, j.pkt.ring ≠ p.ring) → (∀ j, j < 4 → s.heldBack c j = false) →
    ∃ t, exec (.flushedRecordWrite c) s = .next t ∧
      t = (s.setCtx c { s.ctx c with flushed := rest }).writeCq c p ⟨stCmdFlushed, 0, 0⟩ ∧
      (t.ctx c).flushed = rest ∧ (t.ctx c).cqPi = ((s.ctx c).cqPi + 1) % 2 ^ 32)

/-- WRITE_IMM and TIMESTAMP of an address that a cached leaf maps to a backed, writable address within one
sector store 8 bytes there, the value of the packet or the Round count, and change no other byte; TIMESTAMP
completes with it (here without a record and without a signal, whose bytes are other stores). -/
def Obligations.WriteImmAndTimestampStoreEightBytes : Prop :=
  ∀ (s : State) (c n slot : Nat) (p : Packet) (l : TlbEnt),
    (∀ j, j < 4 → s.heldBack c j = false) → s.rb R.ctxPtRootValid c = true →
    bits p.words 256 48 % 8 = 0 → s.leaf (s.frontRq c) (bits p.words 256 48) = some l →
    (s.walk c (bits p.words 256 48) true).2 = some l → l.write = true → l.pa % 4096 = 0 → 12 ≤ l.log2 →
    s.writeStatus (l.pa + bits p.words 256 48 % 2 ^ l.log2) = 0 →
    (s.running c n slot 0x03 = some p →
      ∃ t, exec (.writeImm c n slot) s = .next t ∧
        (∀ k, k < 8 → t.byte (l.pa + bits p.words 256 48 % 2 ^ l.log2 + k) = ((natLe 8 (bits p.words 320 64))[k]?).getD 0) ∧
        (∀ a, a < l.pa + bits p.words 256 48 % 2 ^ l.log2 ∨ l.pa + bits p.words 256 48 % 2 ^ l.log2 + 8 ≤ a →
          t.byte a = s.byte a) ∧
        (t.ctx c).jobs = ((s.finish c n slot ⟨0, 0, 0⟩).ctx c).jobs) ∧
    (s.running c n slot 0x04 = some p → pkCmpl p.words = false → s.rg R.ctxEventCfgCount c ≤ pkSignal p.words →
      ∃ t, exec (.timestamp c n slot) s = .next t ∧
        (∀ k, k < 8 → t.byte (l.pa + bits p.words 256 48 % 2 ^ l.log2 + k) = ((natLe 8 s.round)[k]?).getD 0) ∧
        (∀ a, a < l.pa + bits p.words 256 48 % 2 ^ l.log2 ∨ l.pa + bits p.words 256 48 % 2 ^ l.log2 + 8 ≤ a →
          t.byte a = s.byte a) ∧
        (t.ctx c).jobs = (s.ctx c).jobs.filter (fun j => !(j.at_ n slot)))

/-- FILL of at most a sector, and COPY in mode 0 between two places that each lie within a sector and do not meet,
where cached leaves map them to backed addresses of good memory: the destination's bytes become the pattern, or the
bytes of the source, no other byte changes, and the packet ends with status 0. -/
def Obligations.FillAndCopyWriteTheirDestination : Prop :=
  (∀ (s : State) (c n slot : Nat) (p : Packet) (l : TlbEnt) (va len : Nat),
    (∀ j, j < 4 → s.heldBack c j = false) → s.running c n slot 0x11 = some p → s.rb R.ctxPtRootValid c = true →
    va = bits p.words 256 48 → len = bits p.words 384 40 → 0 < len → va % 64 + len ≤ 64 →
    s.leaf (s.frontRq c) va = some l → (s.walk c va true).2 = some l → l.write = true →
    l.pa % 4096 = 0 → 12 ≤ l.log2 → s.writeStatus (l.pa + va % 2 ^ l.log2) = 0 →
    ∃ t, exec (.fill c n slot) s = .next t ∧
      (∀ k, k < len → t.byte (l.pa + va % 2 ^ l.log2 + k) = ((natLe 8 (bits p.words 320 64))[k % 8]?).getD 0) ∧
      (∀ a, a < l.pa + va % 2 ^ l.log2 ∨ l.pa + va % 2 ^ l.log2 + len ≤ a → t.byte a = s.byte a) ∧
      (t.ctx c).jobs = ((s.finish c n slot ⟨0, 0, 0⟩).ctx c).jobs) ∧
  (∀ (s : State) (c n slot : Nat) (p : Packet) (ls ld : TlbEnt) (src dst len : Nat),
    (∀ j, j < 4 → s.heldBack c j = false) → s.running c n slot 0x10 = some p → s.rb R.ctxPtRootValid c = true →
    bits p.words 424 4 = 0 → src = bits p.words 256 48 → dst = bits p.words 320 48 → len = bits p.words 384 40 →
    0 < len → src % 64 + len ≤ 64 → dst % 64 + len ≤ 64 → (src + len ≤ dst ∨ dst + len ≤ src) →
    s.ms.bad = [] → s.ms.badWords = [] →
    s.leaf (s.frontRq c) src = some ls → (s.walk c src false).2 = some ls → ls.pa % 4096 = 0 → 12 ≤ ls.log2 →
    s.readStatus (ls.pa + src % 2 ^ ls.log2) len = 0 →
    s.leaf (s.frontRq c) dst = some ld → (s.walk c dst true).2 = some ld → ld.write = true → ld.pa % 4096 = 0 →
    12 ≤ ld.log2 → s.writeStatus (ld.pa + dst % 2 ^ ld.log2) = 0 →
    ∃ t, exec (.copy c n slot) s = .next t ∧
      (∀ k, k < len → t.byte (ld.pa + dst % 2 ^ ld.log2 + k) = s.byte (ls.pa + src % 2 ^ ls.log2 + k)) ∧
      (∀ a, a < ld.pa + dst % 2 ^ ld.log2 ∨ ld.pa + dst % 2 ^ ld.log2 + len ≤ a → t.byte a = s.byte a) ∧
      (t.ctx c).jobs = ((s.finish c n slot ⟨0, 0, 0⟩).ctx c).jobs)

/-- WEAVE_RUN waits as a weave of its context when the context may use its Stakes and its bound is allowed; a
Stake it may not use ends it with ST_WEAVE_STAKES, a bound of 0 or one above max_run_bound with ST_RUN_BOUND; it does
nothing yet while a WEAVE_RUN of its context that was dispatched earlier has not joined. -/
def Obligations.WeaveRunWaitsOrEnds : Prop :=
  (∀ (s : State) (c n slot : Nat) (p : Packet), s.running c n slot 0x20 = some p → p.ring = n → p.slot = slot →
    (∀ w ∈ s.waiting, w.ctx ≠ c) → (∀ w ∈ s.weaves, w.ctx ≠ c) → s.weaveAhead c n slot = false →
    ((∀ st ∈ upFrom (bits p.words 320 11) (bits p.words 336 11), s.mayStake c st = true) → bits p.words 352 32 ≠ 0 →
      (c ≠ 0 → bits p.words 352 32 ≤ s.rg R.partCfgMaxRunBound (s.rg R.ctxCfgPartition c)) →
      ∃ t, exec (.weaveRun c n slot) s = .next t ∧
        t.waiting = s.waiting ++ [⟨c, n, slot, bits p.words 256 48, bits p.words 320 11, bits p.words 336 11,
          bits p.words 352 32, s.beat⟩] ∧
        t.rb R.partCtxStateWaiting c = true ∧ (t.ctx c).ageFrom = s.beat ∧ (t.ctx c).jobs = (s.ctx c).jobs ∧
        t.mem = s.mem ∧ t.weaves = s.weaves) ∧
    ((∃ st ∈ upFrom (bits p.words 320 11) (bits p.words 336 11), s.mayStake c st = false) →
      exec (.weaveRun c n slot) s = .next (s.finish c n slot ⟨stWeaveStakes, 0, 0⟩)) ∧
    ((∀ st ∈ upFrom (bits p.words 320 11) (bits p.words 336 11), s.mayStake c st = true) →
      (bits p.words 352 32 = 0 ∨ (c ≠ 0 ∧ s.rg R.partCfgMaxRunBound (s.rg R.ctxCfgPartition c) < bits p.words 352 32)) →
      exec (.weaveRun c n slot) s = .next (s.finish c n slot ⟨stRunBound, 0, 0⟩))) ∧
  (∀ (s : State) (c n slot : Nat), s.weaveAhead c n slot = true → exec (.weaveRun c n slot) s = .next s)

/-- COLLECTIVE whose turn has come is posted to its channel's queue, behind those posted before, and takes its
group's next sequence number; one that fails a check of the rule ends with the status of that check; context 0 is
denied. -/
def Obligations.CollectiveIsCheckedAndPosted : Prop :=
  ∀ (s : State) (c n slot : Nat) (p : Packet), s.tabTurn c n slot 0x30 = some p →
    (∀ o ∈ s.collOps (coChan p.words), o.ctx ≠ c) → (s.collOps (coChan p.words)).length < 16 →
    (s.collCheck c p.words = 0 →
      ∃ t, exec (.collective c n slot) s = .next t ∧
        t.collOps (coChan p.words) = s.collOps (coChan p.words) ++ [⟨c, n, slot, p.words, false, 0, [], [], [], 0⟩] ∧
        t.rg R.collGroupSeqNext (coGroup p.words) =
          (s.rg R.collGroupSeqNext (coGroup p.words) + 1) % 2 ^ R.collGroupSeqNext.width ∧
        t.rg R.collChanStatusPosted (coChan p.words) = (s.collOps (coChan p.words)).length + 1 ∧ t.mem = s.mem ∧
        t.out = s.out) ∧
    (s.collCheck c p.words ≠ 0 →
      exec (.collective c n slot) s = .next (s.tabEnd c n slot ⟨s.collCheck c p.words, 0, 0⟩)) ∧
    (c = 0 → s.collCheck c p.words = stCmdDenied)

/-- PREFETCH begins its list.  PLACE over a range that maps no pool frame ends with no miss; over one frame of the tier
asked for it pins or unpins it; a frame that moves takes the first free frame of that tier; a DEMOTE that finds no
free frame ends with one miss, counted in the pool.  KV_UNPARK clears the parked flag of the entry that it names, and
ends with ST_KV_LENGTH on an open table. -/
def Obligations.ListPlaceAndUnparkPackets : Prop :=
  (∀ (s : State) (c n slot : Nat) (p : Packet), s.running c n slot 0x40 = some p → s.lists = [] →
    exec (.prefetch c n slot) s = .next { s with lists := [⟨0, c, s.rg R.ctxCfgPartition c, some (n, slot), 0, 0, 0,
      bits p.words 256 48, bits p.words 320 16, 0, 0, none⟩] }) ∧
  (∀ (s : State) (c n slot : Nat) (p : Packet), s.running c n slot 0x41 = some p → (∀ j, j < 4 → s.heldBack c j = false) →
    (s.entryFrames c (bits p.words 256 48 * 2 ^ 64 + bits p.words 320 40 * 2 ^ 128) = [] →
      exec (.place c n slot) s = .next (s.finish c n slot ⟨0, 0, 0⟩)) ∧
    (∀ va k i, s.entryFrames c (bits p.words 256 48 * 2 ^ 64 + bits p.words 320 40 * 2 ^ 128) = [va] →
      s.poolFrameAt c va = some (k, i) → (i < s.poolNh k ↔ bits p.words 360 2 = 0) →
      exec (.place c n slot) s = .next ((s.setPin k i (bit p.words 362)).finish c n slot ⟨0, 0, 0⟩)) ∧
    (∀ va k i j rest u, s.entryFrames c (bits p.words 256 48 * 2 ^ 64 + bits p.words 320 40 * 2 ^ 128) = [va] →
      s.poolFrameAt c va = some (k, i) → i < s.poolNh k → bits p.words 360 2 ≠ 0 → s.hampFree k = j :: rest →
      (s.setHampFree k rest).moveFrame c k i j = (u, none) →
      exec (.place c n slot) s = .next ((u.setPin k j (bit p.words 362)).finish c n slot ⟨0, 0, 0⟩)) ∧
    (∀ va k i j rest u, s.entryFrames c (bits p.words 256 48 * 2 ^ 64 + bits p.words 320 40 * 2 ^ 128) = [va] →
      s.poolFrameAt c va = some (k, i) → s.poolNh k ≤ i → bits p.words 360 2 = 0 → s.hbmFree k = j :: rest →
      (s.setHbmFree k rest).moveFrame c k i j = (u, none) →
      exec (.place c n slot) s = .next ((u.setPin k j (bit p.words 362)).finish c n slot ⟨0, 0, 0⟩)) ∧
    (∀ va k i, s.entryFrames c (bits p.words 256 48 * 2 ^ 64 + bits p.words 320 40 * 2 ^ 128) = [va] →
      s.poolFrameAt c va = some (k, i) → i < s.poolNh k → bits p.words 360 2 ≠ 0 → s.hampFree k = [] →
      ∃ t : State, exec (.place c n slot) s = .next (t.finish c n slot ⟨0, 1, 0⟩) ∧ t.mem = s.mem ∧
        t.rg R.poolMissesCount k = (s.rg R.poolMissesCount k + 1) % 2 ^ R.poolMissesCount.width)) ∧
  (∀ (s : State) (c n slot : Nat) (p : Packet) (rd re : Rd) (wr : Wr), s.running c n slot 0x80 = some p →
    (∀ j, j < 4 → s.heldBack c j = false) → rd = s.vread (s.frontRq c) (bits p.words 256 48) 64 → rd.st = 0 →
    bhOpen (leNat rd.bs) = false → rd.s.headerBad (leNat rd.bs) = false → bit p.words 336 = false →
    bits p.words 320 16 < bhCount (leNat rd.bs) →
    re = rd.s.vread (rd.s.frontRq c) (bits p.words 256 48 + 64 + 64 * bits p.words 320 16) 64 → re.st = 0 →
    beReserved (leNat re.bs) = false →
    wr = re.s.vwrite (re.s.frontRq c) (bits p.words 256 48 + 64 + 64 * bits p.words 320 16 + 32)
      (natLe 1 (putBits (bits (leNat re.bs) 256 8) 1 1 0)) → wr.st = 0 →
    exec (.kvUnpark c n slot) s = .next (wr.s.finish c n slot ⟨0, 0, 0⟩)) ∧
  (∀ (s : State) (c n slot : Nat) (p : Packet) (rd : Rd), s.running c n slot 0x80 = some p →
    (∀ j, j < 4 → s.heldBack c j = false) → rd = s.vread (s.frontRq c) (bits p.words 256 48) 64 → rd.st = 0 →
    bhOpen (leNat rd.bs) = true →
    exec (.kvUnpark c n slot) s = .next (rd.s.finish c n slot ⟨stKvLength, 0, 0⟩))

/-- SFU_TABLE_LOAD of an image whose signature verifies and whose body is well formed writes it into the slot of
every target Stake, counts the load and ends with status 0, and one that names no key changes no slot and ends with
ST_TABLE_SIGNATURE; SFU_BIND of a loaded slot binds the function on every target Stake, and ends at once where no
descriptor holds the function's previous slot; a slot that is not loaded ends it with ST_TABLE_MALFORMED. -/
def Obligations.SfuTablePacketsLoadAndBind : Prop :=
  (∀ (s u : State) (c n slot : Nat) (p : Packet) (body sig : List Byte) (key : List Byte),
    s.tabTurn c n slot 0x60 = some p → (∀ j, j < 4 → s.heldBack c j = false) →
    s.readImageTable (s.frontRq c) (bits p.words 256 48) = (u, .ok (body, sig)) →
    u.keyOf (tbKey (leNat body)) = some key → Config.xmssVerify key body sig = true → bodyMalformed (leNat body) = false →
    (∀ st ∈ u.sfuStakes c (bits p.words 320 16), u.slotBoundFn st (bits p.words 304 3) = false ∧
      u.slotHeld st (bits p.words 304 3) = false) →
    ∃ t, exec (.sfuTableLoad c n slot) s = .next t ∧
      t = (((((u.sfuStakes c (bits p.words 320 16)).foldl (fun x st =>
        (x.writeTable st (bits p.words 304 3) (leNat body)).refreshSlots st) u).radd R.sfuLoadsCount 0 1).extend 4
          (digest body)).tabEnd c n slot ⟨0, 0, 0⟩) ∧
      t.rg R.sfuLoadsCount 0 = (u.rg R.sfuLoadsCount 0 + 1) % 2 ^ R.sfuLoadsCount.width ∧
      (∀ st ∈ u.sfuStakes c (bits p.words 320 16),
        smGet t.sfu.slots (st * 8 + bits p.words 304 3) = some (leNat body) ∧
        t.rb R.sfuSlotLoaded (st * 8 + bits p.words 304 3) = true)) ∧
  (∀ (s u : State) (c n slot : Nat) (p : Packet) (body sig : List Byte),
    s.tabTurn c n slot 0x60 = some p → (∀ j, j < 4 → s.heldBack c j = false) →
    s.readImageTable (s.frontRq c) (bits p.words 256 48) = (u, .ok (body, sig)) →
    u.keyOf (tbKey (leNat body)) = none →
    exec (.sfuTableLoad c n slot) s = .next (u.tabEnd c n slot ⟨stTableSignature, 0, 0⟩)) ∧
  (∀ (s : State) (c n slot : Nat) (p : Packet), s.tabTurn c n slot 0x61 = some p → s.sfu.pend = [] →
    bits p.words 256 8 ≠ 0 →
    (∀ st ∈ s.sfuStakes c (bits p.words 320 16), s.rb R.sfuSlotLoaded (st * 8 + bits p.words 264 3) = true ∧
      s.slotFn st (bits p.words 264 3) = bits p.words 256 8 ∧
      ∀ j ∈ s.sfuBinding st (bits p.words 256 8), s.slotHeld st j = false) →
    ∃ t, exec (.sfuBind c n slot) s = .next t ∧
      t = ((s.sfuStakes c (bits p.words 320 16)).foldl (fun x st =>
        x.bindSlot st (bits p.words 256 8) (bits p.words 264 3)) s).tabEnd c n slot ⟨0, 0, 0⟩ ∧
      (∀ st ∈ s.sfuStakes c (bits p.words 320 16), t.sfuBinding st (bits p.words 256 8) = some (bits p.words 264 3))) ∧
  (∀ (s : State) (c n slot : Nat) (p : Packet), s.tabTurn c n slot 0x61 = some p → s.sfu.pend = [] →
    bits p.words 256 8 ≠ 0 →
    (∃ st ∈ s.sfuStakes c (bits p.words 320 16), s.rb R.sfuSlotLoaded (st * 8 + bits p.words 264 3) = false) →
    exec (.sfuBind c n slot) s = .next (s.tabEnd c n slot ⟨stTableMalformed, 0, 0⟩))

/-- PLAIT_TABLE_LOAD of a good table object closes the named slot of every selected die; PLAIT_SLOT_WRITE writes
the table into a closed slot and opens it, and ends the load with its last slot. -/
def Obligations.PlaitTableLoadClosesAndWritesSlots : Prop :=
  (∀ (s u : State) (c n slot : Nat) (p : Packet) (bs : List Byte), s.tabTurn c n slot 0x62 = some p → s.plait.loads = [] →
    (∀ j, j < 4 → s.heldBack c j = false) →
    s.placeRead ⟨1, 0, s.frontRq c, bits p.words 256 48⟩ 0 576 = (u, .ok bs) → u.plait.loads = [] →
    tableMalformed (leNat bs) = false → u.denied c p.words = false → loadKeys p.words ≠ [] →
    ∃ t, exec (.plaitTableLoad c n slot) s = .next t ∧
      t.plait.loads = [⟨c, n, slot, leNat bs, loadKeys p.words⟩] ∧ t.plait.tables = u.plait.tables ∧ t.mem = u.mem ∧
      (∀ k ∈ loadKeys p.words, t.slotClosed k = true) ∧
      t = { (loadKeys p.words).foldl (fun x k => x.setClosed k true) u with plait := t.plait }) ∧
  (∀ (s : State) (key : Nat) (l : PlaitLoad), s.plait.loads = [l] → l.left = [key] →
    ∃ t, exec (.plaitSlotWrite key) s = .next t ∧ smGet t.plait.tables key = some l.table ∧ t.plait.loads = [] ∧
      t.slotGen key = bits l.table 40 16 ∧ t.slotClosed key = false ∧ t.mem = s.mem ∧
      (∀ j ∈ (t.ctx l.ctx).jobs, j.at_ l.ring l.slot = true → j.fin.isSome = true)) ∧
  (∀ (s : State) (key other : Nat) (l : PlaitLoad), s.plait.loads = [l] → l.left = [key, other] → key ≠ other →
    ∃ t, exec (.plaitSlotWrite key) s = .next t ∧ smGet t.plait.tables key = some l.table ∧
      t.slotGen key = bits l.table 40 16 ∧ t.slotClosed key = false ∧
      t.plait.loads = [{ l with left := [other] }] ∧ t.ctxs = s.ctxs)

/-- VID_OPEN of a closed session opens it on a cluster, needing a key frame where it decodes; one of a session in use
ends with ST_VID_SESSION.  VID_DECODE and VID_ENCODE of a usable session queue their jobs, behind those queued before,
on the session's cluster.  VID_CLOSE moves a session to CLOSING, and a closing session without jobs becomes CLOSED and
ends its VID_CLOSE; a VID_CLOSE of a closed session ends with ST_VID_SESSION. -/
def Obligations.VideoPacketsOpenQueueAndClose : Prop :=
  (∀ (s : State) (c n slot k b r : Nat) (p : Packet) (rd : Rd), s.running c n slot 0x70 = some p →
    (∀ j, j < 4 → s.heldBack c j = false) →
    rd = s.vread (s.frontRq c) (bits p.words 320 48) 64 → rd.st = 0 → r = leNat rd.bs →
    openMalformed r = false → bit r 21 = false → k = bits p.words 256 9 → rd.s.sessState k = 0 →
    (bit r 16 = true → bits r 17 2 ≠ 1 ∧ bits r 24 16 ≤ 8192 ∧ bits r 40 16 ≤ 4352) →
    bits r 24 16 * bits r 40 16 ≤ 35651584 → rd.s.openCluster r = some b →
    workNeed (bits r 24 16) (bits r 40 16) (bit r 22) (bit r 16) ≤ bits r 128 48 →
    ∃ t, exec (.vidOpen c n slot) s = .next t ∧
      t = (rd.s.openSession c k b r).finish c n slot ⟨0, k + b * 2 ^ 9, 0⟩ ∧
      t.sessState k = (if bit r 16 then 1 else 2) ∧ t.rg R.vidSessionContext k = c % 2 ^ R.vidSessionContext.width) ∧
  (∀ (s : State) (c n slot r : Nat) (p : Packet) (rd : Rd), s.running c n slot 0x70 = some p →
    (∀ j, j < 4 → s.heldBack c j = false) →
    rd = s.vread (s.frontRq c) (bits p.words 320 48) 64 → rd.st = 0 → r = leNat rd.bs →
    openMalformed r = false → bit r 21 = false → rd.s.sessState (bits p.words 256 9) ≠ 0 →
    exec (.vidOpen c n slot) s = .next (rd.s.finish c n slot ⟨stVidSession, 0, 0⟩)) ∧
  (∀ (s : State) (c n slot k r : Nat) (p : Packet) (rd rc : Rd), s.running c n slot 0x71 = some p → p.ring = n → p.slot = slot →
    (∀ j, j < 4 → s.heldBack c j = false) →
    (∀ b, b < 2 → ∀ j ∈ s.vidJobs b, ¬ (j.ctx = c ∧ j.ring = n ∧ j.slot = slot)) →
    k = bits p.words 256 9 → s.sessUsable c k = true → s.rb R.vidSessionEncode k = false →
    rd = s.vread (s.frontRq c) (bits p.words 320 48) 128 → rd.st = 0 → r = leNat rd.bs → decodeMalformed r = false →
    rc = rd.s.vread (rd.s.frontRq c) (bits r 448 48) 96 → rc.st = 0 →
    colourBad ((pieces 4 rc.bs).map leNat) (below (bits r 21 2 + 1)) (bit r 20) = false →
    ∃ t, exec (.vidDecode c n slot) s = .next t ∧
      t.vidJobs (s.rg R.vidSessionCluster k) = s.vidJobs (s.rg R.vidSessionCluster k) ++
        [⟨c, n, slot, k, r, (pieces 4 rc.bs).map leNat, false, 0, false, [], false, 0, 0, 0, 0, 0, none, none⟩] ∧
      t.vid.sess = s.vid.sess ∧ (t.ctx c).jobs = (s.ctx c).jobs) ∧
  (∀ (s : State) (c n slot k r : Nat) (p : Packet) (rd rc : Rd), s.running c n slot 0x72 = some p → p.ring = n → p.slot = slot →
    (∀ j, j < 4 → s.heldBack c j = false) →
    (∀ b, b < 2 → ∀ j ∈ s.vidJobs b, ¬ (j.ctx = c ∧ j.ring = n ∧ j.slot = slot)) →
    k = bits p.words 256 9 → s.sessUsable c k = true → s.rb R.vidSessionEncode k = true →
    rd = s.vread (s.frontRq c) (bits p.words 320 48) 128 → rd.st = 0 → r = leNat rd.bs → rd.s.encodeMalformed k r = false →
    rc = rd.s.vread (rd.s.frontRq c) (bits r 304 48) 96 → rc.st = 0 →
    colourBad ((pieces 4 rc.bs).map leNat) [0, 1, 2] false = false →
    ∃ t, exec (.vidEncode c n slot) s = .next t ∧
      t.vidJobs (s.rg R.vidSessionCluster k) = s.vidJobs (s.rg R.vidSessionCluster k) ++
        [⟨c, n, slot, k, r, (pieces 4 rc.bs).map leNat, false, 0, false, [], false, 0, 0, 0, 0, 0, none, none⟩] ∧
      t.vid.sess = s.vid.sess ∧ (t.ctx c).jobs = (s.ctx c).jobs) ∧
  (∀ (s : State) (c n slot : Nat) (p : Packet), s.running c n slot 0x73 = some p → s.sessUsable c (bits p.words 256 9) = true →
    exec (.vidClose c n slot) s = .next (s.rset R.vidSessionState (bits p.words 256 9) 3)) ∧
  (∀ (s : State) (c n slot : Nat) (p : Packet), s.running c n slot 0x73 = some p → s.sessState (bits p.words 256 9) = 0 →
    exec (.vidClose c n slot) s = .next (s.finish c n slot ⟨stVidSession, 0, 0⟩)) ∧
  (∀ (s : State) (k : Nat) (j : Job), s.sessState k = 3 → (∀ b, b < 2 → ∀ x ∈ s.vidJobs b, x.session ≠ k) →
    (s.ctx (s.rg R.vidSessionContext k)).jobs = [j] → j.fin = none → pkOp j.pkt.words = 0x73 →
    bits j.pkt.words 256 9 = k →
    ∃ t, exec (.sessionClosed k) s = .next t ∧ t.sessState k = 0 ∧
      (t.ctx (s.rg R.vidSessionContext k)).jobs = [{ j with fin := some ⟨0, 0, 0⟩ }])

/-! ### Partitions -/

/-- A partition that overlaps no other, names a function that exists and has no context at work takes a write of
PART_CFG that enables or disables it, and a write of its Skeins, resources or sessions; a write to a partition that is
held, and one that would make an enabled partition overlap another, is refused whole and sets cfg_refused. -/
def Obligations.PartitionWritesAreCheckedWhole : Prop :=
  (∀ (s : State) (p v : Nat), s.barOpen 0x400000 = true → p < 64 → bits v 0 1 ≠ s.rg R.partCfgEnable p → s.partHeld p = false →
    s.ctxsOf p = [] → ((s.putPart p 0 v).rb R.partCfgEnable p = true → (s.putPart p 0 v).partBad p = false) →
    ∃ t, exec (.partEnable p v 0) s = .next t ∧ t = s.moveOwners (s.putPart p 0 v) ∧
      t.rg R.partCfgEnable p = bits v 0 1 ∧ t.rg R.partCfgFunction p = bits v 8 6) ∧
  (∀ (s : State) (p reg v : Nat), s.barOpen 0x400000 = true → p < 64 → 1 ≤ reg → reg ≤ 3 → s.partHeld p = false →
    ((s.putPart p reg v).rb R.partCfgEnable p = true → (s.putPart p reg v).partBad p = false) →
    ∃ t, exec (.partConfigWrite p reg v 0) s = .next t ∧ t = s.moveOwners (s.putPart p reg v) ∧
      (reg = 1 → t.rg R.partSkeinsSkeins p = v % 2 ^ 64) ∧ (reg = 2 → t.rg R.partResCollChannels p = bits v 0 32) ∧
      (reg = 3 → bits v 0 9 + bits v 16 10 ≤ 512 →
        t.rg R.partVidSessionFirst p = bits v 0 9 ∧ t.rg R.partVidSessionCount p = bits v 16 10)) ∧
  (∀ (s : State) (p v : Nat), s.barOpen 0x400000 = true → p < 64 → bits v 0 1 ≠ s.rg R.partCfgEnable p →
    (s.partHeld p = true ∨ s.ctxsOf p ≠ [] ∨ ((s.putPart p 0 v).rb R.partCfgEnable p = true ∧ (s.putPart p 0 v).partBad p = true)) →
    exec (.partEnable p v 0) s = .next (s.rset R.partStatusCfgRefused p 1)) ∧
  (∀ (s : State) (p reg v : Nat), s.barOpen 0x400000 = true → p < 64 → 1 ≤ reg → reg ≤ 3 →
    (s.partHeld p = true ∨ ((s.putPart p reg v).rb R.partCfgEnable p = true ∧ (s.putPart p reg v).partBad p = true)) →
    exec (.partConfigWrite p reg v 0) s = .next (s.rset R.partStatusCfgRefused p 1))

/-- A weave that has not freed its Stakes at boundary t + b is marked over its bound once, in its context and, where
that belongs to a partition, in PART_OVERRUNS (that context 0 counts in none is the model's reading); a context whose
age reaches its partition's urgency becomes urgent.

At an attribution boundary PART_ENERGY takes the interval's energy: with no counter that counts it all goes
to idle, with no idle power and one bound context that counted it all goes to that context; at other boundaries nothing is
attributed. -/
def Obligations.OverBoundsUrgencyAndEnergy : Prop :=
  (∀ (s : State) (w : Weave), s.weaves = [w] → w.overBound = false → w.start + w.bound ≤ s.beat →
    ∃ t, exec (.overBound w.id) s = .next t ∧ t.rb R.partCtxStateOverBound w.ctx = true ∧
      t.rg R.partOverrunsCount w.part = (if w.ctx = 0 then s.rg R.partOverrunsCount w.part
        else (s.rg R.partOverrunsCount w.part + 1) % 2 ^ R.partOverrunsCount.width) ∧
      t.weaves = [{ w with overBound := true }] ∧ t.mem = s.mem ∧ exec (.overBound w.id) t = .next t) ∧
  (∀ (s : State) (w : Weave), s.weaves = [w] → s.beat < w.start + w.bound → exec (.overBound w.id) s = .next s) ∧
  (∀ (s : State) (c : Nat) (w : WaitWeave), w ∈ s.waiting → w.ctx = c → c ≠ 0 →
    s.rg R.partCfgUrgency (s.rg R.ctxCfgPartition c) ≤ s.beat - (s.ctx c).ageFrom → s.rb R.partCtxStateUrgent c = false →
    ∃ t, exec (.contextUrgent c) s = .next t ∧ t.rb R.partCtxStateUrgent c = true ∧
      t.rg R.partStatusUrgent (s.rg R.ctxCfgPartition c) =
        (s.rg R.partStatusUrgent (s.rg R.ctxCfgPartition c) + 1) % 2 ^ R.partStatusUrgent.width ∧ t.mem = s.mem) ∧
  (∀ (s : State) (e : Nat), s.round % 1024 = 0 → s.round ≠ s.parts.lastAttr → s.acctCtxs = [] →
    ∃ t, exec (.energyAttribution e) s = .next t ∧
      t.rg R.partEnergyInputEnergy 0 = (s.rg R.partEnergyInputEnergy 0 + e) % 2 ^ R.partEnergyInputEnergy.width ∧
      t.rg R.partEnergyIdleEnergy 0 = (s.rg R.partEnergyIdleEnergy 0 + e) % 2 ^ R.partEnergyIdleEnergy.width ∧
      t.parts.lastAttr = s.round ∧ t.mem = s.mem) ∧
  (∀ (s : State) (e c : Nat), s.round % 1024 = 0 → s.round ≠ s.parts.lastAttr → s.acctCtxs = [c] → 0 < s.modelled c →
    s.rg R.partEnergyCoefCoef 7 = 0 → s.ctxState c ≠ ctxFree →
    ∃ t, exec (.energyAttribution e) s = .next t ∧
      t.rg R.partAcctEnergyCount c = (s.rg R.partAcctEnergyCount c + e) % 2 ^ R.partAcctEnergyCount.width ∧
      t.rg R.partEnergyInputEnergy 0 = (s.rg R.partEnergyInputEnergy 0 + e) % 2 ^ R.partEnergyInputEnergy.width ∧
      t.parts.lastAttr = s.round ∧ t.mem = s.mem) ∧
  (∀ (s : State) (e : Nat), s.round % 1024 ≠ 0 → exec (.energyAttribution e) s = .next s)

/-! ### HBM, the Creel and the adders -/

/-- A request to a window, to scratch or to a Hamper channel within one sector crosses the mesh and answers the bytes
there, or stores its bytes and changes no other; one that the Creel serves counts a hit; an unbacked read answers zeros
and an unbacked write is discarded, both with ST_MEM_UNBACKED; a word with more errors than the code corrects answers
poison.  While the stacks are in self-refresh nothing reaches them.  The path between two Coils goes from neighbour to neighbour,
along the row first and then along the destination's column; between a Coil and a Border die it stays in the Coil's row, and
between the Border dies in the row of the transfer. -/
def Obligations.CreelRequestReadsAndWritesMemory : Prop :=
  (∀ (s : State) (src c a n : Nat) (na : Bool) (data : List Byte), s.memUp = true → 0 < n → a % 64 + n ≤ 64 → data.length = n →
    (s.readStatus a n = 0 → s.region a ≠ .host →
      ∃ t, exec (.creelRequest (src, c) a n false na [] 0) s = .next t ∧
        t.out = (s.crossMesh src a).out ++ [.readData (leNat (s.bytes a n)), .status 0] ∧ (∀ b, t.byte b = s.byte b)) ∧
    (s.writeStatus a = 0 → s.region a ≠ .host →
      ∃ t, exec (.creelRequest (src, c) a n true na data 0) s = .next t ∧ (∀ k, k < n → t.byte (a + k) = (data[k]?).getD 0) ∧
        (∀ b, b < a ∨ a + n ≤ b → t.byte b = s.byte b) ∧ t.out = (s.crossMesh src a).out ++ [.status 0]) ∧
    (∀ (k : Nat) (l : Line), s.region a = .hbm → s.coilOf a = some k → s.readStatus a n = 0 →
      (smGetD s.ms.creel (k * 262144 + creelSet (a / 128)) []).find? (fun x => x.la == a / 128) = some l →
      l.valid (a / 64 % 2) = true →
      ∃ t, exec (.creelRequest (src, c) a n false na [] 0) s = .next t ∧
        t.rg R.creelHitsCount k = (s.rg R.creelHitsCount k + 1) % 2 ^ R.creelHitsCount.width ∧
        t.rg R.creelMissesCount k = s.rg R.creelMissesCount k) ∧
    (s.region a = .unbacked →
      (∃ t, exec (.creelRequest (src, c) a n false na [] 0) s = .next t ∧ t.mem = s.mem ∧ t.regs = s.regs ∧
        t.out = s.out ++ [.readData 0, .status stMemUnbacked]) ∧
      (∃ t, exec (.creelRequest (src, c) a n true na data 0) s = .next t ∧ t.mem = s.mem ∧ t.regs = s.regs ∧
        t.out = s.out ++ [.status stMemUnbacked]))) ∧
  (∀ (s : State) (src c a n err ch ca k : Nat) (na : Bool), s.memUp = true → 0 < n → a % 64 + n ≤ 64 → s.region a = .hbm →
    s.coilOf a = some k → s.channelOf a = some (ch, ca) → s.cached a = false → 3 ≤ err → err ≤ 36 →
    ∃ t, exec (.creelRequest (src, c) a n false na [] err) s = .next t ∧
      t.out = (s.crossMesh src a).out ++ [.poisoned a, .status stMemUncorrectable] ∧ a / 64 ∈ t.ms.bad ∧
      t.rb R.memErrLogValid 0 = true ∧ t.mem = s.mem) ∧
  (∀ (s : State) (src c a n err : Nat) (w na : Bool) (data : List Byte), s.memUp = false →
    exec (.creelRequest (src, c) a n w na data err) s = .next s) ∧
  (∀ (a b : Nat) (x : Crossing), a < 16 → b < 16 → (meshRoute a b x).head? = some a ∧ (meshRoute a b x).getLast? = some b ∧
    (meshRoute a b x).length = (max (a % 4) (b % 4) - min (a % 4) (b % 4)) + (max (a / 4) (b / 4) - min (a / 4) (b / 4)) + 1 ∧
    ∀ i p q, (meshRoute a b x)[i]? = some p → (meshRoute a b x)[i + 1]? = some q →
      (∃ d, meshPort p d = some (.coil q)) ∧ (p / 4 ≠ q / 4 → p % 4 = b % 4)) ∧
  (∀ (c die : Nat) (x : Crossing), c < 16 → die < 2 → (meshRoute c (16 + die) x).head? = some c ∧
    (meshRoute c (16 + die) x).getLast? = some (16 + die) ∧
    (∀ p ∈ meshRoute c (16 + die) x, p < 16 → p / 4 = c / 4) ∧
    meshRoute (16 + die) c x = (meshRoute c (16 + die) x).reverse ∧
    (∀ p ∈ meshRoute (16 + die) (17 - die) x, p < 16 → p / 4 = x.row))

/-- A write of MEM_MAPOUT that names a GOOD or SUSPECT channel moves it to PENDING; the count window's end returns a
SUSPECT channel to GOOD and restarts the count; a scrub read of a good word only shows that the pass goes on, one with a
correctable error counts it, one with an uncorrectable error marks the word and logs it, and none passes data. -/
def Obligations.ChannelHealthFollowsErrors : Prop :=
  (∀ (s : State) (v : Nat), s.barOpen 0x600000 = true → bit v 31 = true → s.healthOf (bits v 0 10) ≤ 1 →
    ∃ t, exec (.memMapout v 0) s = .next t ∧ t.healthOf (bits v 0 10) = 2 ∧ t.regs = s.regs ∧ t.mem = s.mem ∧
      t.out = s.out) ∧
  (∀ s : State, s.round % 2 ^ s.rg R.memHealthCfgWindowLog2 0 = 0 →
    ∃ t, exec .ceWindowEnd s = .next t ∧ t.ms.ceWindow = [] ∧ t.regs = s.regs ∧ t.mem = s.mem ∧
      (∀ ch, ch < 1024 → t.healthOf ch = (if s.healthOf ch = 1 then 0 else s.healthOf ch))) ∧
  (∀ (s : State) (ch ca a : Nat) (last : Bool), s.rb R.memScrubCfgEnable 0 = true → s.memUp = true → ca < 0xC0000000 →
    s.chanAddr ch ca = some a →
    (s.ms.bad.contains (a / 64) = false →
      exec (.patrolScrubRead ch ca 0 last) s = .next (s.rset R.memStatusScrubActive 0 (b2n (!last)))) ∧
    (∃ t, exec (.patrolScrubRead ch ca 1 last) s = .next t ∧ t.mem = s.mem ∧ t.out = s.out ∧
      smGetD t.ms.ceWindow ch 0 = smGetD s.ms.ceWindow ch 0 + 1) ∧
    (∀ err, 3 ≤ err → s.region a = .hbm → (s.channelOf a).isSome = true →
      ∃ t, exec (.patrolScrubRead ch ca err last) s = .next t ∧ t.mem = s.mem ∧ t.out = s.out ∧ a / 64 ∈ t.ms.bad ∧
        t.rb R.memErrLogValid 0 = true))

/-- A write of CREEL_WAYCFG that makes no way scratch returns scratch ways to the cache at once; one that makes
ways scratch sets busy and the ways' addresses stay unbacked; when the conversion ends, busy clears and every
byte of the converted ways reads zero. -/
def Obligations.WaysConvertBetweenCacheAndScratch : Prop :=
  (∀ (s : State) (k v : Nat), s.barOpen 0x700000 = true → k < 16 → s.rb R.creelWaycfgBusy k = false →
    bits v 0 16 = s.rg R.creelWaycfgScratch k →
    ∃ t, exec (.creelWaycfg k v 0) s = .next t ∧ t.rg R.creelWaycfgScratch k = bits v 0 16 ∧
      t.rb R.creelWaycfgBusy k = false ∧ t.mem = s.mem) ∧
  (∀ (s : State) (k v : Nat), s.barOpen 0x700000 = true → k < 16 → s.rb R.creelWaycfgBusy k = false →
    s.rg R.creelWaycfgScratch k = 0 → bits v 0 16 = 1 → s.ms.creel = [] →
    ∃ t, exec (.creelWaycfg k v 0) s = .next t ∧ t.rg R.creelWaycfgScratch k = 1 ∧ t.rb R.creelWaycfgBusy k = true ∧
      t.region (scratchBase k 0) = .unbacked ∧ t.mem = s.mem) ∧
  (∀ (s : State) (k : Nat), k < 16 → s.rb R.creelWaycfgBusy k = true → smGetD s.ms.converting k 0 = 1 →
    s.rg R.creelWaycfgScratch k = 1 → s.imgBase = 0 →
    ∃ t, exec (.scratchReady k) s = .next t ∧ t.rb R.creelWaycfgBusy k = false ∧
      t.region (scratchBase k 0) = .scratch k 0 ∧
      (∀ o, o < 0x2000000 → t.byte (scratchBase k 0 + o) = 0) ∧
      (∀ a, a < scratchBase k 0 ∨ scratchBase k 0 + 0x2000000 ≤ a → t.byte a = s.byte a))

/-- A request to the memory-side adders whose turn has come is applied: in arrival order at once, ordered when its tag
is next_tag or has become it; a later tag is held, one outside its hoop ends with ST_MEM_ADDER_FORMAT, and a done
marker advances next_tag, with which an epoch ends; one whose turn has not come waits. -/
def Obligations.AddersApplyRequestsInTheirOrder : Prop :=
  (∀ (s : State) (r : AddReq), s.addReady r.id = some r → r.marker = false → (∀ j, j < 4 → s.heldBack r.ctx j = false) →
    (r.ordered = false → exec (.addRequest r.id) s = .next ((s.applyAdd r).1.addDone r (s.applyAdd r).2)) ∧
    (r.ordered = true → r.held = false → s.hoopBad r = false →
      r.tag = s.rg R.memHoopStateNextTag (hoopElem r.coil r.hoop) →
      exec (.orderedAdd r.id) s = .next ((s.applyAdd r).1.addDone r (s.applyAdd r).2)) ∧
    (r.held = true → r.tag = s.rg R.memHoopStateNextTag (hoopElem r.coil r.hoop) →
      exec (.heldAddAdmit r.id) s = .next ((s.applyAdd r).1.addDone r (s.applyAdd r).2))) ∧
  (∀ (s : State) (r : AddReq), s.addReady r.id = some r → r.marker = false → r.ordered = true → r.held = false →
    (s.hoopBad r = true → exec (.orderedAdd r.id) s = .next (s.addDone r stMemAdderFormat)) ∧
    (s.hoopBad r = false → s.rg R.memHoopStateNextTag (hoopElem r.coil r.hoop) < r.tag → s.ms.adds = [r] →
      ∃ t, exec (.orderedAdd r.id) s = .next t ∧ t.ms.adds = [{ r with held := true }] ∧ t.mem = s.mem)) ∧
  (∀ (s : State) (r : AddReq), s.addReady r.id = some r → r.marker = true →
    r.tag = s.rg R.memHoopStateNextTag (hoopElem r.coil r.hoop) →
    (r.tag + 1 < s.rg R.memHoopCfgN (hoopElem r.coil r.hoop) →
      ∃ t, exec (.doneMarker r.id) s = .next t ∧ t.mem = s.mem ∧ t.ms.adds = s.ms.adds.filter (fun q => q.id != r.id) ∧
        t.rg R.memHoopStateNextTag (hoopElem r.coil r.hoop) = (r.tag + 1) % 2 ^ R.memHoopStateNextTag.width) ∧
    (s.rg R.memHoopCfgN (hoopElem r.coil r.hoop) ≤ r.tag + 1 →
      ∃ t, exec (.doneMarker r.id) s = .next t ∧ t.rg R.memHoopStateNextTag (hoopElem r.coil r.hoop) = 0 ∧
        t.rg R.memHoopStateEpoch (hoopElem r.coil r.hoop) =
          (s.rg R.memHoopStateEpoch (hoopElem r.coil r.hoop) + 1) % 2 ^ R.memHoopStateEpoch.width)) ∧
  (∀ (s : State) (id : Nat), s.addReady id = none →
    exec (.addRequest id) s = .next s ∧ exec (.orderedAdd id) s = .next s ∧ exec (.heldAddAdmit id) s = .next s ∧
      exec (.doneMarker id) s = .next s)

/-- An INT32 add request to a backed, good sector adds its addend to the element that its mask names, modulo 2^32, leaves
every other byte, and ends. -/
def Obligations.AdderSumsElementsOfOneSector : Prop :=
  ∀ (s : State) (r : AddReq) (x c : Nat), r.fmt = 0x10 → r.src = 0x10 → r.mask = 1 → r.addends = [x] → x < 2 ^ 32 →
    r.addr % 64 = 0 → s.region r.addr = .hbm → s.coilOf r.addr = some c → s.ms.bad.contains (r.addr / 64) = false →
    s.addReady r.id = some r → r.marker = false → r.ordered = false → (∀ j, j < 4 → s.heldBack r.ctx j = false) →
    ∃ t, exec (.addRequest r.id) s = .next t ∧ t.num r.addr 4 = (s.num r.addr 4 + x) % 2 ^ 32 ∧
      (∀ a, a < r.addr ∨ r.addr + 4 ≤ a → t.byte a = s.byte a) ∧ t.ms.adds = s.ms.adds.filter (fun q => q.id != r.id)

/-! ### The Hamper tier, pools and lists -/

/-- A live Hamper channel that does not answer in time fails, with FLT_HAMPER_FAIL and every later access ending with
ST_MEM_HAMPER_FAIL.  A write of POOL_CFG with enable 1 whose checks pass enables a disabled pool with every frame free;
one whose frames are not aligned is refused; one with enable 0 writes the fields of a disabled pool, and disables a pool
whose frames are all free. -/
def Obligations.HamperFailsAndPoolsAreEnabled : Prop :=
  (∀ (s : State) (ch : Nat), ch < 64 → s.rb R.hampChanStateLive ch = true → s.rb R.hampChanStateFailed ch = false →
    exec (.hamperTimeout ch) s = .next ((s.rset R.hampChanStateFailed ch 1).raise
      { FaultInfo.mk0 fltHamperFail 5 ch with status := stMemHamperFail })) ∧
  (∀ (s : State) (a n ch ca : Nat), s.region a = .hamper → s.hamperOf a = some (ch, ca) → s.rb R.hampChanStateFailed ch = true →
    s.readStatus a n = stMemHamperFail ∧ s.writeStatus a = stMemHamperFail) ∧
  (∀ (s : State) (p v F nh nl : Nat), s.barOpen 0x800000 = true → p < 1024 → s.rb R.poolCfgEnable p = false → bits v 0 3 = 1 →
    12 ≤ bits v 12 5 → bits v 12 5 ≤ 21 → F = 2 ^ bits v 12 5 → nh = s.rg R.poolCountsHbmFrames p →
    nl = s.rg R.poolCountsHampFrames p → s.rg R.poolHbmBase p % F = 0 →
    (s.rg R.poolHampBase p % F = 0 → s.rg R.poolTableBase p % 64 = 0 → 0 < nh + nl → nh + nl ≤ 0xFFFFFFFE →
      (nh ≠ 0 → s.rg R.memWindowBaseBase (bits v 8 4) ≤ s.rg R.poolHbmBase p ∧
        s.rg R.poolHbmBase p + nh * F ≤ s.rg R.memWindowBaseBase (bits v 8 4) + s.rg R.memWindowSizeSize (bits v 8 4)) →
      (nl ≠ 0 → 0x100000000000 ≤ s.rg R.poolHampBase p ∧ s.rg R.poolHampBase p + nl * F ≤ s.rg R.hampEndEnd 0) →
      s.rg R.poolTableBase p + 32 * (nh + nl) ≤ s.rg R.memHbmEndEnd 0 →
      ∃ t, exec (.poolEnable p v 0) s = .next t ∧ t.rb R.poolCfgEnable p = true ∧ t.hbmFree p = below nh ∧
        t.hampFree p = upFrom nh nl ∧ t.ageList p = []) ∧
    (s.rg R.poolHampBase p % F ≠ 0 →
      ∃ t, exec (.poolEnable p v 0) s = .next t ∧ t.rb R.poolCfgEnable p = false ∧ t.rb R.poolCfgCfgRefused p = true ∧
        t.mem = s.mem)) ∧
  (∀ (s : State) (p v : Nat), s.barOpen 0x800000 = true → p < 1024 → s.rb R.poolCfgEnable p = true → bits v 0 3 = 0 →
    (s.hbmFree p).length + (s.hampFree p).length = s.poolN p →
    ∃ t, exec (.poolEnable p v 0) s = .next t ∧ t.rb R.poolCfgEnable p = false ∧ t.hbmFree p = [] ∧ t.hampFree p = [] ∧
      t.ageList p = [] ∧ t.mem = s.mem) ∧
  (∀ (s : State) (p v : Nat), s.barOpen 0x800000 = true → p < 1024 → s.rb R.poolCfgEnable p = false → bits v 0 3 = 0 →
    12 ≤ bits v 12 5 → bits v 12 5 ≤ 21 →
    ∃ t, exec (.poolEnable p v 0) s = .next t ∧ t.rg R.poolCfgFrameLog2 p = bits v 12 5 ∧
      t.rg R.poolCfgHome p = bits v 8 4 ∧ t.rg R.poolCfgPartition p = bits v 24 6 ∧ t.rb R.poolCfgEnable p = false ∧
      t.mem = s.mem)

/-- The next entry of a list takes effect when its op's command comes, and the list goes on to the one behind it: PROMOTE and
DEMOTE of a range without pool frames, or of one frame of the tier asked for, move nothing; a frame that they move takes
the first free frame of the other tier; COPY moves the bytes; MAP maps the first free frame, and adds one miss to the
list where the tier has none; UNMAP unmaps the frames of its range.  A list ends with its packet after its last entry,
and at a malformed one with ST_CMD_MALFORMED. -/
def Obligations.ListEntriesTakeEffectInOrder : Prop :=
  (∀ (s u : State) (id e : Nat) (l n : PfList) (rq : Rq) (rd : Rd), s.list id = some l →
    (∀ j, j < 4 → s.heldBack l.ctx j = false) → rq = s.frontRq l.ctx → rd = s.vread rq (l.va + 32 * l.next) 32 →
    rd.st = 0 → u = rd.s → e = leNat rd.bs → u.entryMalformed e = false → l.next + 1 < l.count →
    n = { l with next := l.next + 1 } →
    (u.entryFrames l.ctx e = [] →
      (leOp e = 0 → exec (.promote id) s = .next (u.setList n)) ∧ (leOp e = 1 → exec (.demote id) s = .next (u.setList n)) ∧
      (leOp e = 4 → exec (.unmap id) s = .next (u.setList n))) ∧
    (∀ va k i, u.entryFrames l.ctx e = [va] → u.poolFrameAt l.ctx va = some (k, i) →
      (leOp e = 0 → i < u.poolNh k → bits e 3 2 = 0 → exec (.promote id) s = .next (u.setList n)) ∧
      (leOp e = 1 → u.poolNh k ≤ i → bits e 3 2 = 0 → exec (.demote id) s = .next (u.setList n)) ∧
      (∀ j rest v, leOp e = 0 → u.poolNh k ≤ i → bits e 3 2 = 0 → u.hbmFree k = j :: rest →
        (u.setHbmFree k rest).moveFrame l.ctx k i j = (v, none) → exec (.promote id) s = .next (v.setList n)) ∧
      (∀ j rest v, leOp e = 1 → i < u.poolNh k → bits e 3 2 = 0 → u.hampFree k = j :: rest →
        (u.setHampFree k rest).moveFrame l.ctx k i j = (v, none) → exec (.demote id) s = .next (v.setList n)) ∧
      (leOp e = 4 → exec (.unmap id) s = .next ((u.unmapFrame k i).setList n))) ∧
    (leOp e = 3 → u.rb R.poolCfgEnable (bits e 16 10) = true → (l.ctx = 0 ∨ u.rg R.poolCfgPartition (bits e 16 10) = u.rg R.ctxCfgPartition l.ctx) →
      leLen e = u.poolF (bits e 16 10) → bit e 5 = false →
      (∀ i rest, u.hbmFree (bits e 16 10) = i :: rest →
        (u.leafSlots l.ctx (leAddr e) (u.poolLog (bits e 16 10)) true).isSome = true →
        exec (.map id) s = .next (((u.setHbmFree (bits e 16 10) rest).mapFrame l.ctx (bits e 16 10) i (leAddr e) (bit e 3)
          (bit e 6)).setList n)) ∧
      (u.hbmFree (bits e 16 10) = [] → u.ageList (bits e 16 10) = [] →
        ∃ t, exec (.map id) s = .next (State.setList t { n with misses := l.misses + 1 }) ∧ t.mem = u.mem ∧
          t.rg R.poolMissesCount (bits e 16 10) = (u.rg R.poolMissesCount (bits e 16 10) + 1) % 2 ^ R.poolMissesCount.width)) ∧
    (∀ (ls ld : TlbEnt) (src dst : Nat), leOp e = 2 → src = leAddr e → dst = bits e 192 48 → leLen e = 64 → dst % 64 = 0 →
      src ≠ dst → u.ms.bad = [] → u.ms.badWords = [] → u.rb R.ctxPtRootValid l.ctx = true →
      u.leaf rq src = some ls → (u.walk l.ctx src false).2 = some ls → ls.pa % 4096 = 0 → 12 ≤ ls.log2 →
      u.readStatus (ls.pa + src % 2 ^ ls.log2) 64 = 0 →
      u.leaf rq dst = some ld → (u.walk l.ctx dst true).2 = some ld → ld.write = true → ld.pa % 4096 = 0 →
      12 ≤ ld.log2 → u.writeStatus (ld.pa + dst % 2 ^ ld.log2) = 0 →
      ∃ t, exec (.listCopy id) s = .next (State.setList t n) ∧ t.lists = u.lists ∧
        (∀ k, k < 64 → t.byte (ld.pa + dst % 2 ^ ld.log2 + k) = u.byte (ls.pa + src % 2 ^ ls.log2 + k)) ∧
        (∀ a, a < ld.pa + dst % 2 ^ ld.log2 ∨ ld.pa + dst % 2 ^ ld.log2 + 64 ≤ a → t.byte a = u.byte a))) ∧
  (∀ (s u : State) (id e ring slot : Nat) (l : PfList) (rd : Rd), s.list id = some l →
    (∀ j, j < 4 → s.heldBack l.ctx j = false) → rd = s.vread (s.frontRq l.ctx) (l.va + 32 * l.next) 32 →
    rd.st = 0 → u = rd.s → e = leNat rd.bs → u.entryMalformed e = false → l.count ≤ l.next + 1 →
    l.packet = some (ring, slot) → leOp e = 0 → u.entryFrames l.ctx e = [] →
    ∃ t, exec (.promote id) s = .next t ∧ t.lists = u.lists.filter (fun x => x.id != l.id) ∧
      (t.ctx l.ctx).jobs = ((u.finish l.ctx ring slot ⟨0, l.misses, 0⟩).ctx l.ctx).jobs) ∧
  (∀ (s : State) (id : Nat) (l : PfList) (rd : Rd), s.list id = some l →
    (∀ j, j < 4 → s.heldBack l.ctx j = false) → rd = s.vread (s.frontRq l.ctx) (l.va + 32 * l.next) 32 → rd.st = 0 → rd.s.entryMalformed (leNat rd.bs) = true →
    exec (.promote id) s = .next (rd.s.endList l stCmdMalformed 0))

/-! ### Resets of partitions, virtual functions -/

/-- A request for a partition reset, or a function-level reset of the partition's virtual function, resets the
partition, writes a RESET entry of the event log, and holds the partition in reset until the reset completes;
NumVFs rises to n, and falls to n with the partition of a virtual function that goes reset and disabled.  A function that
exists presents its vendor, device and class identifiers. -/
def Obligations.PartitionResetsAndVirtualFunctions : Prop :=
  (∀ (s : State) (v p : Nat), p = bits v 0 6 → bit v 6 = true → s.barOpen 0x1000000 = true → s.rb R.pwrStatusReady 0 = true →
    s.rg R.pwrStatusHoldState 0 = 0 → exec (.partitionReset v 0) s = .next (s.startPartition p)) ∧
  (∀ (s u : State) (p : Nat), s.pwr.off = false → s.pwr.stage = 0 → p ∉ s.pwr.partReset →
    u = (s.resetPartition p).logEntry 2 1 p 0 →
    s.startPartition p =
      { u with pwr := { u.pwr with partReset := u.pwr.partReset ++ [p] } }.rset R.pwrPartResetBusy 0 1) ∧
  (∀ (s : State) (p : Nat), p ∈ s.pwr.partReset → s.startPartition p = s) ∧
  (∀ (s : State) (p : Nat), s.pwr.partReset = [p] →
    exec (.partitionResetDone p) s =
      .next ({ s with pwr := { s.pwr with partReset := [] } }.rset R.pwrPartResetBusy 0 0)) ∧
  (∀ (s : State) (vf p : Nat), vf ≠ 0 → vf ≤ s.numVfs → s.vfPart vf = some p →
    exec (.vfFlr vf) s = .next (s.startPartition p)) ∧
  (∀ (s : State) (n : Nat), s.pwr.off = false → s.recovery = false → n ≤ 63 → s.numVfs < n →
    exec (.vfEnable n) s = .next { s with numVfs := n }) ∧
  (∀ (s : State) (n : Nat), n < s.numVfs → (∀ vf, vf ≤ s.numVfs → n < vf → s.vfPart vf = none) →
    exec (.vfDisable n) s = .next { s with numVfs := n }) ∧
  (∀ (s u : State) (n p : Nat), s.numVfs = n + 1 → s.vfPart (n + 1) = some p →
    u = { s with numVfs := n }.startPartition p →
    exec (.vfDisable n) s = .next (u.moveOwners (u.rset R.partCfgEnable p 0))) ∧
  (∀ (s t : State) (n vf : Nat), exec (.vfEnable n) s = .next t → s.pwr.off = false → s.recovery = false → n ≤ 63 →
    s.numVfs < n → t.pciIds 0 = some (0x1F3D, 0x5932, 0x120000) ∧
      (0 < vf → vf ≤ n → t.pciIds vf = some (0x1F3D, 0x5933, 0x120000)) ∧ (n < vf → t.pciIds vf = none))

/-! ### Descriptors and weaves -/

/-- A Stake fetches the next descriptor of its stream and starts it when its barrier, credit and tiles admit it, consuming
the credit; one that they do not admit yet is kept, and a malformed one stops the weave.  A descriptor that completes
counts and signals its credit; one that ends with a status of R221 stops the weave instead, and stays the oldest
uncompleted one of its Stake.  A weave whose Stakes have all finished completes its packet, its event or its fault. -/
def Obligations.DescriptorsAndWeavesComplete : Prop :=
  (∀ (s u : State) (st w : Nat) (x : StakeSt) (wv : Weave) (rd : Rd), smGet s.stakes st = some x → s.weaveOf st = some wv →
    wv.stop = none → (∀ q ∈ x.queued, x.clear q.1 q.2 = false) → x.fetched = [] → x.next < x.total →
    x.held < 64 → (wv.launch = true ∨ ∀ j, j < 4 → s.heldBack wv.ctx j = false) →
    rd = s.vread (stakeRq wv st) (x.stream + 128 * x.next) 128 → rd.st = 0 →
    w = leNat rd.bs → descMalformed wv w = false → opMalformed wv w = false →
    u = (if dWaitCount w = 0 then rd.s
      else rd.s.setCredit st (dWaitCredit w) (rd.s.credit st (dWaitCredit w) - dWaitCount w)) →
    (s.mayDispatch st x w = true → x.clear x.next w = true →
      exec (.descriptorStart st) s = .next ((u.setStake st { x with
        next := x.next + 1, started := x.started ++ [⟨x.next, w, u.resolve st w, none⟩] }).refreshSlots st)) ∧
    (s.mayDispatch st x w = true → x.clear x.next w = false →
      exec (.descriptorStart st) s = .next (rd.s.setStake st { x with
        next := x.next + 1, queued := x.queued ++ [(x.next, w)] })) ∧
    (s.mayDispatch st x w = false →
      exec (.descriptorStart st) s = .next (rd.s.setStake st { x with fetched := [w] }))) ∧
  (∀ (s u : State) (st w : Nat) (ws : List Nat) (x : StakeSt) (wv : Weave), smGet s.stakes st = some x →
    s.weaveOf st = some wv → wv.stop = none → (∀ q ∈ x.queued, x.clear q.1 q.2 = false) → x.fetched = w :: ws →
    u = (if dWaitCount w = 0 then s
      else s.setCredit st (dWaitCredit w) (s.credit st (dWaitCredit w) - dWaitCount w)) →
    (s.mayDispatch st x w = true → x.clear x.next w = true →
      exec (.descriptorStart st) s = .next ((u.setStake st { x with
        next := x.next + 1, fetched := ws, started := x.started ++ [⟨x.next, w, u.resolve st w, none⟩] }).refreshSlots st)) ∧
    (s.mayDispatch st x w = false → x.total ≤ x.next + x.fetched.length → exec (.descriptorStart st) s = .next s)) ∧
  (∀ (s u : State) (st : Nat) (q : Nat × Nat) (x : StakeSt) (wv : Weave), smGet s.stakes st = some x →
    s.weaveOf st = some wv → wv.stop = none → x.queued = [q] → x.clear q.1 q.2 = true →
    u = (if dWaitCount q.2 = 0 then s
      else s.setCredit st (dWaitCredit q.2) (s.credit st (dWaitCredit q.2) - dWaitCount q.2)) →
    exec (.descriptorStart st) s = .next ((u.setStake st { x with
      queued := [], started := x.started ++ [⟨q.1, q.2, u.resolve st q.2, none⟩] }).refreshSlots st)) ∧
  (∀ (s : State) (st w : Nat) (x : StakeSt) (wv : Weave) (rd : Rd), smGet s.stakes st = some x → s.weaveOf st = some wv →
    wv.stop = none → (∀ q ∈ x.queued, x.clear q.1 q.2 = false) → x.fetched = [] → x.next < x.total →
    x.held < 64 → (wv.launch = true ∨ ∀ j, j < 4 → s.heldBack wv.ctx j = false) →
    rd = s.vread (stakeRq wv st) (x.stream + 128 * x.next) 128 → rd.st = 0 → w = leNat rd.bs →
    descMalformed wv w = true ∨ opMalformed wv w = true →
    exec (.descriptorStart st) s = .next (rd.s.stopWeave wv stWeaveImage st x.next)) ∧
  (∀ (s u : State) (st idx w : Nat) (x : StakeSt) (wv : Weave) (b : List (Nat × Nat)) (d : Done) (y : StakeSt),
    smGet s.stakes st = some x → s.weaveOf st = some wv → x.desc idx = some ⟨idx, w, b, some d⟩ →
    (∀ e ∈ x.started, e.idx < idx → sameQueue (dOp e.words) (dOp w) = false) →
    y = (if stopsWeave d.status then { x.leave idx with next := min x.next idx, fetched := [] }
      else { x.leave idx with done := x.done + 1 }) →
    u = (if stopsWeave d.status then (s.setStake st y).rset R.stakeStatusDescIndex st y.oldest
      else ((s.setStake st y).rset R.stakeStatusDescIndex st y.oldest).radd R.stakeDescriptorsCount st 1) →
    (stopsWeave d.status = true →
      exec (.descriptorComplete st idx) s = .next (((u.stopWeave wv d.status st d.info).refreshSlots st).settleBinds)) ∧
    (stopsWeave d.status = false → bit w 28 = true →
      exec (.descriptorComplete st idx) s =
        .next (((u.signal (bits w 32 11) (bits w 24 4) (bits w 48 8)).refreshSlots st).settleBinds)) ∧
    (stopsWeave d.status = false → bit w 28 = false →
      exec (.descriptorComplete st idx) s = .next ((u.refreshSlots st).settleBinds))) ∧
  (∀ (s : State) (st k n : Nat), (s.signal st k n).credit st k = min (s.credit st k + n) 65535 ∧
    (65535 < s.credit st k + n → (s.signal st k n).rb R.stakeStatusCreditOverflow st = true)) ∧
  (∀ (s u : State) (w : Weave), s.weaves.find? (fun x => x.id == w.id) = some w → w.doneAt = none → s.weaveEnded w = true →
    w.cut = false → u = s.setWeave { w with doneAt := some s.beat } →
    (w.launch = false → w.stop = none →
      exec (.weaveComplete w.id) s = .next (u.finish w.ctx w.ring w.slot ⟨0, weaveDetail w 0, 0⟩)) ∧
    (∀ st stake info, w.launch = false → w.stop = some (st, stake, info) →
      exec (.weaveComplete w.id) s = .next (u.finish w.ctx w.ring w.slot ⟨st, weaveDetail w stake, info⟩)) ∧
    (w.launch = true → w.stop = none → w.event < s.rg R.ctxEventCfgCount w.ctx → w.event ≠ 0xFFFF →
      exec (.weaveComplete w.id) s = .next (u.setCounter w.ctx w.event (u.counter w.ctx w.event + 1))) ∧
    (∀ st stake info, w.launch = true → w.stop = some (st, stake, info) →
      exec (.weaveComplete w.id) s = .next (u.weaveError w st stake info)))

/-- The work of a started descriptor whose turn has come.  Each op completes, and its descriptor ends with status 0, where its
fields are well formed and its operands can be read and written: the ops on arrays, on plain operands in the Tray
(with no preload source, no function applied, no statistics and no parameter vectors), leaving memory as it was; ENCODE,
DECODE, COMPACT and BUILD, on tensors of one block; SCATTER_ADD, of one element, which it sends to the adders, or of a row
that its index leaves out; the page selector's kinds, on a table of one entry; MMR, where the operation that it feeds is
posted.  On any operands, where the work of its op completes, the descriptor ends with status 0 in the state that the
work leaves.  A malformed one ends with ST_WEAVE_IMAGE and its index.  A MOVE between places of one Tray leaves each
destination byte with its source byte, and no other byte changed. -/
def Obligations.DescriptorsDoTheirWork : Prop :=
  (∀ (s u : State) (st idx : Nat) (x : StakeSt) (wv : Weave) (d : DescRun),
    (wv.launch = true ∨ ∀ j, j < 4 → s.heldBack wv.ctx j = false) →
    (s.descReady st idx 0x01 = some (x, wv, d) → s.mm wv st d = (u, .ok ()) →
      exec (.mm st idx) s = .next (u.descEnd st idx ⟨0, 0, 0⟩)) ∧
    (s.descReady st idx 0x01 = some (x, wv, d) → mmMalformed wv true d.words = true →
      exec (.mm st idx) s = .next (s.descEnd st idx ⟨stWeaveImage, 0, idx⟩)) ∧
    (s.descReady st idx 0x02 = some (x, wv, d) → s.mmr wv st d = (u, .ok ()) →
      exec (.mmr st idx) s = .next (u.descEnd st idx ⟨0, 0, 0⟩)) ∧
    (s.descReady st idx 0x03 = some (x, wv, d) → s.conv wv st d = (u, .ok ()) →
      exec (.conv st idx) s = .next (u.descEnd st idx ⟨0, 0, 0⟩)) ∧
    (s.descReady st idx 0x04 = some (x, wv, d) → s.wconv wv st d = (u, .ok ()) →
      exec (.wconv st idx) s = .next (u.descEnd st idx ⟨0, 0, 0⟩)) ∧
    (s.descReady st idx 0x05 = some (x, wv, d) → s.attn wv st d = (u, .ok ()) →
      exec (.attn st idx) s = .next (u.descEnd st idx ⟨0, 0, 0⟩)) ∧
    (s.descReady st idx 0x06 = some (x, wv, d) → s.norm wv st d = (u, .ok ()) →
      exec (.norm st idx) s = .next (u.descEnd st idx ⟨0, 0, 0⟩)) ∧
    (s.descReady st idx 0x07 = some (x, wv, d) → s.smax wv st d = (u, .ok ()) →
      exec (.smax st idx) s = .next (u.descEnd st idx ⟨0, 0, 0⟩)) ∧
    (s.descReady st idx 0x08 = some (x, wv, d) → s.sfu_ wv st d = (u, .ok ()) →
      exec (.sfu st idx) s = .next (u.descEnd st idx ⟨0, 0, 0⟩)) ∧
    (s.descReady st idx 0x0C = some (x, wv, d) → s.crop wv st d = (u, .ok ()) →
      exec (.crop st idx) s = .next (u.descEnd st idx ⟨0, 0, 0⟩)) ∧
    (s.descReady st idx 0x0D = some (x, wv, d) → s.pool wv st d = (u, .ok ()) →
      exec (.pool st idx) s = .next (u.descEnd st idx ⟨0, 0, 0⟩)) ∧
    (s.descReady st idx 0x0B = some (x, wv, d) → packMalformed wv d.words = false →
      (∀ k, pkKind d.words = 0 → bit d.words 770 = false →
        s.packTensor (placeOf wv st (bits d.words 800 11) (dOpnd d.words 0)) (placeOf wv st (bits d.words 800 11)
          (dOpnd d.words 2)) (dFmtA d.words) (pkLength d.words) 0 none = (u, .ok k) →
        exec (.encode st idx) s = .next (u.descEnd st idx ⟨0, 0, 0⟩)) ∧
      (pkKind d.words = 1 →
        s.expandTensor (placeOf wv st (bits d.words 800 11) (dOpnd d.words 0)) (placeOf wv st (bits d.words 800 11)
          (dOpnd d.words 2)) (coilSet (st / 96)) (pkLength d.words) = (u, .ok ()) →
        exec (.decode st idx) s = .next (u.descEnd st idx ⟨0, 0, 0⟩)) ∧
      (∀ (v : State) (h k : Nat), pkKind d.words = 2 →
        s.readIndex (placeOf wv st (bits d.words 800 11) (dOpnd d.words 0)) = (v, .ok h) →
        v.writeCompact (placeOf wv st (bits d.words 800 11) (dOpnd d.words 2)) (ihFmt h) (ihBytes h) (bits h 128 48)
          (fun t b => Got.next (t.checkedBlock (placeOf wv st (bits d.words 800 11) (dOpnd d.words 0)) h b) (fun t blk =>
            (t.radd R.plaitStoredOutBytes 0 blk.length, .ok blk))) = (u, .ok k) →
        exec (.compact st idx) s = .next (u.descEnd st idx ⟨0, 0, 0⟩)) ∧
      (∀ (v : State) (img : List Byte), pkKind d.words = 3 → pkLength d.words ≤ 4096 →
        s.placeRead (placeOf wv st (bits d.words 800 11) (dOpnd d.words 0)) 0 (pkLength d.words) = (v, .ok img) →
        v.placeWrite ⟨1, st, (placeOf wv st (bits d.words 800 11) (dOpnd d.words 0)).rq, pkTable d.words⟩ 0
          (tableObject (bits d.words 912 16) ((countBlock (planeWidth (dFmtA d.words))
            ((below (planeWidth (dFmtA d.words))).map (fun _ => (below 256).map (fun _ => 1))) img).map
              (fun f => buildLens 11 64 f))) = (u, .ok ()) →
        exec (.build st idx) s = .next (u.descEnd st idx ⟨0, 0, 0⟩))) ∧
    (s.descReady st idx 0x0E = some (x, wv, d) → s.adding st idx = false → s.scatterAdd wv st d = (u, .ok ()) →
      (u.adding st idx = false → exec (.scatterAdd st idx) s = .next (u.descEnd st idx ⟨0, 0, 0⟩)) ∧
      (u.adding st idx = true → exec (.scatterAdd st idx) s = .next u)) ∧
    (∀ (v a : State) (h : Nat) (es : List Nat), s.descReady st idx 0x0F = some (x, wv, d) → pselMalformed d.words = false →
      s.kvNum (kvPlace wv st) (psTable d.words) 64 = (v, .ok h) → v.pselBad d.words h = false →
      v.each (fun t i => t.kvNum (kvPlace wv st) (psTable d.words + 64 + 64 * i) 64) (below (bhCount h)) = (a, .ok es) →
      (psKind d.words = 0 → a.stepBegin wv st d h es = (u, .ok ()) →
        exec (.stepBegin st idx) s = .next ((u.radd R.poolPselReqsCount (st / 96) 1).descEnd st idx ⟨0, 0, 0⟩)) ∧
      (psKind d.words = 1 → a.stepEnd wv st d h es = (u, .ok ()) →
        exec (.stepEnd st idx) s = .next ((u.radd R.poolPselReqsCount (st / 96) 1).descEnd st idx ⟨0, 0, 0⟩)) ∧
      (psKind d.words = 2 → a.pselWrite wv st d h es = (u, .ok ()) →
        exec (.pselWrite st idx) s = .next ((u.radd R.poolPselReqsCount (st / 96) 1).descEnd st idx ⟨0, 0, 0⟩)) ∧
      (psKind d.words = 3 → a.pselSelect wv st d h es = (u, .ok ()) →
        exec (.pselSelect st idx) s = .next ((u.radd R.poolPselReqsCount (st / 96) 1).descEnd st idx ⟨0, 0, 0⟩)))) ∧
  (∀ (s : State) (st idx w : Nat) (x : StakeSt) (wv : Weave) (d : DescRun),
    (wv.launch = true ∨ ∀ j, j < 4 → s.heldBack wv.ctx j = false) → w = d.words →
    (s.descReady st idx 0x01 = some (x, wv, d) → mmMalformed wv true w = false → paramsBad w mmParams = false →
      TrayOperand wv w 0 (dFmtA w) (dK w) (dM w) → TrayOperand wv w 1 (dFmtB w) (dN w) (dK w) → dPreload w ≤ 1 →
      (dEpilogue w = true → TrayOutput wv w (dN w) (dM w)) →
      ∃ t, exec (.mm st idx) s = .next t ∧ t.EndedWell st idx ∧ t.mem = s.mem ∧ t.out = s.out) ∧
    (s.descReady st idx 0x01 = some (x, wv, d) → mmMalformed wv true w = true →
      exec (.mm st idx) s = .next (s.descEnd st idx ⟨stWeaveImage, 0, idx⟩)) ∧
    (s.descReady st idx 0x03 = some (x, wv, d) → convMalformed wv w = false →
      TrayOperand wv w 0 (dFmtA w) (dK w) (dM w) → TrayOperand wv w 1 (dFmtB w) (dN w) (dK w) → dPreload w ≤ 1 →
      (dEpilogue w = true → TrayOutput wv w (dN w) (dM w)) →
      ∃ t, exec (.conv st idx) s = .next t ∧ t.EndedWell st idx ∧ t.mem = s.mem ∧ t.out = s.out) ∧
    (s.descReady st idx 0x04 = some (x, wv, d) → wconvMalformed wv w = false → bit w 899 = false →
      TrayOperand wv w 0 (dFmtA w) (dK w) (dM w) → TrayOperand wv w 1 (dFmtB w) (dN w) (dK w) →
      (dEpilogue w = true → TrayOutput wv w (dN w) (dM w)) →
      ∃ t, exec (.wconv st idx) s = .next t ∧ t.EndedWell st idx ∧ t.mem = s.mem ∧ t.out = s.out) ∧
    (s.descReady st idx 0x05 = some (x, wv, d) → attnMalformed wv w = false → bits w 771 3 = 0 → atVOff w = 0 →
      atStaged wv st wv.first w ⟨0, dM w, dN w, (placeOf wv st 0 (dOpnd w 1)).base⟩ = false →
      TrayOperand wv w 0 (dFmtA w) (dK w) (dM w) → TrayOperand wv w 1 (dFmtB w) (dK w) (dN w) →
      TrayOutput wv w (dK w) (dM w) →
      ∃ t, exec (.attn st idx) s = .next t ∧ t.EndedWell st idx ∧ t.mem = s.mem ∧ t.out = s.out) ∧
    (s.descReady st idx 0x06 = some (x, wv, d) → normMalformed wv w = false → bits w 770 2 = 0 → bit w 773 = false →
      TrayOperand wv w 0 (dFmtA w) (dN w) (dM w) → TrayOutput wv w (dN w) (dM w) →
      ∃ t, exec (.norm st idx) s = .next t ∧ t.EndedWell st idx ∧ t.mem = s.mem ∧ t.out = s.out) ∧
    (s.descReady st idx 0x07 = some (x, wv, d) → smaxMalformed wv w = false → bit w 768 = false →
      TrayOperand wv w 0 (dFmtA w) (dN w) (dM w) → TrayOutput wv w (dN w) (dM w) →
      ∃ t, exec (.smax st idx) s = .next t ∧ t.EndedWell st idx ∧ t.mem = s.mem ∧ t.out = s.out) ∧
    (s.descReady st idx 0x08 = some (x, wv, d) → sfuMalformed wv w = false → (∃ b ∈ d.binds, b.1 = bits w 768 8) →
      TrayOperand wv w 0 (dFmtA w) (dN w) (dM w) → TrayOutput wv w (dN w) (dM w) →
      ∃ t, exec (.sfu st idx) s = .next t ∧ t.EndedWell st idx ∧ t.mem = s.mem ∧ t.out = s.out) ∧
    (s.descReady st idx 0x0C = some (x, wv, d) → cropMalformed wv w = false → dM w = 1 →
      (dOpnd w 1).space = 0 → (dOpnd w 1).addr % 2 ^ 21 + 16 ≤ trayBytes →
      boxMalformed (leNat (s.trayN st ((dOpnd w 1).addr % 2 ^ 21) 16)) = false →
      TrayOperand wv w 0 (dFmtA w) (dN w) (dM w) → TrayOutput wv w (dN w) (dM w) →
      ∃ t, exec (.crop st idx) s = .next t ∧ t.EndedWell st idx ∧ t.mem = s.mem ∧ t.out = s.out) ∧
    (s.descReady st idx 0x0D = some (x, wv, d) → poolMalformed wv w = false →
      TrayOperand wv w 0 (dFmtA w) (dN w) (dM w) → TrayOutput wv w (dN w) (dM w) →
      ∃ t, exec (.pool st idx) s = .next t ∧ t.EndedWell st idx ∧ t.mem = s.mem ∧ t.out = s.out)) ∧
  (∀ (s : State) (st idx w a c n : Nat) (x : StakeSt) (wv : Weave) (d : DescRun),
    (wv.launch = true ∨ ∀ j, j < 4 → s.heldBack wv.ctx j = false) → w = d.words →
    s.descReady st idx 0x0B = some (x, wv, d) → packMalformed wv w = false → (dOpnd w 0).space = 0 →
    a = (dOpnd w 0).addr % 2 ^ 21 → c = (dOpnd w 2).addr % 2 ^ 21 → n = pkLength w → n ≤ 4096 →
    (pkKind w = 0 → bit w 770 = false → a + n ≤ trayBytes → (dOpnd w 2).space = 0 → c + 4288 ≤ trayBytes →
      ∃ t, exec (.encode st idx) s = .next t ∧ t.EndedWell st idx ∧ t.mem = s.mem ∧
        t.rg R.plaitImageInBytes 0 = (s.rg R.plaitImageInBytes 0 + n) % 2 ^ R.plaitImageInBytes.width) ∧
    (∀ (v : State) (h : Nat) (img : List Byte), pkKind w = 1 → (dOpnd w 2).space = 0 → c + n ≤ trayBytes →
      s.readIndex (placeOf wv st (bits w 800 11) (dOpnd w 0)) = (s, .ok h) → n ≤ ihBytes h →
      s.expandBlock (placeOf wv st (bits w 800 11) (dOpnd w 0)) (coilSet (st / 96)) h 0 = (v, .ok img) →
      img.length = 4096 →
      exec (.decode st idx) s = .next ((v.setTrayN st c (img.take n)).descEnd st idx ⟨0, 0, 0⟩)) ∧
    (∀ (u v : State) (h : Nat) (blk : List Byte), pkKind w = 2 → (dOpnd w 2).space = 0 → c + 128 + blk.length ≤ trayBytes →
      s.readIndex (placeOf wv st (bits w 800 11) (dOpnd w 0)) = (s, .ok h) → ihBytes h ≤ 4096 → 0 < ihBytes h →
      u = (s.setTrayN st c (indexHeader (ihFmt h) 0 (ihBytes h) (bits h 128 48))).setTrayN st (c + 68) (List.replicate 60 0) →
      u.checkedBlock (placeOf wv st (bits w 800 11) (dOpnd w 0)) h 0 = (v, .ok blk) →
      exec (.compact st idx) s = .next ((((v.radd R.plaitStoredOutBytes 0 blk.length).setTrayN st (c + 128) blk).setTrayN st
        (c + 64) (natLe 4 (blk.length / 64))).descEnd st idx ⟨0, 0, 0⟩)) ∧
    (∀ wr : Wr, pkKind w = 3 → a + n ≤ trayBytes → pkTable w + 576 ≤ 2 ^ 48 →
      wr = s.vwrite (stakeRq wv st) (pkTable w) (tableObject (bits w 912 16) ((countBlock (planeWidth (dFmtA w))
        ((below (planeWidth (dFmtA w))).map (fun _ => (below 256).map (fun _ => 1))) (s.trayN st a n)).map
          (fun f => buildLens 11 64 f))) → wr.st = 0 →
      exec (.build st idx) s = .next (wr.s.descEnd st idx ⟨0, 0, 0⟩))) ∧
  (∀ (s : State) (st idx w i : Nat) (x : StakeSt) (wv : Weave) (d : DescRun), w = d.words →
    s.descReady st idx 0x0E = some (x, wv, d) → scatterMalformed wv w = false → s.adding st idx = false →
    dM w = 1 → dN w = 1 → bit w 785 = false → TrayOperand wv w 0 (dFmtA w) 1 1 →
    (dOpnd w 1).addr % 2 ^ 21 + 4 ≤ trayBytes → i = leNat (s.trayN st ((dOpnd w 1).addr % 2 ^ 21) 4) →
    (toSigned 32 i < 0 → exec (.scatterAdd st idx) s = .next (s.descEnd st idx ⟨0, 0, 0⟩)) ∧
    (∀ (oa oc : Int) (va : Nat) (y : Xl), i < 2 ^ 31 → (agenOf wv (dOpnd w 0) 1 1).offset [0, 0] [] = some oa →
      (agenOf wv (dOpnd w 2) 1 1).offset [0, i] [] = some oc →
      ((va : Nat) : Int) = (dOpnd w 2).addr + oc * (fmtBits (dFmtOut w) / 8 : Nat) → va + fmtBits (dFmtOut w) / 8 ≤ 2 ^ 48 →
      y = s.xlate (stakeRq wv st) (va / 64 * 64) true → y.st = 0 →
      exec (.scatterAdd st idx) s = .next (y.s.pushAdd ⟨0, st, idx, wv.ctx, false, bit w 768, (y.s.coilOf y.pa).getD 0,
        bits w 769 6, bits w 775 10, false, y.pa, dFmtOut w, dFmtA w, 2 ^ (va % 64 / (fmtBits (dFmtOut w) / 8)),
        [leNat (s.trayN st ((((dOpnd w 0).addr % 2 ^ 21 : Nat) : Int) + oa * (fmtBits (dFmtA w) / 8 : Nat)).toNat
          (fmtBits (dFmtA w) / 8))]⟩))) ∧
  (∀ (s v a : State) (st idx w h e : Nat) (x : StakeSt) (wv : Weave) (d : DescRun),
    (wv.launch = true ∨ ∀ j, j < 4 → s.heldBack wv.ctx j = false) → w = d.words →
    s.descReady st idx 0x0F = some (x, wv, d) → pselMalformed w = false →
    s.kvNum (kvPlace wv st) (psTable w) 64 = (v, .ok h) → v.pselBad w h = false → bhCount h = 1 →
    v.kvNum (kvPlace wv st) (psTable w + 64) 64 = (a, .ok e) → psTable w + 128 ≤ 2 ^ 48 →
    (∀ (s0 : State) (h' : Nat) (k : KvEnt) (w1 w2 w3 : Wr), psKind w = 0 → beReq e = 0 → beActive e = false →
      beReserved e = false → k = ⟨0, e, 0, 0, if beValid h e then 0 else stKvLength, 0⟩ →
      h' = putAll h [(48, 1, 1), (320, 16, 0), (336, 16, 0), (352, 16, 0), (368, 16, 0), (384, 16, 0), (416, 32, 0)] →
      s0 = ((a.radd R.poolPselFramesCount (st / 96) 0).radd R.poolPselNoPageCount (st / 96) 0).radd
        R.poolPselDeferredCount (st / 96) 0 →
      bhLt h' + 32 ≤ 2 ^ 48 → w1 = s0.vwrite (stakeRq wv st) (bhLt h') (natLe 32 (ltEntry h' k)) → w1.st = 0 →
      w2 = w1.s.vwrite (stakeRq wv st) (psTable w + 64) (natLe 64 (putBits e 272 16 k.st)) → w2.st = 0 →
      w3 = w2.s.vwrite (stakeRq wv st) (psTable w) (natLe 64 h') → w3.st = 0 →
      exec (.stepBegin st idx) s = .next ((w3.s.radd R.poolPselReqsCount (st / 96) 1).descEnd st idx ⟨0, 0, 0⟩)) ∧
    (∀ (w1 w2 : Wr), psKind w = 1 → beReq e ≠ 2 →
      w1 = a.vwrite (stakeRq wv st) (psTable w + 64) (natLe 64 e) → w1.st = 0 →
      w2 = w1.s.vwrite (stakeRq wv st) (psTable w)
        (natLe 64 (putAll h [(48, 1, 0), (256, 64, bits h 256 64 + 1), (400, 16, 0), (448, 32, 0)])) → w2.st = 0 →
      exec (.stepEnd st idx) s = .next ((w2.s.radd R.poolPselReqsCount (st / 96) 1).descEnd st idx ⟨0, 0, 0⟩)) ∧
    (∀ (b : State) (l : Nat), a.kvNum (kvPlace wv st) (bhLt h) 32 = (b, .ok l) → ltBad l = false →
      ((ltStatus l ≠ 0 ∨ bits l 32 32 = 0) →
        (psKind w = 2 →
          exec (.pselWrite st idx) s = .next ((b.radd R.poolPselReqsCount (st / 96) 1).descEnd st idx ⟨0, 0, 0⟩)) ∧
        (psKind w = 3 → (dOpnd w 0).space ≠ 3 →
          exec (.pselSelect st idx) s = .next ((b.radd R.poolPselReqsCount (st / 96) 1).descEnd st idx ⟨0, 0, 0⟩))) ∧
      (∀ (u : State) (q : AtSeq) (r : List Unit) (bs : List Byte), psKind w = 2 → ltStatus l = 0 → q = ltSeq l → q.qlen = 1 →
        1 ≤ q.kv → bhSummary h = false → (dOpnd w 0).space = 0 →
        (dOpnd w 0).addr % 2 ^ 21 + (q.start + 1) * (bhPage h / 16) ≤ trayBytes →
        bs = b.trayN st ((dOpnd w 0).addr % 2 ^ 21 + q.start * (bhPage h / 16)) (bhPage h / 16) →
        b.each (fun t k => t.placeWrite (kvPlace wv st)
          (pageVa h e (psLayer w) ((q.kv - 1) / 16) + (k * 16 + (q.kv - 1) % 16) * (bhDim h * bhBytes h) : Nat)
          ((bs.drop (k * (bhDim h * bhBytes h))).take (bhDim h * bhBytes h))) (below (2 * bhHeads h)) = (u, .ok r) →
        exec (.pselWrite st idx) s = .next ((u.radd R.poolPselReqsCount (st / 96) 1).descEnd st idx ⟨0, 0, 0⟩)) ∧
      (∀ (b1 b2 : State) (q : AtSeq) (row : List (Option Nat)) (bnd : List Nat) (wr : Wr), psKind w = 3 → ltStatus l = 0 →
        q = ltSeq l → q.qlen = 1 → d4 w = 1 → (dOpnd w 0).space ≠ 3 →
        b.opWords st (dFmtA w) (placeOf wv st 0 (dOpnd w 0)) (dOpnd w 0) (atRowOff wv w 0 q 0 0) = (b1, .ok row) →
        b1.each (fun t kb => t.blockBound (kvPlace wv st) w h e q.kv [row.map (fun y => y.getD 0)] kb) (below q.blocks) =
          (b2, .ok bnd) →
        (dOpnd w 2).addr + q.mapBits / 8 ≤ 2 ^ 48 →
        wr = b2.vwrite (stakeRq wv st) (dOpnd w 2).addr (natLe (q.mapBits / 8) ((admitted w bnd).map (fun kb => 2 ^ kb)).sum) →
        wr.st = 0 →
        exec (.pselSelect st idx) s = .next ((wr.s.radd R.poolPselReqsCount (st / 96) 1).descEnd st idx ⟨0, 0, 0⟩)))) ∧
  (∀ (s v u t : State) (st idx w : Nat) (x : StakeSt) (wv : Weave) (d : DescRun) (o : CollOp) (us : List Nat),
    (wv.launch = true ∨ ∀ j, j < 4 → s.heldBack wv.ctx j = false) → w = d.words →
    s.descReady st idx 0x02 = some (x, wv, d) → mmrMalformed wv w = false → s.fedOp wv.ctx w = some o →
    s.mmrUnits o w = some us → dFmtOut w = coFmt o.words → (∀ k ∈ us, k ∉ o.ready) →
    s.mmCore wv st w = (v, .ok ()) →
    (v.noteSat wv st w).output wv st (bits w 808 11) d (isIntClass (dFmtA w)) (dN w) (dM w)
      ((v.noteSat wv st w).tileEls st (dAccFirst w) (dM w) (dN w)) = (u, .ok ()) →
    u.markReady o us = (t, .ok ()) →
    exec (.mmr st idx) s = .next (t.descEnd st idx ⟨0, 0, 0⟩)) ∧
  (∀ (s : State) (st idx a c n : Nat) (x : StakeSt) (wv : Weave) (d : DescRun),
    (wv.launch = true ∨ ∀ j, j < 4 → s.heldBack wv.ctx j = false) →
    s.descReady st idx 0x0A = some (x, wv, d) → moveMalformed wv d.words = false →
    (dOpnd d.words 0).space = 0 → (dOpnd d.words 2).space = 0 → a = (dOpnd d.words 0).addr % 2 ^ 21 →
    c = (dOpnd d.words 2).addr % 2 ^ 21 → n = mvLength d.words →
    ∃ t, exec (.move st idx) s = .next t ∧ (∀ k, k < n → t.tray st (c + k) = s.tray st (a + k)) ∧
      (∀ st' o, o < trayBytes → ¬ (st' = st ∧ c ≤ o ∧ o < c + n) → t.tray st' o = s.tray st' o) ∧
      t.mem = s.mem ∧ t.regs = s.regs ∧ t.accs = s.accs)

/-- VPROG loads its program from the Tray and stands at instruction 0, with its parameters in s1 to s4 and the
operands' offsets in s5 to s7; a malformed one ends with ST_WEAVE_IMAGE. -/
def Obligations.VprogLoadsItsProgram : Prop :=
  ∀ (s : State) (st idx : Nat) (x : StakeSt) (wv : Weave) (d : DescRun), s.descReady st idx 0x09 = some (x, wv, d) →
    x.vp = none →
    (vprogMalformed d.words = true → exec (.vprog st idx) s = .next (s.descEnd st idx ⟨stWeaveImage, 0, idx⟩)) ∧
    (∀ i, vprogMalformed d.words = false → i = leNat (s.trayN st (bits d.words 768 21) 4) → (iReserved (iOp i)).isSome = true →
      ∃ t y p, exec (.vprog st idx) s = .next t ∧ smGet t.stakes st = some y ∧ y.vp = some p ∧ p.idx = idx ∧ p.pc = 0 ∧
        p.steps = 0 ∧ p.prog.length = bits d.words 800 10 + 1 ∧
        (∀ k, k ≤ bits d.words 800 10 → p.prog[k]? = some (leNat (s.trayN st (bits d.words 768 21 + 4 * k) 4))) ∧
        (∀ k, p.v k = List.replicate 128 0) ∧ (∀ k, 8 ≤ k → p.r k = 0) ∧ (∀ v, p.setR 0 v = p) ∧
        p.r 0 = 0 ∧ p.r 1 = bits d.words 832 32 ∧ p.r 2 = bits d.words 864 32 ∧ p.r 3 = bits d.words 896 32 ∧
        p.r 4 = bits d.words 928 32 ∧
        (∀ k, k < 3 → p.r (5 + k) =
          if (dOpnd d.words k).space = 0 then (dOpnd d.words k).addr % 2 ^ 21 else 0) ∧ t.mem = s.mem ∧ t.trays = s.trays ∧ t.regs = s.regs)

/-- The instructions of a vector program that compute vector registers: where the program stands at such an
instruction, it stands after it with register d computed from a, b and c lane by lane, from a scalar register, from the
lane's index, or by the tree over the lanes; a reserved bit that is set ends the program as malformed. -/
def Obligations.VectorInstructionsComputeLanes : Prop :=
  ∀ (s : State) (st i : Nat) (x : StakeSt) (wv : Weave) (d : DescRun) (p q : VprogSt), smGet s.stakes st = some x →
    s.weaveOf st = some wv → x.vp = some p → p.prog[p.pc]? = some i → x.desc p.idx = some d → p.steps < vpLimit →
    q = { p with pc := p.pc + 1, steps := p.steps + 1 } →
    (∀ e ∈ ([(Instr.vadd st, 0x01, fun a b _ => fadd a b), (.vsub st, 0x02, fun a b _ => fsub a b),
        (.vmul st, 0x03, fun a b _ => fmul a b), (.vfma st, 0x04, fun a b c => ffma a b c),
        (.vmax st, 0x05, fun a b _ => fmax a b), (.vmin st, 0x06, fun a b _ => fmin a b),
        (.vabs st, 0x07, fun a _ _ => toF32 (f32 a).abs), (.vneg st, 0x08, fun a _ _ => toF32 (f32 a).neg),
        (.vcmplt st, 0x09, fun a b _ => if (f32 a).lt (f32 b) then 0xFFFFFFFF else 0),
        (.vcmpeq st, 0x0A, fun a b _ => if (f32 a).eqv (f32 b) then 0xFFFFFFFF else 0),
        (.vsel st, 0x0B, fun a b c => if c = 0 then b else a), (.vand st, 0x0C, fun a b _ => Nat.land a b),
        (.vor st, 0x0D, fun a b _ => Nat.lor a b), (.vxor st, 0x0E, fun a b _ => Nat.xor a b),
        (.viadd st, 0x0F, fun a b _ => (a + b) % 2 ^ 32), (.vshl st, 0x10, fun a b _ => a * 2 ^ (b % 32) % 2 ^ 32),
        (.vshr st, 0x11, fun a b _ => a / 2 ^ (b % 32)),
        (.vcvti st, 0x12, fun a _ _ => toF32 (Num.ofInt (toSigned 32 a))),
        (.vcvtf st, 0x13, fun a _ _ => intConv .even 32 (f32 a)), (.vexp2 st, 0x15, fun a _ _ => exp2Path a)] :
        List (Instr × Nat × (Nat → Nat → Nat → Nat))), iOp i = e.2.1 → bits i 26 6 = 0 →
      exec e.1 s = .next (s.vpKeep st (q.setV (iD i)
        (((p.v (iA i)).zip ((p.v (iB i)).zip (p.v (iC i)))).map (fun l => e.2.2 l.1 l.2.1 l.2.2))))) ∧
    (∀ e ∈ ([(Instr.vrsum st, 0x18, fadd), (.vrmax st, 0x19, fmax)] : List (Instr × Nat × (Nat → Nat → Nat))),
      iOp i = e.2.1 → bits i 26 6 = 0 →
      exec e.1 s = .next (s.vpKeep st (q.setV (iD i) (List.replicate 128 (treeOf e.2.2 7 (p.v (iA i))))))) ∧
    (iOp i = 0x17 → bits i 26 6 = 0 → exec (.vidx st) s = .next (s.vpKeep st (q.setV (iD i) (below 128)))) ∧
    (iOp i = 0x16 → bits i 26 6 = 0 → iA i ≤ 15 →
      exec (.vbcast st) s = .next (s.vpKeep st (q.setV (iD i) (List.replicate 128 (p.r (iA i)))))) ∧
    (iOp i = 0x1A → bits i 26 6 = 0 → iD i ≤ 15 → iB i ≤ 15 → (p.v (iA i)).length = 128 →
      ∃ y, (p.v (iA i))[p.r (iB i) % 128]? = some y ∧ exec (.vmovs st) s = .next (s.vpKeep st (q.setR (iD i) y))) ∧
    (∀ k, iOp i = 0x14 → bits i 24 8 = 0 → d.binds.find? (fun b => b.1 == bits i 16 8) = some (bits i 16 8, k) →
      exec (.vsfu st) s = .next (s.vpKeep st (q.setV (iD i) ((p.v (iA i)).map (fun v => s.sfuSlotEval st k v 0))))) ∧
    (iOp i = 0x14 → bits i 24 8 = 0 → (∀ b ∈ d.binds, b.1 ≠ bits i 16 8) →
      exec (.vsfu st) s = .next (s.vpEnd st p.idx ⟨stTableUnbound, 0, 0⟩)) ∧
    (iOp i = 0x01 → bits i 26 6 ≠ 0 → exec (.vadd st) s = .next (s.vpEnd st p.idx ⟨stWeaveImage, 0, p.idx⟩)) ∧
    (∀ k n, q.prog[q.pc]? = some n → (iReserved (iOp n)).isSome = true →
      s.vpKeep st (q.setV k (below 128)) = s.setStake st { x with vp := some (q.setV k (below 128)) })

/-- The instructions of a vector program that load, store, compute scalars and branch: VLD and VLDA read, VST and VSTA
write 128 elements, a branch taken goes to its target, END and a program's end finish the VPROG well, and a program that
has executed its limit of instructions is malformed. -/
def Obligations.ScalarLoadStoreAndBranchInstructions : Prop :=
  ∀ (s : State) (st i : Nat) (x : StakeSt) (wv : Weave) (d : DescRun) (p q : VprogSt), smGet s.stakes st = some x →
    s.weaveOf st = some wv → x.vp = some p → p.prog[p.pc]? = some i → x.desc p.idx = some d →
    q = { p with pc := p.pc + 1, steps := p.steps + 1 } →
    (p.steps < vpLimit →
      (∀ a, iOp i = 0x20 → bits i 15 2 = 0 ∨ bits i 15 2 = 3 → vmAddr q i = some a →
        exec (.vld st) s = .next (s.vpKeep st (q.setV (iD i) ((below 128).map (fun k => leNat (s.trayN st (a + 4 * k) 4)))))) ∧
      (∀ a, iOp i = 0x20 → bits i 15 2 = 1 ∨ bits i 15 2 = 2 → vmAddr q i = some a →
        exec (.vld st) s = .next (s.vpKeep st (q.setV (iD i) ((below 128).map (fun k =>
          toF32 (elemNum (bits i 15 2) (leNat (s.trayN st (a + 2 * k) 2)))))))) ∧
      (∀ a, iOp i = 0x21 → bits i 15 2 = 3 → vmAddr q i = some a →
        exec (.vst st) s = .next ((s.setTrayN st a ((p.v (iD i)).flatMap (natLe 4))).vpKeep st q)) ∧
      (∀ a, iOp i = 0x21 → bits i 15 2 = 0 → vmAddr q i = some a →
        exec (.vst st) s = .next ((s.setTrayN st a ((p.v (iD i)).flatMap (fun v =>
          natLe 4 (elemConv 0 .even (f32 v))))).vpKeep st q)) ∧
      (∀ a, iOp i = 0x21 → bits i 15 2 = 1 ∨ bits i 15 2 = 2 → vmAddr q i = some a →
        exec (.vst st) s = .next ((s.setTrayN st a ((p.v (iD i)).flatMap (fun v =>
          natLe 2 (elemConv (bits i 15 2) .even (f32 v))))).vpKeep st q)) ∧
      (iOp i = 0x20 → vmAddr q i = none → exec (.vld st) s = .next (s.vpEnd st p.idx ⟨stWeaveImage, 0, p.idx⟩)) ∧
      (iOp i = 0x22 → bits i 17 15 = 0 → vaTileOk d i = true →
        exec (.vlda st) s = .next (s.vpKeep st (q.setV (iD i) ((below 128).map (fun j =>
          s.acc st (bits i 15 2) (p.r (iS i) % 128) j))))) ∧
      (iOp i = 0x23 → bits i 17 15 = 0 → vaTileOk d i = true →
        exec (.vsta st) s = .next ((((p.v (iD i)).zip (below 128)).foldl (fun t e =>
          t.setAcc st (bits i 15 2) (p.r (iS i) % 128) e.2 e.1) s).vpKeep st q)) ∧
      (iOp i = 0x30 → bits i 14 2 = 0 → exec (.saddi st) s = .next (s.vpKeep st (q.setR (iSd i)
        (ofSigned 32 ((p.r (iSa i) : Int) + toSigned 16 (bits i 16 16)))))) ∧
      (iOp i = 0x31 → bits i 14 2 = 0 → exec (.slui st) s = .next (s.vpKeep st (q.setR (iSd i) (bits i 16 16 * 2 ^ 16)))) ∧
      (iOp i = 0x32 → bits i 14 2 = 0 → exec (.sori st) s = .next (s.vpKeep st (q.setR (iSd i)
        (Nat.lor (p.r (iSa i)) (bits i 16 16))))) ∧
      (iOp i = 0x33 → bits i 18 14 = 0 → exec (.sadd st) s = .next (s.vpKeep st (q.setR (iSd i)
        (p.r (iSa i) + p.r (bits i 14 4))))) ∧
      (iOp i = 0x34 → bits i 18 14 = 0 → exec (.smul st) s = .next (s.vpKeep st (q.setR (iSd i)
        (p.r (iSa i) * p.r (bits i 14 4))))) ∧
      (iOp i = 0x38 → bits i 14 2 = 0 → bits i 26 6 = 0 → bits i 16 10 < p.prog.length → exec (.bne st) s =
        .next (s.vpKeep st (if p.r (bits i 6 4) = p.r (bits i 10 4) then q else { q with pc := bits i 16 10 }))) ∧
      (iOp i = 0x39 → bits i 14 2 = 0 → bits i 26 6 = 0 → bits i 16 10 < p.prog.length → exec (.blt st) s =
        .next (s.vpKeep st (if toSigned 32 (p.r (bits i 6 4)) < toSigned 32 (p.r (bits i 10 4))
          then { q with pc := bits i 16 10 } else q))) ∧
      (iOp i = 0x3A → bits i 14 2 = 0 → bits i 26 6 = 0 → bits i 16 10 < p.prog.length →
        exec (.jmp st) s = .next (s.vpKeep st { q with pc := bits i 16 10 })) ∧
      (iOp i = 0x3A → p.prog.length ≤ bits i 16 10 →
        exec (.jmp st) s = .next (s.vpEnd st p.idx ⟨stWeaveImage, 0, p.idx⟩))) ∧
    (iOp i = 0x3F → bits i 6 26 = 0 → exec (.endProgram st) s = .next (s.vpEnd st p.idx ⟨0, 0, 0⟩)) ∧
    (vpLimit ≤ p.steps → iOp i ≠ 0x3F →
      exec (.vprogInstructionLimit st) s = .next (s.vpEnd st p.idx ⟨stWeaveImage, 0, p.idx⟩)) ∧
    (∀ k v, (q.setR k v).r 0 = p.r 0 ∧ (k ≠ 0 → (q.setR k v).r k = v % 2 ^ 32)) ∧
    (q.prog.length ≤ q.pc → s.vpKeep st q = s.vpEnd st p.idx ⟨0, 0, 0⟩)

/-! ### Wale -/

/-- A port that is enabled stands in DETECT; signal, training and pair lock take it to TRAIN, ALIGN and IDENT, and three
identical IDENT symbols take it UP, its peer present; a bound that is exceeded sends it back to DETECT; a received
LINK_DOWN and the loss of the link, or 16 RETRY symbols in a row, take it from UP to DETECT with its peer DEPARTED or LOST; a
port that is disabled sends LINK_DOWN where it is UP, and stands in DISABLED. -/
def Obligations.PortsComeUpAndGoDown : Prop :=
  (∀ (s : State) (n v : Nat), s.barOpen 0x900000 = true → n < 16 →
    (bit v 0 = true → s.rb R.walePortCtrlEnable n = false →
      ∃ t, exec (.portEnable n v 0) s = .next t ∧ t.portState n = 1 ∧ t.rb R.walePortCtrlEnable n = true ∧
        t.rg R.walePortStatusPeer n = 0 ∧ t.port n = PortSt.empty ∧
        (∀ k, k ≠ n → t.port k = s.port k ∧ t.portState k = s.portState k) ∧ t.mem = s.mem ∧ t.out = s.out) ∧
    (bit v 0 = false → s.rb R.walePortCtrlEnable n = true →
      ∃ t, exec (.portEnable n v 0) s = .next t ∧ t.portState n = 0 ∧ t.port n = PortSt.empty ∧
        t.rb R.walePortCtrlEnable n = false ∧
        (s.isUp n = true → (bit v 3 = false ∨ s.tableRuns = false) →
          ∃ l, t.out = s.out ++ .sym n (.linkDown 3) :: l))) ∧
  (∀ (s : State) (n : Nat), n < 16 → (s.port n).failed = false →
    (s.portState n = 1 → exec (.signalDetect n) s = .next (s.rset R.walePortStatusState n 2)) ∧
    (s.portState n = 2 → exec (.trainingDone n) s = .next (s.rset R.walePortStatusState n 3)) ∧
    (∀ (rev : Bool) (pol : Nat), s.portState n = 3 → ∃ t, exec (.pairLock n rev pol) s = .next t ∧ t.portState n = 4 ∧
      t.rb R.walePortStatusLaneReversed n = rev ∧ t.rg R.walePortStatusPolarity n = pol % 2 ^ R.walePortStatusPolarity.width ∧
      (∃ l, t.out = s.out ++ .sym n (s.ownIdent n) :: l) ∧ t.mem = s.mem) ∧
    (∀ (id pp part : Nat) (m r : Bool), s.portState n = 4 → (s.port n).ident = symWord (.ident id pp part m r) →
      (s.port n).idents = 2 → ∃ t, exec (.ident n id pp part m r) s = .next t ∧ t.portState n = 5 ∧
        t.rg R.walePortStatusPeer n = 1 ∧ t.rg R.walePortStatusPeerId n = id % 65536 ∧ t.mem = s.mem ∧ t.out = s.out) ∧
    (∀ (id pp part : Nat) (m r : Bool), s.portState n = 4 → (s.port n).ident ≠ symWord (.ident id pp part m r) →
      ∃ t, exec (.ident n id pp part m r) s = .next t ∧ t.portState n = 4 ∧ (t.port n).idents = 1 ∧
        (∃ l, t.out = s.out ++ .sym n (s.ownIdent n) :: l) ∧ t.mem = s.mem) ∧
    (2 ≤ s.portState n → s.portState n ≤ 4 → exec (.trainFail n) s =
      .next ((s.rset R.walePortStatusTrainFail n 1).setPort n { s.port n with failed := true }))) ∧
  (∀ (s : State) (n : Nat), (s.port n).failed = true → exec (.returnToDetect n) s =
    .next ((s.rset R.walePortStatusState n 1).setPort n { s.port n with failed := false, idents := 0 })) ∧
  (∀ (s : State) (n : Nat), s.isUp n = true → (s.rb R.walePortCtrlJob n = false ∨ s.tableRuns = false) →
    (∀ reason, reason < 4 → ∃ t, exec (.linkDown n reason) s = .next t ∧ t.portState n = 1 ∧
      t.rg R.walePortStatusPeer n = 2 ∧
      t.rg R.waleDownCountCount n = (s.rg R.waleDownCountCount n + 1) % 2 ^ R.waleDownCountCount.width ∧ t.mem = s.mem) ∧
    (∀ lock : Bool, lock = true ∨ 16 ≤ (s.port n).retryRun → ∃ t, exec (.linkLoss n lock) s = .next t ∧
      t.portState n = 1 ∧ t.rg R.walePortStatusPeer n = 3 ∧
      t.rg R.waleDownCountCount n = (s.rg R.waleDownCountCount n + 1) % 2 ^ R.waleDownCountCount.width ∧ t.mem = s.mem))

/-- A flit of a pair that the FEC cannot correct, or whose CRC is wrong, is counted and asked for again; one with a reserved
bit set, type 3 or a VC that is not there is ignored; a DATA flit in sequence that holds a whole message for the module
delivers it, one for another module is forwarded where the route's port is UP and dropped where there is no route, one out of
sequence is not taken but asked for, and its ack frees the flits that it covers.  A port sends IDLE where nothing waits, the
next flit of a message that has credit, traffic of context 0 before that of a partition, and the flits that RETRY asks for;
five flits are a pair, which leaves coded on the lanes;
credits come back to their VC or to the shared pool. -/
def Obligations.FlitsCreditsAndRetries : Prop :=
  (∀ (s : State) (n k errA errB : Nat) (flit : List Byte), s.isUp n = true → flit.length = 256 →
    (15 < errA ∨ 15 < errB) →
    ∃ t, exec (.flitReceive n k (errA, errB) flit) s = .next t ∧ (t.port n).asked = true ∧
      (t.port n).expect = (s.port n).expect ∧ t.wale.inbox = s.wale.inbox ∧ t.mem = s.mem ∧
      ((s.port n).asked = false → ∃ l, t.out = s.out ++ .sym n (.retry (s.port n).expect) :: l) ∧
      (k = 0 → t.rg R.waleFecUncorrCount n = (s.rg R.waleFecUncorrCount n + 1) % 2 ^ R.waleFecUncorrCount.width ∧
        t.rg R.waleFecCorrCount n = (s.rg R.waleFecCorrCount n + ((if errA ≤ 15 then errA else 0) +
          (if errB ≤ 15 then errB else 0))) % 2 ^ R.waleFecCorrCount.width) ∧
      (k ≠ 0 → t.rg R.waleFecUncorrCount n = s.rg R.waleFecUncorrCount n)) ∧
  (∀ (s : State) (n k errA errB h : Nat) (flit pay : List Byte), s.isUp n = true → flit.length = 256 → errA ≤ 15 →
    errB ≤ 15 → h = leNat (flit.take 16) → pay = flit.drop 16 →
    (crc32c (natLe 12 (bits h 0 96) ++ natLe 4 0 ++ pay) ≠ bits h 96 32 →
      ∃ t, exec (.flitReceive n k (errA, errB) flit) s = .next t ∧ (t.port n).asked = true ∧
        (t.port n).expect = (s.port n).expect ∧ t.wale.inbox = s.wale.inbox ∧ t.mem = s.mem ∧
        t.rg R.waleCrcErrCount n = (s.rg R.waleCrcErrCount n + 1) % 2 ^ R.waleCrcErrCount.width) ∧
    (crc32c (natLe 12 (bits h 0 96) ++ natLe 4 0 ++ pay) = bits h 96 32 →
      ((bits h 91 5 ≠ 0 ∨ bits h 0 2 = 3 ∨ 48 ≤ bits h 2 6) →
        ∃ t, exec (.flitReceive n k (errA, errB) flit) s = .next t ∧ t.wale = s.wale ∧ t.mem = s.mem ∧ t.out = s.out ∧
          (k = 0 → t.rg R.waleFecCorrCount n = (s.rg R.waleFecCorrCount n + (errA + errB)) % 2 ^ R.waleFecCorrCount.width)) ∧
      (bits h 91 5 = 0 → bits h 0 2 = 1 → bits h 2 6 < 48 →
        (bits h 50 12 ≠ (s.port n).expect → ∃ t, exec (.flitReceive n k (errA, errB) flit) s = .next t ∧
          t.wale.inbox = s.wale.inbox ∧ (t.port n).expect = (s.port n).expect ∧ (t.port n).asked = true ∧ t.mem = s.mem) ∧
        (bits h 50 12 = (s.port n).expect → bit h 8 = true → bit h 9 = true →
          ∃ t, exec (.flitReceive n k (errA, errB) flit) s = .next t ∧
            (t.port n).expect = ((s.port n).expect + 1) % 4096 ∧ (t.port n).asked = false ∧
            (t.port n).kept = (s.port n).kept.filter (fun f => decide (2048 ≤ (bits h 62 12 + 4096 - f.seq) % 4096)) ∧
            (bits h 18 16 = s.ownId → 32 ≤ bits h 10 8 → bits h 10 8 ≤ 240 →
              kindOnVc (bits (leNat (pay.take 32)) 0 4) (bits h 2 6) = true →
              t.wale.inbox = s.wale.inbox ++ [⟨s.wale.nextMsg, n, bits h 2 6, s.ownId, bits h 34 16, leNat (pay.take 32),
                (pay.take (bits h 10 8)).drop 32, noCtx, false, 1 - bits h 90 1, bits h 90 1⟩] ∧
              t.mem = s.mem ∧ t.out = s.out) ∧
            (∀ q, bits h 18 16 ≠ s.ownId → s.route (bits h 18 16) = some q → s.rb R.waleCfgForward 0 = true →
              s.isUp q = true → 32 ≤ bits h 10 8 → bits h 10 8 ≤ 240 →
              t.wale.inbox = s.wale.inbox ∧
              (t.port q).out = (s.port q).out ++ [⟨s.wale.nextMsg, q, bits h 2 6, bits h 18 16, bits h 34 16,
                leNat (pay.take 32), (pay.take (bits h 10 8)).drop 32, noCtx, true, 1 - bits h 90 1, bits h 90 1⟩]) ∧
            (bits h 18 16 ≠ s.ownId → s.route (bits h 18 16) = none → s.tableRuns = false →
              t.wale.inbox = s.wale.inbox ∧
              t.rg R.waleRxDroppedCount n = (s.rg R.waleRxDroppedCount n + 1) % 2 ^ R.waleRxDroppedCount.width))))) ∧
  (∀ (s : State) (n : Nat), s.isUp n = true →
    ((s.port n).replay = [] → (s.port n).out = [] →
      ∃ t l, exec (.flitTransmit n) s = .next t ∧ t.out = s.out ++ .flit n (flitHeader 0 0 false false 0
          (s.rg R.walePortStatusPeerId n) s.ownId 0 ((s.port n).expect + 4095) (s.takeOwed n).2.1 (s.takeOwed n).2.2 false
          (natLe 240 0)) (natLe 240 0) :: l ∧ t.mem = s.mem ∧ t.regs = s.regs) ∧
    ((s.port n).replay = [] → (s.port n).out = [] →
      ∃ (t : State) (h : Nat), exec (.flitTransmit n) s = .next t ∧
        ((s.port n).filling.length = 4 → (t.port n).filling = [] ∧ (t.port n).pairs = ((s.port n).pairs + 1) % 2 ^ 32 ∧
          t.out = s.out ++ [.flit n h (natLe 240 0), .pair n (s.port n).pairs
            (pairLanes (s.port n).pairs ((s.port n).filling ++ [natLe 16 h ++ natLe 240 0]))]) ∧
        ((s.port n).filling.length < 4 → (t.port n).filling = (s.port n).filling ++ [natLe 16 h ++ natLe 240 0] ∧
          (t.port n).pairs = (s.port n).pairs ∧ t.out = s.out ++ [.flit n h (natLe 240 0)])) ∧
    (∀ q rest f, (s.port n).replay = q :: rest → (s.port n).kept.find? (fun f => f.seq == q) = some f →
      ∃ t l, exec (.flitTransmit n) s = .next t ∧ (t.port n).replay = rest ∧ t.out = s.out ++ .flit n (flitHeader 1 f.vc
          f.first f.last f.payload.length f.dst f.src f.seq ((s.port n).expect + 4095) (s.takeOwed n).2.1 (s.takeOwed n).2.2
          f.shared (padTo 240 f.payload)) (padTo 240 f.payload) :: l ∧ t.mem = s.mem ∧ t.regs = s.regs) ∧
    (∀ m, (s.port n).replay = [] → (s.port n).kept.length < 2048 → (s.port n).out = [m] →
      smGetD (s.port n).used m.vc 0 < 16 → m.ctx = 0 → 32 + m.data.length ≤ 240 → smGetD (s.port n).gone m.vc 0 = 0 →
      ∃ t l, exec (.flitTransmit n) s = .next t ∧ (t.port n).seq = ((s.port n).seq + 1) % 4096 ∧ (t.port n).out = [] ∧
        smGetD (t.port n).used m.vc 0 = smGetD (s.port n).used m.vc 0 + 1 ∧
        (t.port n).kept = (s.port n).kept ++ [⟨(s.port n).seq, m.vc, true, true, m.dst, m.src, natLe 32 m.header ++ m.data,
          false, m.id⟩] ∧
        t.out = s.out ++ .flit n (flitHeader 1 m.vc true true (32 + m.data.length) m.dst m.src (s.port n).seq
          ((s.port n).expect + 4095) (s.takeOwed n).2.1 (s.takeOwed n).2.2 false
          (padTo 240 (natLe 32 m.header ++ m.data))) (padTo 240 (natLe 32 m.header ++ m.data)) :: l ∧ t.mem = s.mem) ∧
    (∀ m m', (s.port n).replay = [] → (s.port n).kept.length < 2048 → (s.port n).out = [m, m'] → m.vc ≠ m'.vc →
      m.ctx ≠ 0 → s.scheduled n m = false → m'.ctx = 0 → m'.vc < 64 → smGetD (s.port n).used m'.vc 0 < 16 →
      ∃ (t : State) (h : Nat) (pay : List Byte) (l : List Output), exec (.flitTransmit n) s = .next t ∧
        t.out = s.out ++ .flit n h pay :: l ∧ bits h 0 2 = 1 ∧ bits h 2 6 = m'.vc) ∧
    (∀ q, exec (.retry n q) s = .next ((s.setPort n { s.port n with
      replay := ((s.port n).kept.map DataFlit.seq).dropWhile (fun k => k != q)
      retrySeq := q
      retryRun := if (s.port n).retrySeq = q ∧ (s.port n).retryRun ≠ 0 then (s.port n).retryRun + 1 else 1 }).radd
        R.waleRetriesCount n 1)) ∧
    ((s.port n).asked = true → ∃ t l, exec (.retryTimer n) s = .next t ∧
      t.out = s.out ++ .sym n (.retry (s.port n).expect) :: l ∧ t.mem = s.mem ∧ t.regs = s.regs) ∧
    (∀ vc k, vc ≠ 63 → ∃ t, exec (.credit n [(vc, k)]) s = .next t ∧
      smGetD (t.port n).used vc 0 = smGetD (s.port n).used vc 0 - k ∧ (t.port n).shared = (s.port n).shared ∧
      t.mem = s.mem ∧ t.out = s.out) ∧
    (∀ k, ∃ t, exec (.credit n [(63, k)]) s = .next t ∧ (t.port n).shared = (s.port n).shared.drop k ∧
      (t.port n).used = (s.port n).used ∧ t.mem = s.mem ∧ t.out = s.out))

/-- A WRITE message of plain data within a sector whose address translates in its ACTIVE context is written there and its
payload counted; one that is malformed or of a context that is not ACTIVE is discarded whole and counted; one behind an add
of its port and VC waits.  An ADD message of one element goes to the adders, with its marker where it asks for one.  A test
engine that is not in use starts from zero counts and runs, ends on a stop or after its duration with what it counted, counts
an injected error, and is refused where it may not run, as a Wale engine whose port is enabled. -/
def Obligations.MessagesToMemoryAndTestEngines : Prop :=
  (∀ (s : State) (n vc c va pa : Nat) (m : Msg), s.nextMsg n vc 0 = some m → c = bits m.header 16 12 →
    va = bits m.header 32 48 → (∀ q ∈ s.ms.adds, q.who ≠ msgWho m) →
    (msgMalformed m [] = false → s.ctxState c = ctxActive → bit m.header 4 = false →
      (∀ j, j < 4 → s.heldBack c j = false) → s.WritableAt ⟨c, 16 + portDie n⟩ va m.data.length pa →
      ∃ t, exec (.writeMessage n vc) s = .next t ∧ Stored s t pa m.data ∧
        t.wale.inbox = s.wale.inbox.filter (fun x => x.id != m.id) ∧
        (n < 16 → t.rg R.partAcctWaleRxCount c =
          (s.rg R.partAcctWaleRxCount c + (32 + m.data.length)) % 2 ^ R.partAcctWaleRxCount.width)) ∧
    ((msgMalformed m [] = true ∨ s.ctxState c ≠ ctxActive) →
      ∃ t, exec (.writeMessage n vc) s = .next t ∧ t.wale.inbox = s.wale.inbox.filter (fun x => x.id != m.id) ∧
        (n < 16 → t.rg R.waleRxDroppedCount n = (s.rg R.waleRxDroppedCount n + 1) % 2 ^ R.waleRxDroppedCount.width) ∧
        (s.tableRuns = false → t.mem = s.mem ∧ t.out = s.out))) ∧
  (∀ (s : State) (n vc : Nat) (m : Msg), s.nextMsg n vc 0 = some m → (∃ q ∈ s.ms.adds, q.who = msgWho m) →
    exec (.writeMessage n vc) s = .next s) ∧
  (∀ (s : State) (n vc c va b f : Nat) (m : Msg) (l : TlbEnt) (r : AddReq), s.nextMsg n vc 1 = some m →
    c = bits m.header 16 12 → va = bits m.header 32 48 → f = bits m.header 8 8 → b = fmtBits f / 8 →
    msgMalformed m [(128, 6), (134, 10), (144, 1), (145, 1)] = false → s.ctxState c = ctxActive → addFmt f = true →
    va % b = 0 → bits m.header 80 40 = b → bit m.header 4 = false → (∀ j, j < 4 → s.heldBack c j = false) →
    s.rb R.ctxPtRootValid c = true → s.leaf ⟨c, 16 + portDie n⟩ va = some l → (s.walk c va true).2 = some l →
    s.leaf ⟨c, 16 + portDie n⟩ (va / 64 * 64) = some l → (s.walk c (va / 64 * 64) true).2 = some l → l.write = true → l.pa % 4096 = 0 → 12 ≤ l.log2 →
    r = ⟨s.ms.nextAdd, msgWho m, 0, c, false, bit m.header 144, (s.coilOf (l.pa + va / 64 * 64 % 2 ^ l.log2)).getD 0,
      bits m.header 128 6, bits m.header 134 10, false, l.pa + va / 64 * 64 % 2 ^ l.log2, f, f, 2 ^ (va % 64 / b),
      [leNat m.data]⟩ →
    ∃ t, exec (.addMessage n vc) s = .next t ∧ t.wale.inbox = s.wale.inbox.filter (fun x => x.id != m.id) ∧
      t.ms.adds = s.ms.adds ++ r :: (if bit m.header 145 then [{ r with
        id := s.ms.nextAdd + 1, marker := true, ordered := true, addr := 0, mask := 0, addends := []
        coil := (s.coilOf (l.pa + va % 2 ^ l.log2)).getD 0 }] else []) ∧ t.mem = s.mem ∧ t.out = s.out) ∧
  (∀ (s : State) (e v fn : Nat), (64 ≤ fn ∨ (fn = 0 ∧ s.barOpen 0x900000 = true)) → e < 1106 →
    (∀ sync : Bool, bit v 4 = true → s.ltRefused e fn = false →
      ∃ t, exec (.ltStart e v fn sync) s = .next t ∧ t.rg R.waleLtStatusState e = 1 ∧ t.rg R.waleLtBitsCount e = 0 ∧
        t.rg R.waleLtErrorsCount e = 0 ∧ (∀ j, j < 8 → t.rg R.waleLtLaneErrCount (8 * e + j) = 0) ∧
        t.rb R.waleLtStatusSync e = sync ∧ smGet t.wale.lt e = some s.beat ∧
        (e < 16 ∨ 1104 ≤ e → t.mem = s.mem)) ∧
    (∀ sync : Bool, bit v 4 = true → (s.ltRefused e fn = true ∨ (e < 16 ∧ s.rb R.walePortCtrlEnable e = true)) →
      ∃ t, exec (.ltStart e v fn sync) s = .next t ∧ t.rg R.waleLtStatusState e = 3 ∧ t.mem = s.mem) ∧
    (∀ nb er lanes, bit v 5 = true → s.rg R.waleLtStatusState e = 1 →
      ∃ t, exec (.ltStop e v fn nb er lanes) s = .next t ∧ t.rg R.waleLtStatusState e = 2 ∧
        t.rg R.waleLtBitsCount e = satAdd R.waleLtBitsCount.width (s.rg R.waleLtBitsCount e) nb ∧
        t.rg R.waleLtErrorsCount e = satAdd R.waleLtErrorsCount.width (s.rg R.waleLtErrorsCount e) er ∧ t.mem = s.mem) ∧
    (bit v 16 = true → s.rg R.waleLtStatusState e = 1 →
      ∃ t, exec (.ltInject e v fn) s = .next t ∧
        t.rg R.waleLtErrorsCount e = satAdd R.waleLtErrorsCount.width (s.rg R.waleLtErrorsCount e) 1 ∧
        t.rg R.waleLtStatusState e = 1 ∧ t.mem = s.mem)) ∧
  (∀ (s : State) (e nb er r : Nat) (lanes : List Nat), smGet s.wale.lt e = some r → s.rg R.waleLtCtrlDuration e ≠ 0 →
    s.rg R.waleLtStatusState e = 1 → r + s.rg R.waleLtCtrlDuration e ≤ s.beat →
    ∃ t, exec (.ltDurationEnd e nb er lanes) s = .next t ∧ t.rg R.waleLtStatusState e = 2 ∧
      t.rg R.waleLtBitsCount e = satAdd R.waleLtBitsCount.width (s.rg R.waleLtBitsCount e) nb ∧
      t.rg R.waleLtErrorsCount e = satAdd R.waleLtErrorsCount.width (s.rg R.waleLtErrorsCount e) er ∧ t.mem = s.mem)

/-! ### Collectives and video -/

/-- A group is enabled where its rank table names the module at its rank, and refused otherwise; the next step of an
operation on a channel that is not scheduled starts: one with nothing to do passes at once, one that expects sends its grant,
one that sends sends its elements from the working area; a fed operation sends elements once their units are ready; a message
that no started step expects waits in the early-arrival buffer while it has room, one that a step expects is stored in the
working area or added to it, and a grant is noted; a complete step leaves the operation, the last one ends the packet, with
its segment copied to dst for a SUM_SCATTER, and a step that waits for too long is a fault. -/
def Obligations.CollectivesRunTheirSteps : Prop :=
  State.reset.rg R.collCfgTimeout 0 = 1000 ∧
  (∀ (s : State) (g v : Nat), s.barOpen 0xA00000 = true → g < 1024 → s.rb R.collGroupCfgEnable g = false → bit v 0 = true →
    1 ≤ bits v 32 17 → bits v 32 17 ≤ 65536 → s.region (s.rg R.collGroupRanksBase g) = .hbm →
    (bits v 16 16 < bits v 32 17 → s.rankModule g (bits v 16 16) = s.ownId →
      ∃ t, exec (.groupEnable g v 0) s = .next t ∧ t.rb R.collGroupCfgEnable g = true ∧ t.groupN g = bits v 32 17 ∧
        t.groupRank g = bits v 16 16 ∧ t.rg R.collGroupCfgPartition g = bits v 8 6 ∧ t.mem = s.mem) ∧
    (s.rankModule g (bits v 16 16) ≠ s.ownId →
      ∃ t, exec (.groupEnable g v 0) s = .next t ∧ t.rb R.collGroupCfgEnable g = false ∧
        t.rb R.collGroupCfgCfgRefused g = true ∧ t.mem = s.mem)) ∧
  (∀ (s : State) (c : Nat) (o : CollOp), c < 32 → s.headOp c = some o → coChan o.words = c →
    (∀ j, j < 4 → s.heldBack o.ctx j = false) →
    (s.rb R.collChanCfgScheduled c = false → o.steps = [] → o.next ≤ s.lastStep o.words → (∀ m ∈ s.coll.early, m.vc ≠ c) →
      (o.begun = true ∨ coFed o.words = true ∨ coKind o.words = 1 ∨ (coKind o.words = 0 ∧ coSrc o.words = coDst o.words)) →
      (s.plan o.words o.next = ⟨[], []⟩ → o.next = s.lastStep o.words →
        exec (.collStepStart c) s = .next (s.setHead c { o with begun := true, next := o.next + 1 })) ∧
      (∀ k tr rs add p, s.plan o.words o.next = ⟨[], [(k, tr, rs, add)]⟩ → s.rankModule (coGroup o.words) k ≠ s.ownId →
        s.route (s.rankModule (coGroup o.words) k) = some p → workBase o.words < 2 ^ 48 →
        ∃ (t : State) (x : CollStep), exec (.collStepStart c) s = .next t ∧
          t.headOp c = some { o with begun := true, next := o.next + 1, steps := [x], ids := o.ids ++ [s.wale.nextMsg] } ∧
          x.step = o.next ∧ x.start = s.beat ∧ x.last = s.beat ∧ x.todo = [] ∧
          x.want = [⟨k, tr, (rs.headD (0, 0)).1, (rs.map Prod.snd).sum, 0, add⟩] ∧
          (t.port p).out = (s.port p).out ++ [⟨s.wale.nextMsg, p, c, s.rankModule (coGroup o.words) k, s.ownId,
            collHeader o.words o.next (s.groupRank (coGroup o.words)) tr true false 0 0, [], o.ctx, false, 0, 0⟩] ∧
          t.mem = s.mem) ∧
      (∀ k tr f l p pa, 4 ≤ c → coFed o.words = false → coPlait o.words = false →
        s.plan o.words o.next = ⟨[(k, tr, [(f, l)])], []⟩ → 0 < l → l * coSize o.words ≤ s.rg R.collCfgEager 0 * 4096 →
        s.rankModule (coGroup o.words) k ≠ s.ownId → s.route (s.rankModule (coGroup o.words) k) = some p →
        s.ReadableAt (collRq o) (workBase o.words + f * coSize o.words) (l * coSize o.words) pa →
        ∃ (t : State) (x : CollStep), exec (.collStepStart c) s = .next t ∧
          t.headOp c = some { o with begun := true, next := o.next + 1, steps := [x], ids := o.ids ++ [s.wale.nextMsg] } ∧
          x.step = o.next ∧ x.todo = [] ∧ x.want = [] ∧
          (t.port p).out = (s.port p).out ++ [⟨s.wale.nextMsg, p, c, s.rankModule (coGroup o.words) k, s.ownId,
            collHeader o.words o.next (s.groupRank (coGroup o.words)) tr false false f (l * coSize o.words),
            s.bytes pa (l * coSize o.words), o.ctx, false, 0, 0⟩] ∧ t.mem = s.mem)) ∧
    (∀ x k f l p pa, coFed o.words = true → 4 ≤ c → coPlait o.words = false → o.steps = [x] → x.held = [] → x.entry = none →
      x.todo = [⟨k, 0, f, l, false⟩] → x.sent = [] → x.granted = [] → 0 < l →
      l * coSize o.words ≤ s.rg R.collCfgEager 0 * 4096 → s.rankModule (coGroup o.words) k ≠ s.ownId →
      s.route (s.rankModule (coGroup o.words) k) = some p →
      (s.rangeReady o f l = true →
        s.ReadableAt (collRq o) (workBase o.words + f * coSize o.words) (l * coSize o.words) pa →
        ∃ t, exec (.collReadySend c) s = .next t ∧
          (t.port p).out = (s.port p).out ++ [⟨s.wale.nextMsg, p, c, s.rankModule (coGroup o.words) k, s.ownId,
            collHeader o.words x.step (s.groupRank (coGroup o.words)) 0 false false f (l * coSize o.words),
            s.bytes pa (l * coSize o.words), o.ctx, false, 0, 0⟩] ∧
          (∀ o' y, t.headOp c = some o' → y ∈ o'.steps → y.todo = []) ∧ t.mem = s.mem) ∧
      (s.rangeReady o f l = false → (∀ i, i < x.step → (s.plan o.words i).sends = []) →
        ∃ t, exec (.collReadySend c) s = .next t ∧ t.wale = s.wale ∧ t.mem = s.mem ∧
          (t.headOp c).map CollOp.steps = some [x])) ∧
    (∀ x, o.steps.find? CollStep.complete = some x → x.entry = none →
      exec (.collStepComplete c) s = .next (s.setHead c { o with steps := o.steps.filter (fun y => y.step != x.step) })) ∧
    (o.steps = [] → s.lastStep o.words < o.next → (∀ id ∈ o.ids, s.accepted id = true) → s.srcReady o = true →
      ((coKind o.words ≠ 1 ∨ 2 ^ Nat.log2 (s.groupN (coGroup o.words)) ≤ s.groupRank (coGroup o.words)) →
        exec (.collStepComplete c) s = .next ((((s.setOps c ((s.collOps c).drop 1)).radd R.collChanOpsCount c 1).radd
          R.collGroupSeqCompleted (coGroup o.words) 1).finish o.ctx o.ring o.slot ⟨0, o.maxWait, 0⟩)) ∧
      (∀ b d pa pb, coKind o.words = 1 → s.groupRank (coGroup o.words) < 2 ^ Nat.log2 (s.groupN (coGroup o.words)) →
        coSrc o.words + d.1 * b ≠ coDst o.words → b = coSize o.words → d = s.dstRange o.words →
        s.ReadableAt (collRq o) (coSrc o.words + d.1 * b) (d.2 * b) pa → s.WritableAt (collRq o) (coDst o.words) (d.2 * b) pb →
        ∃ t, exec (.collStepComplete c) s = .next t ∧ Stored s t pb (s.bytes pa (d.2 * b)) ∧
          t.collOps c = (s.collOps c).drop 1 ∧
          (t.ctx o.ctx).jobs = ((s.finish o.ctx o.ring o.slot ⟨0, o.maxWait, 0⟩).ctx o.ctx).jobs)) ∧
    ((∃ x ∈ o.steps, s.rg R.collCfgTimeout 0 ≤ s.beat - x.last) →
      (∀ m ∈ s.coll.early, m.vc = c → cmGroup m.header = coGroup o.words ∧ cmSeq m.header = coSeq o.words) →
      exec (.collTimeout c) s = .next (s.raise { FaultInfo.mk0 fltCollTimeout 6 c with
        part := s.rg R.ctxCfgPartition o.ctx, ctx := o.ctx })) ∧
    (∀ m, m ∈ s.coll.early → m.vc = c → (cmGroup m.header ≠ coGroup o.words ∨ cmSeq m.header ≠ coSeq o.words) →
      (∃ x ∈ o.steps, s.rg R.collCfgTimeout 0 ≤ s.beat - x.last) →
      exec (.collTimeout c) s = .next (s.raise { FaultInfo.mk0 fltCollectiveOrder 6 c with
        part := s.rg R.ctxCfgPartition o.ctx, ctx := o.ctx })) ∧
    ((∀ x ∈ o.steps, s.beat - x.last < s.rg R.collCfgTimeout 0) → exec (.collTimeout c) s = .next s)) ∧
  (∀ (s : State) (n vc : Nat) (m : Msg), s.nextMsg n vc 2 = some m → s.collBad m = false →
    (∀ o, s.headOp vc = some o → ∀ j, j < 4 → s.heldBack o.ctx j = false) →
    (cmGrant m.header = false → s.stepFor m = none → s.rg R.collEarlyUseUsed (vc % 2) + m.bytes ≤ 8388608 →
      ∃ t, exec (.coll n vc) s = .next t ∧ t.coll.early = s.coll.early ++ [m] ∧
        t.wale.inbox = s.wale.inbox.filter (fun x => x.id != m.id) ∧ t.mem = s.mem) ∧
    (∀ o x v va pa, cmGrant m.header = false → s.stepFor m = some (o, x) → o.steps = [x] → x.want = [v] → x.held = [] →
      x.todo = [] → 4 ≤ vc → coChan o.words = vc → bit m.header 4 = false →
      (v.add = false →
        va = (if coKind o.words = 1 then coDst o.words + (cmOffset m.header - (s.dstRange o.words).1) * coSize o.words
          else workBase o.words + cmOffset m.header * coSize o.words) →
        s.WritableAt (collRq o) va m.data.length pa →
        ∃ t, exec (.coll n vc) s = .next t ∧ Stored s t pa m.data ∧
          t.headOp vc = some { o with maxWait := max o.maxWait (s.beat - x.last), steps := [{ x with
            last := s.beat, want := [{ v with got := v.got + m.data.length / coSize o.words }] }] }) ∧
      (v.add = true → coMemAdd o.words = false → coFed o.words = false → coFmt o.words = 0x10 → m.data.length = 4 →
        va = workBase o.words + cmOffset m.header * 4 → s.ReadableAt (collRq o) va 4 pa → s.WritableAt (collRq o) va 4 pa →
        ∃ t, exec (.coll n vc) s = .next t ∧ t.num pa 4 = (s.num pa 4 + leNat m.data) % 2 ^ 32 ∧
          (∀ a, a < pa ∨ pa + 4 ≤ a → t.byte a = s.byte a) ∧
          t.headOp vc = some { o with maxWait := max o.maxWait (s.beat - x.last), steps := [{ x with
            last := s.beat, want := [{ v with got := v.got + 1 }] }] })) ∧
    (∀ o x, cmGrant m.header = true → s.stepFor m = some (o, x) → o.steps = [x] → x.todo = [] →
      ∃ t, exec (.collGrant n vc) s = .next t ∧
        t.headOp vc = some { o with steps := [{ x with granted := cmRank m.header :: x.granted }] } ∧ t.mem = s.mem))

/-- The entropy engine begins the next frame of a cluster's queue within its run-ahead, reading a job's stream first; its
parsed frame waits for the pixel engines where its records have room, or ends its job where damage stops it; the pixel engines
begin a frame that is parsed, and finish it with its output, or end its job with the status of an access that fails; an
encoder codes a frame from its samples, or ends its job where the unit does not fit.  The motion vectors that it considers
have their block and its interpolation support within the search window, which every block's vectors of up to 252 luma
samples horizontally and 124 vertically do. -/
def Obligations.VideoFramesAreParsedAndReconstructed : Prop :=
  (∀ (s : State) (b : Nat) (j : VidJob) (rest : List VidJob), b < 2 → s.vidJobs b = j :: rest →
    (∀ i, i < 4 → s.heldBack j.ctx i = false) →
    ((∀ l ∈ s.vidJobs b, l.parsing = false) → s.rb R.vidSessionEncode j.session = false →
      aheadOf (s.vidJobs b) < s.rg R.vidCfgRunahead 0 → j.stop = none → j.ends = none →
      (∀ f, j.begun = true → s.nextFrame j = some f →
        ∃ t, exec (.frameParseStart b) s = .next t ∧ (t.vidJobs b).head? = some { j with parsing := true } ∧ t.mem = s.mem) ∧
      (∀ f pa, j.begun = false → s.ReadableAt (vidRq j.ctx b) (bits j.words 64 48) (bits j.words 128 32) pa →
        Config.codecFrame (s.rg R.vidSessionCodec j.session) ((s.session j.session).streams ++
          [s.bytes pa (bits j.words 128 32)]) j.parsed = some f →
        ∃ t, exec (.frameParseStart b) s = .next t ∧
          (t.vidJobs b).head? = some { j with begun := true, parsing := true } ∧
          (t.session j.session).streams = (s.session j.session).streams ++ [s.bytes pa (bits j.words 128 32)] ∧
          t.mem = s.mem)) ∧
    (s.rg R.vidCfgRunahead 0 ≤ aheadOf (s.vidJobs b) → exec (.frameParseStart b) s = .next s) ∧
    (∀ (f : Config.FrameInfo) (x : VidSess) (n : Nat), j.parsing = true → s.nextFrame j = some f → x = s.session j.session →
      s.rg R.vidSessionCluster j.session = b → f.unsupported = false → f.width ≤ x.maxW → f.height ≤ x.maxH →
      f.width * f.height ≤ 35651584 → (8 < f.depth → s.rb R.vidSessionBit10 j.session = true) → x.needs = false →
      f.rasl = false → n = (vidRecords (s.rg R.vidSessionCodec j.session) x.streams j.parsed f).length →
      (s.syntaxRoom b j f = false → exec (.frameParseDone b) s = .next s) ∧
      (s.syntaxRoom b j f = true → f.damage = 0 →
        ∃ t, exec (.frameParseDone b) s = .next t ∧ (t.vidJobs b).head? = some { j with
          parsed := j.parsed + 1, parsing := false, used := f.used
          ready := j.ready ++ [⟨x.streams.length, j.parsed, f, false, false, false,
            recordPlace (recordsHeld (s.vidJobs b)) (s.rg R.vidSyntaxSizeSize b) n, n⟩] }) ∧
      (s.syntaxRoom b j f = true → f.damage ≠ 0 → bit j.words 17 = true → j.ready = [] → j.busy = false → rest = [] →
        s.rb R.vidSessionEncode j.session = false → j.begun = true → (bit j.words 16 = false ∨ x.held = []) →
        ∃ t, exec (.frameParseDone b) s = .next t ∧ t.vidJobs b = [] ∧ (t.session j.session).needs = true ∧
          (t.ctx j.ctx).jobs = ((s.finish j.ctx j.ring j.slot
            ⟨stVidDamaged, min 65535 j.written + min 65535 j.concealed * 2 ^ 16, f.used⟩).ctx j.ctx).jobs)) ∧
    (j.busy = false → (s.rb R.vidSessionEncode j.session = true ∨ j.ready ≠ []) →
      exec (.frameReconstructStart b) s = .next (s.putJob b { j with busy := true })) ∧
    (∀ (u : State) (f : VidFrame) (fs : List VidFrame), j.busy = true → s.rb R.vidSessionEncode j.session = false →
      j.ready = f :: fs → j.ends = none → j.parsing = false →
      (s.frameAccess b { j with busy := false, ready := fs } f = (u, none) → f.concealed = false →
        (fs ≠ [] ∨ (s.nextFrame j).isSome = true) →
        (f.info.outputs = [] →
          ∃ t, exec (.frameReconstructDone b) s = .next t ∧
            (t.vidJobs b).head? = some { j with busy := false, ready := fs, done := j.done + 1 } ∧
            (t.session j.session).frames.length = (s.session j.session).frames.length + 1 ∧
            t.rg R.vidDecFramesCount b = (s.rg R.vidDecFramesCount b + 1) % 2 ^ R.vidDecFramesCount.width ∧
            t.rg R.vidPixelsCount b =
              (s.rg R.vidPixelsCount b + f.info.width * f.info.height) % 2 ^ R.vidPixelsCount.width ∧ t.mem = u.mem) ∧
        (∀ k n pa, f.info.outputs = [0] → f.info.height = 1 → bits j.words 560 16 = 0 → k = s.rg R.vidSessionFrames j.session →
          bits j.words 192 32 ≤ k → (k - bits j.words 192 32) % bits j.words 176 8 = 0 → j.written < bits j.words 160 16 →
          n = f.info.width * ((bits j.words 21 2 + 1) * (fmtBits (bits j.words 24 8) / 8)) →
          u.WritableAt (vidRq j.ctx b) (bits j.words 256 48 + j.written * bits j.words 384 40) n pa →
          ∃ t, exec (.frameReconstructDone b) s = .next t ∧
            Stored u t pa (t.outRow j (s.session j.session).frames.length f.info 0) ∧
            (t.vidJobs b).head? = some { j with
              busy := false, ready := fs, done := j.done + 1, written := j.written + 1 } ∧
            t.rg R.vidSessionFrames j.session = (k + 1) % 2 ^ R.vidSessionFrames.width)) ∧
      (∀ e, s.frameAccess b { j with busy := false, ready := fs } f = (u, some e) → rest = [] → j.begun = true →
        ∃ t, exec (.frameReconstructDone b) s = .next t ∧ t.vidJobs b = [] ∧ (t.session j.session).needs = true ∧
          (t.ctx j.ctx).jobs = ((s.finish j.ctx j.ring j.slot
            ⟨e.1, min 65535 j.written + min 65535 j.concealed * 2 ^ 16,
              if stClass e.1 = 2 ∨ stClass e.1 = 3 then e.2 else j.used⟩).ctx j.ctx).jobs)) ∧
    (∀ (u v : State) (rows : List (List Nat)) (cur : List Nat) (unit : List Byte) (x : VidSess), j.busy = true →
      s.rb R.vidSessionEncode j.session = true → j.ends = none → j.stop = none → j.concealed = 0 →
      x = s.session j.session → s.encRows b { j with busy := false } j.done = (u, .ok rows) →
      cur = [b2n (s.encKey j), bits j.words 32 8, bits j.words 40 2, bits j.words 256 16, bits j.words 272 16,
        bits j.words 22 1] ++ encSamples j.words j.colour rows →
      u.search (vidRq j.ctx b) b x cur = (v, none) → unit = Config.encodeUnit x.coded cur (considered x.coded cur) →
      (bits j.words 448 32 < j.used + unit.length →
        ∃ t, exec (.frameReconstructDone b) s = .next t ∧ (t.session j.session).needs = true ∧ t.mem = s.mem ∧
          (t.ctx j.ctx).jobs =
            ((s.finish j.ctx j.ring j.slot ⟨stCmdLength, min 65535 j.done, j.used⟩).ctx j.ctx).jobs) ∧
      (j.used + unit.length ≤ bits j.words 448 32 → (v.putUnit b { j with busy := false } cur unit).2.ends = none →
        ∃ t, exec (.frameReconstructDone b) s = .next t ∧ (t.session j.session).coded = x.coded ++ [cur] ∧
          t.rg R.vidEncFramesCount b = (s.rg R.vidEncFramesCount b + 1) % 2 ^ R.vidEncFramesCount.width ∧
          t.rg R.vidSessionFrames j.session =
            (s.rg R.vidSessionFrames j.session + 1) % 2 ^ R.vidSessionFrames.width ∧
          (j.done + 1 ≠ bits j.words 240 16 → ∃ k, (t.vidJobs b).head? = some k ∧ k.done = j.done + 1 ∧
            k.used = j.used + unit.length ∧ k.busy = false) ∧
          (j.done + 1 = bits j.words 240 16 → (t.ctx j.ctx).jobs =
            ((s.finish j.ctx j.ring j.slot ⟨0, min 65535 (j.done + 1), j.used + unit.length⟩).ctx j.ctx).jobs)))) ∧
  (∀ (coded : List (List Nat)) (cur : List Nat) (m : Config.Motion), m ∈ considered coded cur →
    64 * ((m.x / 64 : Nat) : Int) - 256 ≤ m.x + m.dx / 8 - 3 ∧ m.x + m.dx / 8 + m.w + 4 ≤ 64 * ((m.x / 64 : Nat) : Int) + 320 ∧
    64 * ((m.y / 64 : Nat) : Int) - 128 ≤ m.y + m.dy / 8 - 3 ∧ m.y + m.dy / 8 + m.h + 4 ≤ 64 * ((m.y / 64 : Nat) : Int) + 192) ∧
  (∀ m : Config.Motion, m.x % 64 + m.w ≤ 64 → m.y % 64 + m.h ≤ 64 → -252 * 8 ≤ m.dx → m.dx ≤ 252 * 8 → -124 * 8 ≤ m.dy →
    m.dy ≤ 124 * 8 → motionInside m = true)

/-! ### Faults and mirrors -/

/-- A fault that the module raises while no job runs and no partition is enabled is counted, recorded in FLT_LAST and
FLT_STATUS, and stops nothing; a FAULT symbol seen for the first time goes out on every other UP port and not on its own, and
for the armed job is counted, recorded and halts it; one that was seen before does nothing. -/
def Obligations.FaultsAreRecordedAndRelayed : Prop :=
  (∀ (s : State) (code kind unit part ctx status addr r : Nat) (f : FaultInfo), code ∈ faultCodes → kind ≤ 9 → part < 64 →
    ctx < 4096 → f = { FaultInfo.mk0 code kind unit with part := part, ctx := ctx, status := status, addr := addr } →
    s.tableOn = false → s.rb R.fltStatusJobHalted 0 = false → s.enabledParts = [] → s.rb R.fltRingCfgEnable 0 = false →
    r = faultRecord f (if partScope f then 0 else 1) 0 s.ownId s.round +
      phaseOf (s.rg R.fltRingCfgLog2Size 0) (s.rg R.fltRingPiPi 0) * 2 ^ 19 →
    ∃ t, exec (.faultRaise code kind unit part ctx status addr) s = .next t ∧ t.rb R.fltStatusFault 0 = true ∧
      t.rg R.fltCountCount 0 = (s.rg R.fltCountCount 0 + 1) % 2 ^ R.fltCountCount.width ∧
      (∀ j, j < 8 → t.rg R.fltLastRecord j = bits r (64 * j) 64) ∧ t.mem = s.mem ∧ t.weaves = s.weaves ∧ t.ctxs = s.ctxs) ∧
  (∀ (s : State) (port origin code round r : Nat), port ∈ s.upPorts → (origin, code, round) ∉ s.flt.seen →
    r = faultRecord (FaultInfo.mk0 code 0 0) 2 1 origin round +
      phaseOf (s.rg R.fltRingCfgLog2Size 0) (s.rg R.fltRingPiPi 0) * 2 ^ 19 →
    ∃ t, exec (.fault port origin code round) s = .next t ∧ t.flt.seen = (origin, code, round) :: s.flt.seen ∧
      (∀ p ∈ s.upPorts, p ≠ port → Output.sym p (.fault origin code round) ∈ t.out) ∧
      (∀ y, Output.sym port y ∈ t.out → Output.sym port y ∈ s.out) ∧ s.out <+: t.out ∧
      (s.actsOn origin round = false → t.regs = s.regs ∧ t.mem = s.mem) ∧
      (s.actsOn origin round = true →
        t.rg R.fltRemoteCount 0 = (s.rg R.fltRemoteCount 0 + 1) % 2 ^ R.fltRemoteCount.width ∧
        (∀ j, j < 8 → t.rg R.fltLastRecord j = bits r (64 * j) 64) ∧ t.rb R.fltStatusFault 0 = true ∧
        t.rb R.fltStatusJobHalted 0 = true ∧ t.rg R.weaveStatusState 0 = 1 ∧ t.rb R.weaveStatusDone 0 = true ∧
        t.wtab.waiting = [])) ∧
  (∀ (s : State) (port origin code round : Nat), (origin, code, round) ∈ s.flt.seen →
    exec (.fault port origin code round) s = .next s)

/-- A mirror window ends once its COMMIT messages are accepted; DATA and DIRECTORY messages are written into the bank
of their epoch, but for the range that the receiver does not write, and the first message of an epoch rewrites the bank's
header; COMMIT on every named port commits the bank and shows it in FLT_MIRROR_STATUS; a RESTORE message is written in
restore_ctx, counted where it cannot be, and discarded where the module takes none; a restore of a bank that is not committed
or whose header or directory is malformed ends with ST_CMD_MALFORMED, one of a committed bank of one object sends that object
back, and it is done once its messages are accepted. -/
def Obligations.MirrorWindowsBanksAndRestores : Prop :=
  (∀ (s : State) (i k : Nat) (w : Nat × Nat × List Nat), s.flt.windows.find? (fun x => x.1 == i && x.2.1 == k) = some w →
    (∀ id ∈ w.2.2, s.accepted id = true) →
    exec (.mirrorWindowFinish i k) s = .next (({ s with flt := { s.flt with
      windows := s.flt.windows.filter (fun x => !(x.1 == i && x.2.1 == k)) } }.finishEntry i k).checkRunEnd)) ∧
  (∀ (s : State) (n part ep a off : Nat) (m : Msg) (c : Instr), s.nextMirror n part = some m →
    s.rb R.fltStatusJobHalted 0 = false → s.rg R.fltMirrorRxLenLength 0 ≠ 0 → ep = bits m.header 128 32 →
    a = s.bankAt (ep % 2) → off = bits m.header 32 48 →
    (c, part) ∈ [(Instr.mirrorData n, 0), (.mirrorDirectory n, 1)] → msgMalformed m [(128, 32), (160, 2), (162, 2)] = false →
    off + bits m.header 80 40 ≤ s.bankLen → bit m.header 4 = false →
    (s.flt.rxEpoch = some ep →
      (0 < m.data.length → (a + off) % 64 + m.data.length ≤ 64 → s.writeStatus (a + off) = 0 →
        (off + m.data.length ≤ 131200 ∨ 262144 ≤ off) → ∃ t, exec c s = .next t ∧ Stored s t (a + off) m.data) ∧
      (131200 ≤ off → off + m.data.length ≤ 262144 → ∃ t, exec c s = .next t ∧ t.mem = s.mem)) ∧
    (s.flt.rxEpoch ≠ some ep → a % 64 = 0 → s.writeStatus a = 0 → m.src < 65536 → 64 ≤ off →
      ∃ t, exec c s = .next t ∧ t.flt.rxEpoch = some ep ∧ t.flt.rxCommits = [] ∧
        t.num a 64 = 0x5252494D + ep * 2 ^ 32 + m.src * 2 ^ 80)) ∧
  (∀ (s : State) (n ep a : Nat) (m : Msg) (l : List Nat), s.nextMirror n 2 = some m →
    s.rb R.fltStatusJobHalted 0 = false → s.rg R.fltMirrorRxLenLength 0 ≠ 0 → ep = bits m.header 128 32 →
    a = s.bankAt (ep % 2) → commitBad m = false → l = (if s.flt.rxEpoch = some ep then s.flt.rxCommits else []) →
    ((∀ p ∈ mirrorPorts (bits m.header 162 2), p = n ∨ p ∈ l) →
      ∃ t, exec (.mirrorCommit n) s = .next t ∧ t.rg R.fltMirrorStatusEpoch 0 = ep ∧ t.rg R.fltMirrorStatusBank 0 = ep % 2 ∧
        t.rb R.fltMirrorStatusValid 0 = true ∧ t.flt.rxEpoch = none ∧
        (a % 64 = 0 → s.writeStatus a = 0 → bits (t.num a 64) 0 32 = 0x5252494D ∧ bits (t.num a 64) 32 32 = ep ∧
          bit (t.num a 64) 64 = true)) ∧
    ((∃ p ∈ mirrorPorts (bits m.header 162 2), p ≠ n ∧ p ∉ l) →
      ∃ t, exec (.mirrorCommit n) s = .next t ∧ t.flt.rxEpoch = some ep ∧ t.flt.rxCommits = n :: l ∧
        t.rb R.fltMirrorStatusValid 0 = s.rb R.fltMirrorStatusValid 0)) ∧
  (∀ (s : State) (n c pa : Nat) (m : Msg), s.nextMirror n 3 = some m → c = s.rg R.fltMirrorCfgRestoreCtx 0 →
    (s.rb R.fltMirrorCfgRestoreRx 0 = true → msgMalformed m [(128, 32), (160, 2), (162, 2)] = false → bit m.header 4 = false →
      (s.WritableAt ⟨c, 16 + portDie n⟩ (bits m.header 32 48) m.data.length pa →
        ∃ t, exec (.mirrorRestore n) s = .next t ∧ Stored s t pa m.data ∧
          t.rg R.fltRestoreRxErrorsCount 0 = s.rg R.fltRestoreRxErrorsCount 0) ∧
      (s.rb R.ctxPtRootValid c = false → 0 < m.data.length →
        ∃ t, exec (.mirrorRestore n) s = .next t ∧ t.mem = s.mem ∧ t.rg R.fltRestoreRxErrorsCount 0 =
          (s.rg R.fltRestoreRxErrorsCount 0 + 1) % 2 ^ R.fltRestoreRxErrorsCount.width)) ∧
    (s.rb R.fltMirrorCfgRestoreRx 0 = true → msgMalformed m [(128, 32), (160, 2), (162, 2)] = false →
      (∀ (v : State) (bs : List Byte) (w : Wr), (s.takeMsg m).msgImage m c (borderSet (portDie n)) = (v, .ok bs) →
        w = v.vwrite ⟨c, 16 + portDie n⟩ (bits m.header 32 48) bs →
        exec (.mirrorRestore n) s = .next (if w.st = 0 then w.s else w.s.radd R.fltRestoreRxErrorsCount 0 1)) ∧
      (∀ (v : State) (d : Done), (s.takeMsg m).msgImage m c (borderSet (portDie n)) = (v, .error d) →
        exec (.mirrorRestore n) s = .next (v.radd R.fltRestoreRxErrorsCount 0 1))) ∧
    (s.rb R.fltMirrorCfgRestoreRx 0 = true → msgMalformed m [(128, 32), (160, 2), (162, 2)] = true →
      exec (.mirrorRestore n) s = .next ((s.takeMsg m).radd R.fltRestoreRxErrorsCount 0 1)) ∧
    (s.rb R.fltMirrorCfgRestoreRx 0 = false → exec (.mirrorRestore n) s = .next (s.takeMsg m))) ∧
  (∀ (s : State) (v b : Nat), s.barOpen 0xE00000 = true → bit v 0 = true → s.tableOn = false →
    s.rb R.fltRestoreBusy 0 = false → b = bits v 1 1 →
    (((s.pairReady 7 = false ∧ s.pairReady 15 = false) ∨ s.bankGood b = false) →
      ∃ t, exec (.restoreStart v 0) s = .next t ∧ t.rb R.fltRestoreBusy 0 = false ∧ t.rb R.fltRestoreDone 0 = true ∧
        t.rg R.fltRestoreStatus 0 = stCmdMalformed ∧ t.mem = s.mem ∧ t.out = s.out) ∧
    (∀ port e a n : Nat, [7, 15].find? (fun p => s.pairReady p) = some port → s.bankGood b = true →
      bits (s.own (s.bankAt b + 64) 64) 32 16 = 1 → e = s.bankEntry b 0 → mePlait e = false →
      s.rg R.walePairPartner 0 ≠ s.ownId → a = s.bankAt b + 262144 + meDst e → n = meLen e → a % 64 + n ≤ 64 →
      s.GoodAt a n →
      ∃ t, exec (.restoreStart v 0) s = .next t ∧ t.rb R.fltRestoreBusy 0 = true ∧ t.flt.restore = [s.wale.nextMsg] ∧
        (t.port port).out = (s.port port).out ++ [⟨s.wale.nextMsg, port, 47, s.rg R.walePairPartner 0, s.ownId,
          mirrorHeader false (meSrc e) n (bits (s.own (s.bankAt b) 64) 32 32) 3 0, s.bytes a n, noCtx, true, 0, 0⟩] ∧
        t.mem = s.mem)) ∧
  (∀ (s : State), s.rb R.fltRestoreBusy 0 = true → (∀ id ∈ s.flt.restore, s.accepted id = true) →
    ∃ t, exec .restoreDone s = .next t ∧ t.rb R.fltRestoreBusy 0 = false ∧ t.rb R.fltRestoreDone 0 = true ∧
      t.rg R.fltRestoreStatus 0 = 0 ∧ t.flt.restore = [] ∧ t.mem = s.mem)

/-! ### The Handle -/

/-- The Handle takes a new mailbox request into service, and answers one whose opcode is not defined with BAD_OPCODE;
an answer to the mailbox holds the payload, its length, the result and the request's number; MCTP messages set the EID,
read sensors and bring requests, which wait behind the one in service; GET_INFO, LOG_READ, MEASURE and ATTEST are answered, the
last with a report signed with the next index, which is then used, or EXHAUSTED. -/
def Obligations.HandleTakesAndAnswersRequests : Prop :=
  (∀ (s : State) (q op : Nat), s.handleUp = true → q = s.mbox 0 2 → q ≠ s.mbox 4 2 → op = s.mbox 2 1 → s.hdl.req = none →
    s.hdl.queue = [] → (∀ x, s.hdl.staging = some x → x.2.2.path ≠ 0) →
    (op ∈ hdlOps → s.recovery = false →
      ∃ t, exec .mailboxPoll s = .next t ∧ t.hdl.req = some ⟨0, q, op,
          (upFrom 64 (min 4032 (s.mbox 6 2))).map (fun i => smGetD s.hdl.mailbox i 0)⟩ ∧ t.hdl.queue = [] ∧
        t.regs = s.regs ∧ t.mem = s.mem) ∧
    (op ∉ hdlOps → ∃ t, exec .mailboxPoll s = .next t ∧ t.hdl.req = none ∧ t.mbox 3 1 = resBadOpcode ∧ t.mbox 4 2 = q ∧
      t.mbox 6 2 = 0 ∧ t.mem = s.mem)) ∧
  (∀ (s : State) (r : HdlReq) (res : Nat) (pl : List Byte), s.hdl.req = some r → r.path = 0 → r.seq < 65536 →
    s.hdl.queue = [] → res < 256 → res ≠ resDenied → res ≠ resSignature → res ≠ resRollback → pl.length ≤ 4032 →
    (s.answer res pl).mbox 3 1 = res ∧ (s.answer res pl).mbox 4 2 = r.seq ∧ (s.answer res pl).mbox 6 2 = pl.length ∧
    (∀ i b, pl[i]? = some b → smGetD (s.answer res pl).hdl.mailbox (64 + i) 0 = b) ∧ (s.answer res pl).hdl.req = none ∧
    (s.answer res pl).regs = s.regs ∧ (s.answer res pl).mem = s.mem) ∧
  (∀ (s : State) (path : Nat), s.handleUp = true → 1 ≤ path → path ≤ 3 →
    (∀ e, ∃ t, exec (.mctpMessage path (.setEid e)) s = .next t ∧ t.hdl.eid = e ∧
      t.out = s.out ++ [.mctp path (if path = 3 then ((s.inForce.value 0x40).map leNat).getD 0x62 else e) (natLe 1 e)] ∧
      t.regs = s.regs ∧ t.mem = s.mem) ∧
    (∀ k, 1 ≤ k → k ≤ 71 → exec (.mctpMessage path (.readSensor k)) s =
      .next (s.emit (.mctp path (s.pathAddr path)
        (natLe 2 (s.rg R.hdlSensorValue (k - 1)) ++ natLe 1 (s.rg R.hdlSensorLevel (k - 1)))))) ∧
    (∀ q op pl, s.hdl.req = none → s.hdl.queue = [] → op ∈ hdlOps → s.recovery = false →
      ∃ t, exec (.mctpMessage path (.request q op pl)) s = .next t ∧ t.hdl.req = some ⟨path, q, op, pl⟩ ∧
        t.hdl.queue = [] ∧ t.regs = s.regs ∧ t.mem = s.mem ∧ t.out = s.out) ∧
    (∀ q op pl r, s.hdl.req = some r →
      ∃ t, exec (.mctpMessage path (.request q op pl)) s = .next t ∧ t.hdl.req = some r ∧
        t.hdl.queue = s.hdl.queue ++ [⟨path, q, op, pl⟩] ∧ t.regs = s.regs ∧ t.mem = s.mem ∧ t.out = s.out)) ∧
  (∀ (s : State) (r : HdlReq),
    (s.serving 0x01 = some r → exec .getInfo s = .next (s.answer resDone
      (natLe 8 ((s.hdl.slot0.map FwImage.version).getD 0) ++ natLe 8 ((s.hdl.slot1.map FwImage.version).getD 0) ++
        natLe 8 (s.rg R.hdlFwSvn 0) ++ natLe 8 (s.rg R.hdlFwMinSvn 0) ++ natLe 8 (s.rg R.hdlCfgSeqSequence 0)))) ∧
    (s.serving 0x02 = some r → r.arg 1 ≤ 62 → exec .logRead s = .next (s.answer resDone
      ((s.hdl.log.filter (fun e => decide (r.arg 0 ≤ e % 2 ^ 64 ∧ e % 2 ^ 64 < r.arg 0 + r.arg 1))).flatMap (natLe 64)))) ∧
    (s.serving 0x31 = some r → r.path = 0 → 8 ≤ r.arg 0 → r.arg 0 ≤ 15 → r.payload.length = 40 →
      exec .measure s = .next ((s.extend (r.arg 0) (r.payload.drop 8)).answer resDone [])) ∧
    (s.serving 0x31 = some r → r.path ≠ 0 → exec .measure s = .next (s.answer resDenied [])) ∧
    (s.serving 0x30 = some r → 2 ^ 40 ≤ s.hdl.next → exec .attest s = .next (s.answer resExhausted [])) ∧
    (∀ body : List Byte, s.serving 0x30 = some r → s.hdl.next < 2 ^ 40 → r.arg 4 % 64 = 0 → 40 ≤ r.payload.length →
      s.hdl.next < s.attLimit → s.hdl.queue = [] → body = s.report (leNat (r.payload.take 32)) s.hdl.next →
      (∀ p ∈ spans 64 (r.arg 4) 10533, s.writeStatus p.1 = 0) →
      ∃ t, exec .attest s = .next t ∧ Stored s t (r.arg 4) (body ++ attestSignature s.hdl.next body) ∧
        t.hdl.next = s.hdl.next + 1 ∧ t.rg R.hdlAttestNext 0 = (s.hdl.next + 1) % 2 ^ 40 ∧ t.hdl.req = none ∧
        (r.path = 0 → t.mbox 3 1 = resDone ∧ t.mbox 6 2 = 8 ∧ t.mbox 64 8 = 10533)))

/-- Firmware is staged into the slot that is not loaded, activated and committed; integrator records, keys and channel
health change through waiting writes of the configuration store; a write that completes puts the new body into the
other copy with a sequence one greater, in force, and leaves the copy that was in force as it is. -/
def Obligations.FirmwareAndConfigurationStore : Prop :=
  (∀ (s : State) (r : HdlReq),
    (s.serving 0x10 = some r → s.hdl.staging = none → r.arg 1 ≤ 0x2000000 → s.GoodAt (r.arg 0) (r.arg 1) →
      s.inForce.value 0x22 ≠ some (natLe 1 (1 - s.rg R.hdlStatusFwSlot 0)) → s.hdl.queue = [] →
      ∃ t, exec .fwStage s = .next t ∧ t.slotImage (1 - s.rg R.hdlStatusFwSlot 0) = none ∧ t.hdl.req = none ∧
        t.hdl.staging = some (1 - s.rg R.hdlStatusFwSlot 0, parseImage (s.bytes (r.arg 0) (r.arg 1)), r) ∧
        t.mem = s.mem) ∧
    (s.serving 0x10 = some r → s.hdl.staging.isSome = true → exec .fwStage s = .next (s.answer resBusy [])) ∧
    (∀ i, s.serving 0x11 = some r → s.validImage (1 - s.rg R.hdlStatusFwSlot 0) = some i → s.inForce.valid = true →
      s.rg R.hdlFwVersion 0 ≤ i.version → exec .fwActivate s = .next (s.store { CfgChange.none with
        set := [⟨0x22, 1, natLe 1 (1 - s.rg R.hdlStatusFwSlot 0)⟩] })) ∧
    (s.serving 0x12 = some r → s.inForce.numOf 0x20 < s.rg R.hdlFwSvn 0 → exec .fwCommit s =
      .next (s.store { CfgChange.none with set := [⟨0x20, 1, natLe 2 (s.rg R.hdlFwSvn 0)⟩] })) ∧
    (s.serving 0x20 = some r → (r.arg 0 = 0x40 ∨ (r.arg 0 = 0x21 ∧ leNat (r.payload.drop 8) ≤ 1)) →
      (r.payload.drop 8).length = 1 → exec .cfgSet s =
        .next (s.store { CfgChange.none with set := [⟨r.arg 0, 2, r.payload.drop 8⟩] })) ∧
    (s.serving 0x20 = some r → tagWriter (r.arg 0) < 2 → exec .cfgSet s = .next (s.answer resDenied [])) ∧
    (s.serving 0x21 = some r → 1 ≤ r.arg 0 → r.arg 0 ≤ 15 → (r.payload.drop 8).length = 64 → s.keyOf (r.arg 0) = none →
      exec .enrolKey s = .next (s.store { CfgChange.none with
        set := [⟨0x30, 2, (s.inForce.value 0x30).getD [] ++ natLe 1 (r.arg 0) ++ r.payload.drop 8⟩] })) ∧
    (s.serving 0x22 = some r → r.arg 0 < 1024 → 2 ≤ s.healthOf (r.arg 0) → exec .channelRestore s =
      .next (s.store { CfgChange.none with health := [(r.arg 0, 0)] })) ∧
    (∀ (l : List Byte) (c : CfgCopy) (n : Nat) (g : CfgChange), s.serving 0x23 = some r → r.arg 1 ≤ 0x200000 →
      s.GoodAt (r.arg 0) (r.arg 1) → l = s.bytes (r.arg 0) (r.arg 1) →
      bootSigned l (32 + 64 + bits (leNat ((l.drop 32).take 64)) 128 32) = true → parseCopy (l.drop 32) = some (c, n) →
      s.rg R.hdlStatusCause 0 ≠ 2 → l.take 32 = s.devId →
      g = { CfgChange.none with body := some c.recs, seq := max s.hdl.copy0.seq s.hdl.copy1.seq } →
      bodyLen (s.newBody g) ≤ 1048512 →
      ∃ t, exec .cfgImport s = .next t ∧ t.hdl.changes = s.hdl.changes ++ [{ g with answers := true }] ∧ t.mem = s.mem) ∧
    (s.serving 0x24 = some r → 2 ≤ r.path → 1 ≤ r.arg 0 → r.arg 0 ≤ 15 → (s.keyOf (r.arg 0)).isSome = true →
      exec .revokeKey s = .next (s.store { CfgChange.none with set := [⟨0x30, 2,
        ((pieces 65 ((s.inForce.value 0x30).getD [])).filter (fun e => (e.headD 0).toNat != r.arg 0)).flatten⟩] })) ∧
    (s.serving 0x24 = some r → r.path < 2 → exec .revokeKey s = .next (s.answer resDenied []))) ∧
  (∀ (s : State) (slot : Nat) (i : FwImage) (r : HdlReq) (u : State), s.handleUp = true → s.hdl.staging = some (slot, i, r) →
    u = { s with hdl := { s.hdl with staging := none } } →
    (i.ok = true → s.inForce.numOf 0x20 ≤ i.svn →
      exec .fwStageDone s = .next (((u.setSlot slot (some i)).logEntry 3 0 slot 0).respond r resDone [])) ∧
    (i.ok = false → exec .fwStageDone s = .next ((u.logEntry 3 3 slot 0).respond r resSignature []))) ∧
  (∀ (s : State) (c : CfgChange), bodyLen (s.newBody c) ≤ 1048512 →
    s.store c = { s with hdl := { s.hdl with changes := s.hdl.changes ++ [{ c with answers := true }] } }) ∧
  (∀ (s : State) (c : CfgChange) (rest : List CfgChange), s.handleUp = true → s.hdl.changes = c :: rest → c.answers = false →
    ∃ t, exec .configStoreWrite s = .next t ∧ t.inForce = ⟨max s.inForce.seq c.seq + 1, true, s.newBody c⟩ ∧
      t.hdl.changes = rest ∧ t.rb R.hdlStatusCfgCopy 0 = !(s.rb R.hdlStatusCfgCopy 0) ∧
      (s.rb R.hdlStatusCfgCopy 0 = false → t.hdl.copy0 = s.hdl.copy0) ∧
      (s.rb R.hdlStatusCfgCopy 0 = true → t.hdl.copy1 = s.hdl.copy1) ∧ t.mem = s.mem ∧ t.weaves = s.weaves)

/-! ### Sensors, supply, resets and power states -/

/-- A sample of 71 sensors is stored and compared; a level rises at once to the level that its sample reaches, and counts the
samples in a row that stand below its threshold by the hysteresis, after 64 of which it falls by one; from trip it never
falls; a supply excursion raises FLT_SUPPLY once until 64 samples within limits arm it again. -/
def Obligations.SensorsAndSupply : Prop :=
  (∀ (s : State) (l : List Int), s.pwr.off = false → l.length = 71 →
    ∃ t, exec (.sensorSample l) s = .next t ∧
      (∀ k, k < 71 → (k < 66 ∨ 69 ≤ k) → t.rg R.hdlSensorValue k = ofSigned 16 ((l[k]?).getD 0)) ∧
      t.rg R.hdlSensorValue 66 = ofSigned 16 ((l[66]?).getD 0 - 40000) ∧
      (∀ k, k < 71 → t.rg R.hdlSensorLevel k = max (s.rg R.hdlSensorLevel k) (t.reached k)) ∧
      (∀ k, k < 71 → t.reached k ≤ s.rg R.hdlSensorLevel k → smGetD t.hdl.calm k 0 =
        if s.rg R.hdlSensorLevel k ≠ 0 ∧ t.wellBelow k = true then smGetD s.hdl.calm k 0 + 1 else 0) ∧
      t.hdl.calmSupply = (if t.supplyCalm then s.hdl.calmSupply + 1 else 0)) ∧
  (∀ (s : State) (k : Nat) (v : Int), k < 71 → (k < 66 ∨ 69 ≤ k) → -32768 ≤ v → v < 32768 →
    toSigned 16 ((s.putSample k v).rg R.hdlSensorValue k) = v ∧
    ∀ j, j ≠ k → (s.putSample k v).rg R.hdlSensorValue j = s.rg R.hdlSensorValue j) ∧
  (∀ (s : State) (k : Nat), s.rg R.hdlSensorLevel k < s.reached k → s.reached k < 3 →
    (s.riseLevel k).rg R.hdlSensorLevel k = s.reached k ∧ (s.riseLevel k).mem = s.mem) ∧
  (∀ (s : State) (k : Nat), s.reached k ≤ s.rg R.hdlSensorLevel k →
    (s.riseLevel k).regs = s.regs ∧ (s.riseLevel k).out = s.out) ∧
  (∀ (s : State) (k : Nat), k < 71 → 64 ≤ smGetD s.hdl.calm k 0 →
    ((s.rg R.hdlSensorLevel k = 1 ∨ s.rg R.hdlSensorLevel k = 2) →
      ∃ t, exec (.sensorLevelFall k) s = .next t ∧ t.rg R.hdlSensorLevel k = s.rg R.hdlSensorLevel k - 1 ∧
        smGetD t.hdl.calm k 0 = 0 ∧ t.mem = s.mem) ∧
    (s.rg R.hdlSensorLevel k = 3 → exec (.sensorLevelFall k) s = .next s)) ∧
  (∀ (s : State) (mv amps : Nat), s.pwr.off = false → s.pwr.stage = 0 → s.hdl.excursion = false →
    (mv < 35000 ∨ 45000 < mv → exec (.fltSupply mv amps) s = .next ({ s with hdl := { s.hdl with
      excursion := true, calmSupply := 0 } }.raise (FaultInfo.mk0 fltSupply 9 66))) ∧
    (35000 ≤ mv → mv ≤ 45000 → 32000 < amps → exec (.fltSupply mv amps) s = .next ({ s with hdl := { s.hdl with
      excursion := true, calmSupply := 0 } }.raise (FaultInfo.mk0 fltSupply 9 67)))) ∧
  (∀ (s : State), s.hdl.excursion = true → 64 ≤ s.hdl.calmSupply →
    exec .supplyRearm s = .next { s with hdl := { s.hdl with excursion := false } })

/-- A module reset is started by PERST, a hot reset or a function-level reset of the physical function with its cause:
weaves, contexts and jobs are gone, and every field of class M or P reads its reset value.  A cold reset starts
from COLD_RST_N, power-on or a reconnected input: the Round count is 0, Trays and accumulator tiles are empty, memory outside
the host reads 0, and every field but those of class S reads its reset value.  Below 34 V or above 48 V the module is Off.
The exit boots the Handle, trains memory and writes the default set, and the end of the reset shows ready and its cause.
That memory outside the host reads 0 after a cold reset is the model's choice (log entry 26). -/
def Obligations.ResetsClearAndRestart : Prop :=
  (∀ (s : State) (e : Instr × Nat), e ∈ [(Instr.perstAssert, 2), (.hotReset, 3), (.pfFlr, 4)] → s.pwr.off = false →
    s.pwr.stage = 0 → s.rg R.pwrStatusHoldState 0 ≠ 1 → s.rg R.pwrStatusHoldState 0 ≠ 2 →
    ∃ t, exec e.1 s = .next t ∧ t.pwr.stage = 1 ∧ t.pwr.cold = false ∧ t.pwr.cause = e.2 ∧ t.weaves = [] ∧ t.waiting = [] ∧
      t.ctxs = [] ∧ t.stakes = [] ∧ t.lists = [] ∧ t.numVfs = 0 ∧
      (∀ f i, f ∈ allFlds → f.cls = .m ∨ f.cls = .p → f ≠ R.hampChanStateLive → t.rg f i = fieldReset f i)) ∧
  (∀ (s : State) (e : Instr), ((e = .coldRstN ∧ s.pwr.off = false ∧ (s.pwr.cold = false ∨ s.pwr.stage = 0)) ∨
      (e = .powerOn ∧ s.pwr.off = true ∧ s.pwr.cut = false) ∨
      (∃ mv, e = .inputReconnect mv ∧ s.pwr.off = true ∧ s.pwr.cut = true ∧ 36000 ≤ mv ∧ mv ≤ 44000)) →
    ∃ t, exec e s = .next t ∧ t.pwr.off = false ∧ t.pwr.stage = 1 ∧ t.pwr.cold = true ∧ t.round = 0 ∧ t.trays = [] ∧
      t.accs = [] ∧ t.weaves = [] ∧ t.ctxs = [] ∧ t.numVfs = 0 ∧ (∀ a, a < 0x800000000000 → t.byte a = 0) ∧
      (∀ f i, f ∈ allFlds → f.cls ≠ .s → t.rg f i = fieldReset f i)) ∧
  (∀ (s : State) (mv : Nat), s.pwr.off = false → (mv < 34000 ∨ 48000 < mv) →
    ∃ t, exec (.off mv) s = .next t ∧ t.pwr.off = true ∧ t.pwr.cut = decide (48000 < mv) ∧ t.weaves = [] ∧ t.trays = [] ∧
      (∀ f i, f ∈ allFlds → f.cls ≠ .s → t.rg f i = fieldReset f i)) ∧
  (∀ (s u : State) (puf : Bool) (fail : List Nat) (ham : List (Nat × Nat)), s.pwr.off = false → s.pwr.stage = 1 →
    u = { s with pwr := { s.pwr with perst := false, stage := 2 } }.boot puf →
    (u.recovery = true → exec (.moduleResetExit puf fail ham) s = .next u) ∧
    (u.recovery = false → exec (.moduleResetExit puf fail ham) s =
        .next (((u.trainHbm fail).trainHamper ham).writeDefault) ∧
      ∃ t, exec (.moduleResetExit puf fail ham) s = .next t ∧ t.pwr.stage = 2 ∧
        t.rg R.sfuDefaultBaseBase 0 = t.rg R.memHbmEndEnd 0 - 0x100000 ∧ t.imgBase = t.rg R.sfuDefaultBaseBase 0 ∧
        (∀ ch, ch < 1024 → ch ∈ fail → t.rg R.memChanStateState ch = 3))) ∧
  (∀ (s : State), s.pwr.off = false → s.pwr.stage = 2 →
    ∃ t, exec .resetReady s = .next t ∧ t.pwr.stage = 0 ∧ t.rb R.pwrStatusReady 0 = true ∧
      t.rg R.pwrStatusHoldState 0 = 0 ∧ t.rg R.pwrResetCauseCause 0 = s.pwr.cause % 2 ^ R.pwrResetCauseCause.width ∧
      (s.recovery = false → ∀ n, n < 16 → s.rb R.walePortCtrlEnable n = true → t.portState n = 1) ∧ t.mem = s.mem)

/-- The Handle's restart loses its request and its mailbox and holds entries until it is done; a Coil whose Stakes are
free idles, naps where it is unowned and naps are enabled, and leaves Nap with its Stakes zeroed; the module enters
Hold where it is not refused, stands in Hold once the entry is complete, and a wake leaves it through a module reset
with cause HOLD_EXIT. -/
def Obligations.RestartsNapsAndHold : Prop :=
  (∀ (s : State) (e : Instr), s.handleUp = true → s.pwr.stage = 0 →
    (e = .handleWatchdog ∨ ∃ v, e = .handleRestart v 0 ∧ bit v 2 = true ∧ s.barOpen 0x1000000 = true) →
    ∃ t, exec e s = .next t ∧ t.hdl.restarting = true ∧ t.hdl.req = none ∧ t.hdl.queue = [] ∧ t.hdl.mailbox = [] ∧
      t.hdl.log = s.hdl.log ∧ t.hdl.held.length = 1 ∧
      t.rg R.hdlStatusRestarts 0 = satAdd R.hdlStatusRestarts.width (s.rg R.hdlStatusRestarts 0) 1 ∧
      t.mem = s.mem ∧ t.weaves = s.weaves ∧ t.ctxs = s.ctxs) ∧
  (∀ (s : State), s.hdl.restarting = true → (s.hdl.log ++ s.hdl.held).length ≤ 65536 →
    ∃ t, exec .handleRestartDone s = .next t ∧ t.hdl.restarting = false ∧ t.hdl.held = [] ∧
      t.hdl.log = s.hdl.log ++ s.hdl.held ∧ t.regs = s.regs ∧ t.mem = s.mem) ∧
  (∀ (s : State) (c : Nat), c < 16 → s.rb R.pwrStatusReady 0 = true → s.rg R.pwrStatusHoldState 0 = 0 → s.recovery = false →
    s.coilFree c = true → s.napping c = false →
    exec (.idleEntry c) s = .next (s.rset R.pwrStatusIdle 0 (putBits (s.rg R.pwrStatusIdle 0) c 1 1)) ∧
    (s.rb R.pwrCfgNapEn 0 = true → s.coilOwned c = false →
      ∃ t, exec (.napEntry c) s = .next t ∧ t.napping c = true ∧
        (∀ st, 96 * c ≤ st → st < 96 * c + 96 → t.rg R.stakeStatusState st = 2) ∧
        (∀ st, ¬ (96 * c ≤ st ∧ st < 96 * c + 96) → t.rg R.stakeStatusState st = s.rg R.stakeStatusState st) ∧ t.mem = s.mem)) ∧
  (∀ (s : State) (c : Nat), c < 16 → c ∈ s.pwr.leaving →
    ∃ t, exec (.napExitDone c) s = .next t ∧ t.napping c = false ∧ c ∉ t.pwr.leaving ∧
      (∀ st o, 96 * c ≤ st → st < 96 * c + 96 → o < trayBytes → t.tray st o = 0) ∧
      (∀ st, 96 * c ≤ st → st < 96 * c + 96 → t.rg R.stakeStatusState st = 0) ∧ t.mem = s.mem) ∧
  (∀ (s : State) (v : Nat), s.barOpen 0x1000000 = true → s.rg R.pwrStatusHoldState 0 = 0 → s.pwr.stage = 0 → bit v 0 = true →
    (s.holdRefused = false → ∃ t, exec (.hold v 0) s = .next t ∧ t.rg R.pwrStatusHoldState 0 = 1 ∧ t.weaves = [] ∧
      t.ctxs = [] ∧ t.stakes = []) ∧
    (s.holdRefused = true → exec (.hold v 0) s = .next (s.rset R.pwrStatusHoldRefused 0 1))) ∧
  (∀ (s : State) (r : Nat), s.hdl.tripAt = some r → s.pwr.off = false → s.pwr.stage = 0 → s.rg R.pwrStatusHoldState 0 = 0 →
    ∃ t, exec .tripHold s = .next t ∧ t.rg R.pwrStatusHoldState 0 = 1 ∧ t.weaves = [] ∧ t.ctxs = []) ∧
  (∀ (s : State), s.rg R.pwrStatusHoldState 0 = 1 → s.pwr.wake = false →
    ∃ t, exec .holdEntered s = .next t ∧ t.rg R.pwrStatusHoldState 0 = 2 ∧
      t.rg R.pwrHoldEntriesCount 0 = satAdd R.pwrHoldEntriesCount.width (s.rg R.pwrHoldEntriesCount 0) 1 ∧ t.mem = s.mem) ∧
  (∀ (s : State) (v : Nat), bit v 1 = true → s.barOpen 0x1000000 = true → s.tripped = false →
    (s.rg R.pwrStatusHoldState 0 = 2 → ∃ t, exec (.wake v 0) s = .next t ∧ t.rg R.pwrStatusHoldState 0 = 3 ∧
      t.pwr.stage = 1 ∧ t.pwr.cause = 5) ∧
    (s.rg R.pwrStatusHoldState 0 = 1 → exec (.wake v 0) s = .next { s with pwr := { s.pwr with wake := true } }))
end

