-- ==== Sys2Proof/Laws/Map.lean ====
section
/-!
SUPPORT. What reading a sparse map gives after each of its updates, and that the updates keep the keys
rising.
-/

namespace Sys2Proof.Machine

variable {α : Type}

theorem smGet_smSet_same (m : SMap α) (k : Nat) (v : α) : smGet (smSet m k v) k = some v := by
  induction m with
  | nil => simp [smSet, smGet]
  | cons e m ih =>
    obtain ⟨a, w⟩ := e
    unfold smSet
    split
    · simp [smGet]
    · split
      · simp [smGet]
      · rename_i h1 h2
        simp [smGet, ih, Ne.symm h2]

theorem smGet_smSet_ne (m : SMap α) {k j : Nat} (v : α) (h : k ≠ j) : smGet (smSet m k v) j = smGet m j := by
  induction m with
  | nil => simp [smSet, smGet, h]
  | cons e m ih =>
    obtain ⟨a, w⟩ := e
    unfold smSet
    split
    · simp [smGet, h]
    · split
      · rename_i h1 h2
        subst h2
        simp [smGet, h]
      · by_cases ha : a = j <;> simp [smGet, ih, ha]

theorem smGet_smErase_same (m : SMap α) (k : Nat) : smGet (smErase m k) k = none := by
  induction m with
  | nil => rfl
  | cons e m ih =>
    obtain ⟨a, w⟩ := e
    by_cases ha : a = k <;> simp [smErase, smGet, ih, ha]

theorem smGet_smErase_ne (m : SMap α) {k j : Nat} (h : k ≠ j) : smGet (smErase m k) j = smGet m j := by
  induction m with
  | nil => rfl
  | cons e m ih =>
    obtain ⟨a, w⟩ := e
    by_cases ha : a = k
    · subst ha
      simp [smErase, smGet, ih, h]
    · rw [show smErase ((a, w) :: m) k = (a, w) :: smErase m k from by simp [smErase, ha]]
      simp [smGet, ih]

theorem smGetD_smPut_same [DecidableEq α] (d : α) (m : SMap α) (k : Nat) (v : α) :
    smGetD (smPut d m k v) k d = v := by
  unfold smPut smGetD
  split
  · rename_i h
    simp [smGet_smErase_same, h]
  · simp [smGet_smSet_same]

theorem smGetD_smPut_ne [DecidableEq α] (d e : α) (m : SMap α) {k j : Nat} (v : α) (h : k ≠ j) :
    smGetD (smPut d m k v) j e = smGetD m j e := by
  unfold smPut smGetD
  split
  · rw [smGet_smErase_ne m h]
  · rw [smGet_smSet_ne m v h]

/-! ### Rising keys -/

theorem smAbove_mono {b c : Nat} {m : SMap α} (h : smAbove c m = true) (hb : b ≤ c) : smAbove b m = true := by
  cases m with
  | nil => rfl
  | cons e m =>
    obtain ⟨a, w⟩ := e
    simp [smAbove] at *
    exact ⟨by omega, h.2⟩

theorem smAbove_smSet {b k : Nat} {m : SMap α} (v : α) (h : smAbove b m = true) (hb : b < k) :
    smAbove b (smSet m k v) = true := by
  induction m generalizing b with
  | nil => simp [smSet, smAbove, hb]
  | cons e m ih =>
    obtain ⟨a, w⟩ := e
    simp [smAbove] at h
    unfold smSet
    split
    · rename_i hk
      simp [smAbove, hb, hk, h.2]
    · split
      · rename_i hk
        subst hk
        simp [smAbove, hb, h.2]
      · rename_i h1 h2
        simp [smAbove, h.1]
        exact ih h.2 (by omega)

theorem smWf_smSet {m : SMap α} (k : Nat) (v : α) (h : smWf m = true) : smWf (smSet m k v) = true := by
  cases m with
  | nil => rfl
  | cons e m =>
    obtain ⟨a, w⟩ := e
    simp [smWf] at h
    unfold smSet
    split
    · rename_i hk
      simp [smWf, smAbove, hk, h]
    · split
      · rename_i hk
        subst hk
        simpa [smWf] using h
      · rename_i h1 h2
        simp [smWf]
        exact smAbove_smSet v h (by omega)

theorem smAbove_filter {b : Nat} {m : SMap α} (p : Nat × α → Bool) (h : smAbove b m = true) :
    smAbove b (m.filter p) = true := by
  induction m generalizing b with
  | nil => rfl
  | cons e m ih =>
    obtain ⟨a, w⟩ := e
    simp [smAbove] at h
    rw [List.filter_cons]
    split
    · simp [smAbove, h.1, ih h.2]
    · exact ih (smAbove_mono h.2 (by omega))

theorem smWf_filter {m : SMap α} (p : Nat × α → Bool) (h : smWf m = true) : smWf (m.filter p) = true := by
  induction m with
  | nil => rfl
  | cons e m ih =>
    obtain ⟨a, w⟩ := e
    simp [smWf] at h
    rw [List.filter_cons]
    split
    · simp [smWf, smAbove_filter p h]
    · apply ih
      cases m with
      | nil => rfl
      | cons f m =>
        obtain ⟨c, x⟩ := f
        simp [smAbove] at h
        simpa [smWf] using h.2

theorem smErase_eq_filter (m : SMap α) (k : Nat) : smErase m k = m.filter (fun e => !(e.1 == k)) := by
  induction m with
  | nil => rfl
  | cons e m ih =>
    obtain ⟨a, w⟩ := e
    by_cases ha : a = k <;> simp [smErase, ih, ha]

theorem smWf_smErase {m : SMap α} (k : Nat) (h : smWf m = true) : smWf (smErase m k) = true := by
  rw [smErase_eq_filter]
  exact smWf_filter _ h

theorem smWf_smPut [DecidableEq α] {m : SMap α} (d : α) (k : Nat) (v : α) (h : smWf m = true) :
    smWf (smPut d m k v) = true := by
  unfold smPut
  split
  · exact smWf_smErase k h
  · exact smWf_smSet k v h

theorem mem_smSet {m : SMap α} {k : Nat} {v : α} {e : Nat × α} (h : e ∈ smSet m k v) : e = (k, v) ∨ e ∈ m := by
  induction m with
  | nil => simpa [smSet] using h
  | cons f m ih =>
    obtain ⟨a, w⟩ := f
    unfold smSet at h
    split at h
    · simp at h
      rcases h with h | h | h
      · exact .inl h
      · exact .inr (by simp [h])
      · exact .inr (by simp [h])
    · split at h
      · simp at h
        rcases h with h | h
        · exact .inl h
        · exact .inr (by simp [h])
      · simp at h
        rcases h with h | h
        · exact .inr (by simp [h])
        · rcases ih h with h | h
          · exact .inl h
          · exact .inr (by simp [h])

/-- An entry after `smPut` is the new one, which is not the default, or an old one. -/
theorem mem_smPut [DecidableEq α] {d : α} {m : SMap α} {k : Nat} {v : α} {e : Nat × α} (h : e ∈ smPut d m k v) :
    (e = (k, v) ∧ v ≠ d) ∨ e ∈ m := by
  unfold smPut at h
  split at h
  · rw [smErase_eq_filter] at h
    exact .inr (List.mem_filter.mp h).1
  · rename_i hv
    rcases mem_smSet h with h | h
    · exact .inl ⟨h, hv⟩
    · exact .inr h

end Sys2Proof.Machine
end

