-- ==== Sys2Proof/Laws/State.lean ====
section
/-!
SUPPORT. What each elementary update leaves of each field of the state, and what it makes of the field
that it sets.  All hold by definition.
-/

namespace Sys2Proof.Machine

/-! ### rset -/

@[simp] theorem State.rset_latch (s : State) (f : Fld) (i v : Nat) : (s.rset f i v).latch = s.latch := rfl
@[simp] theorem State.rset_staged (s : State) (f : Fld) (i v : Nat) : (s.rset f i v).staged = s.staged := rfl
@[simp] theorem State.rset_mem (s : State) (f : Fld) (i v : Nat) : (s.rset f i v).mem = s.mem := rfl
@[simp] theorem State.rset_imgBase (s : State) (f : Fld) (i v : Nat) : (s.rset f i v).imgBase = s.imgBase := rfl
@[simp] theorem State.rset_trays (s : State) (f : Fld) (i v : Nat) : (s.rset f i v).trays = s.trays := rfl
@[simp] theorem State.rset_accs (s : State) (f : Fld) (i v : Nat) : (s.rset f i v).accs = s.accs := rfl
@[simp] theorem State.rset_satFlags (s : State) (f : Fld) (i v : Nat) : (s.rset f i v).satFlags = s.satFlags := rfl
@[simp] theorem State.rset_rnd (s : State) (f : Fld) (i v : Nat) : (s.rset f i v).rnd = s.rnd := rfl
@[simp] theorem State.rset_wtab (s : State) (f : Fld) (i v : Nat) : (s.rset f i v).wtab = s.wtab := rfl
@[simp] theorem State.rset_polls (s : State) (f : Fld) (i v : Nat) : (s.rset f i v).polls = s.polls := rfl
@[simp] theorem State.rset_budget (s : State) (f : Fld) (i v : Nat) : (s.rset f i v).budget = s.budget := rfl
@[simp] theorem State.rset_rings (s : State) (f : Fld) (i v : Nat) : (s.rset f i v).rings = s.rings := rfl
@[simp] theorem State.rset_ctxs (s : State) (f : Fld) (i v : Nat) : (s.rset f i v).ctxs = s.ctxs := rfl
@[simp] theorem State.rset_waiting (s : State) (f : Fld) (i v : Nat) : (s.rset f i v).waiting = s.waiting := rfl
@[simp] theorem State.rset_weaves (s : State) (f : Fld) (i v : Nat) : (s.rset f i v).weaves = s.weaves := rfl
@[simp] theorem State.rset_nextWeave (s : State) (f : Fld) (i v : Nat) : (s.rset f i v).nextWeave = s.nextWeave := rfl
@[simp] theorem State.rset_stakes (s : State) (f : Fld) (i v : Nat) : (s.rset f i v).stakes = s.stakes := rfl
@[simp] theorem State.rset_parts (s : State) (f : Fld) (i v : Nat) : (s.rset f i v).parts = s.parts := rfl
@[simp] theorem State.rset_lists (s : State) (f : Fld) (i v : Nat) : (s.rset f i v).lists = s.lists := rfl
@[simp] theorem State.rset_ms (s : State) (f : Fld) (i v : Nat) : (s.rset f i v).ms = s.ms := rfl
@[simp] theorem State.rset_flt (s : State) (f : Fld) (i v : Nat) : (s.rset f i v).flt = s.flt := rfl
@[simp] theorem State.rset_sfu (s : State) (f : Fld) (i v : Nat) : (s.rset f i v).sfu = s.sfu := rfl
@[simp] theorem State.rset_plait (s : State) (f : Fld) (i v : Nat) : (s.rset f i v).plait = s.plait := rfl
@[simp] theorem State.rset_wale (s : State) (f : Fld) (i v : Nat) : (s.rset f i v).wale = s.wale := rfl
@[simp] theorem State.rset_coll (s : State) (f : Fld) (i v : Nat) : (s.rset f i v).coll = s.coll := rfl
@[simp] theorem State.rset_vid (s : State) (f : Fld) (i v : Nat) : (s.rset f i v).vid = s.vid := rfl
@[simp] theorem State.rset_hdl (s : State) (f : Fld) (i v : Nat) : (s.rset f i v).hdl = s.hdl := rfl
@[simp] theorem State.rset_pwr (s : State) (f : Fld) (i v : Nat) : (s.rset f i v).pwr = s.pwr := rfl
@[simp] theorem State.rset_out (s : State) (f : Fld) (i v : Nat) : (s.rset f i v).out = s.out := rfl
@[simp] theorem State.rset_numVfs (s : State) (f : Fld) (i v : Nat) : (s.rset f i v).numVfs = s.numVfs := rfl
@[simp] theorem State.rset_free (s : State) (f : Fld) (i v : Nat) : (s.rset f i v).free = s.free := rfl
@[simp] theorem State.rset_pending (s : State) (f : Fld) (i v : Nat) : (s.rset f i v).pending = s.pending := rfl
@[simp] theorem State.rset_byte (s : State) (f : Fld) (i v : Nat) (g : Nat) : (s.rset f i v).byte g = s.byte g := rfl

/-! ### radd -/

@[simp] theorem State.radd_latch (s : State) (f : Fld) (i v : Nat) : (s.radd f i v).latch = s.latch := rfl
@[simp] theorem State.radd_staged (s : State) (f : Fld) (i v : Nat) : (s.radd f i v).staged = s.staged := rfl
@[simp] theorem State.radd_mem (s : State) (f : Fld) (i v : Nat) : (s.radd f i v).mem = s.mem := rfl
@[simp] theorem State.radd_imgBase (s : State) (f : Fld) (i v : Nat) : (s.radd f i v).imgBase = s.imgBase := rfl
@[simp] theorem State.radd_trays (s : State) (f : Fld) (i v : Nat) : (s.radd f i v).trays = s.trays := rfl
@[simp] theorem State.radd_accs (s : State) (f : Fld) (i v : Nat) : (s.radd f i v).accs = s.accs := rfl
@[simp] theorem State.radd_satFlags (s : State) (f : Fld) (i v : Nat) : (s.radd f i v).satFlags = s.satFlags := rfl
@[simp] theorem State.radd_rnd (s : State) (f : Fld) (i v : Nat) : (s.radd f i v).rnd = s.rnd := rfl
@[simp] theorem State.radd_wtab (s : State) (f : Fld) (i v : Nat) : (s.radd f i v).wtab = s.wtab := rfl
@[simp] theorem State.radd_polls (s : State) (f : Fld) (i v : Nat) : (s.radd f i v).polls = s.polls := rfl
@[simp] theorem State.radd_budget (s : State) (f : Fld) (i v : Nat) : (s.radd f i v).budget = s.budget := rfl
@[simp] theorem State.radd_rings (s : State) (f : Fld) (i v : Nat) : (s.radd f i v).rings = s.rings := rfl
@[simp] theorem State.radd_ctxs (s : State) (f : Fld) (i v : Nat) : (s.radd f i v).ctxs = s.ctxs := rfl
@[simp] theorem State.radd_waiting (s : State) (f : Fld) (i v : Nat) : (s.radd f i v).waiting = s.waiting := rfl
@[simp] theorem State.radd_weaves (s : State) (f : Fld) (i v : Nat) : (s.radd f i v).weaves = s.weaves := rfl
@[simp] theorem State.radd_nextWeave (s : State) (f : Fld) (i v : Nat) : (s.radd f i v).nextWeave = s.nextWeave := rfl
@[simp] theorem State.radd_stakes (s : State) (f : Fld) (i v : Nat) : (s.radd f i v).stakes = s.stakes := rfl
@[simp] theorem State.radd_parts (s : State) (f : Fld) (i v : Nat) : (s.radd f i v).parts = s.parts := rfl
@[simp] theorem State.radd_lists (s : State) (f : Fld) (i v : Nat) : (s.radd f i v).lists = s.lists := rfl
@[simp] theorem State.radd_ms (s : State) (f : Fld) (i v : Nat) : (s.radd f i v).ms = s.ms := rfl
@[simp] theorem State.radd_flt (s : State) (f : Fld) (i v : Nat) : (s.radd f i v).flt = s.flt := rfl
@[simp] theorem State.radd_sfu (s : State) (f : Fld) (i v : Nat) : (s.radd f i v).sfu = s.sfu := rfl
@[simp] theorem State.radd_plait (s : State) (f : Fld) (i v : Nat) : (s.radd f i v).plait = s.plait := rfl
@[simp] theorem State.radd_wale (s : State) (f : Fld) (i v : Nat) : (s.radd f i v).wale = s.wale := rfl
@[simp] theorem State.radd_coll (s : State) (f : Fld) (i v : Nat) : (s.radd f i v).coll = s.coll := rfl
@[simp] theorem State.radd_vid (s : State) (f : Fld) (i v : Nat) : (s.radd f i v).vid = s.vid := rfl
@[simp] theorem State.radd_hdl (s : State) (f : Fld) (i v : Nat) : (s.radd f i v).hdl = s.hdl := rfl
@[simp] theorem State.radd_pwr (s : State) (f : Fld) (i v : Nat) : (s.radd f i v).pwr = s.pwr := rfl
@[simp] theorem State.radd_out (s : State) (f : Fld) (i v : Nat) : (s.radd f i v).out = s.out := rfl
@[simp] theorem State.radd_numVfs (s : State) (f : Fld) (i v : Nat) : (s.radd f i v).numVfs = s.numVfs := rfl
@[simp] theorem State.radd_free (s : State) (f : Fld) (i v : Nat) : (s.radd f i v).free = s.free := rfl
@[simp] theorem State.radd_pending (s : State) (f : Fld) (i v : Nat) : (s.radd f i v).pending = s.pending := rfl
@[simp] theorem State.radd_byte (s : State) (f : Fld) (i v : Nat) (g : Nat) : (s.radd f i v).byte g = s.byte g := rfl

/-! ### rsat -/

@[simp] theorem State.rsat_latch (s : State) (f : Fld) (i v : Nat) : (s.rsat f i v).latch = s.latch := rfl
@[simp] theorem State.rsat_staged (s : State) (f : Fld) (i v : Nat) : (s.rsat f i v).staged = s.staged := rfl
@[simp] theorem State.rsat_mem (s : State) (f : Fld) (i v : Nat) : (s.rsat f i v).mem = s.mem := rfl
@[simp] theorem State.rsat_imgBase (s : State) (f : Fld) (i v : Nat) : (s.rsat f i v).imgBase = s.imgBase := rfl
@[simp] theorem State.rsat_trays (s : State) (f : Fld) (i v : Nat) : (s.rsat f i v).trays = s.trays := rfl
@[simp] theorem State.rsat_accs (s : State) (f : Fld) (i v : Nat) : (s.rsat f i v).accs = s.accs := rfl
@[simp] theorem State.rsat_satFlags (s : State) (f : Fld) (i v : Nat) : (s.rsat f i v).satFlags = s.satFlags := rfl
@[simp] theorem State.rsat_rnd (s : State) (f : Fld) (i v : Nat) : (s.rsat f i v).rnd = s.rnd := rfl
@[simp] theorem State.rsat_wtab (s : State) (f : Fld) (i v : Nat) : (s.rsat f i v).wtab = s.wtab := rfl
@[simp] theorem State.rsat_polls (s : State) (f : Fld) (i v : Nat) : (s.rsat f i v).polls = s.polls := rfl
@[simp] theorem State.rsat_budget (s : State) (f : Fld) (i v : Nat) : (s.rsat f i v).budget = s.budget := rfl
@[simp] theorem State.rsat_rings (s : State) (f : Fld) (i v : Nat) : (s.rsat f i v).rings = s.rings := rfl
@[simp] theorem State.rsat_ctxs (s : State) (f : Fld) (i v : Nat) : (s.rsat f i v).ctxs = s.ctxs := rfl
@[simp] theorem State.rsat_waiting (s : State) (f : Fld) (i v : Nat) : (s.rsat f i v).waiting = s.waiting := rfl
@[simp] theorem State.rsat_weaves (s : State) (f : Fld) (i v : Nat) : (s.rsat f i v).weaves = s.weaves := rfl
@[simp] theorem State.rsat_nextWeave (s : State) (f : Fld) (i v : Nat) : (s.rsat f i v).nextWeave = s.nextWeave := rfl
@[simp] theorem State.rsat_stakes (s : State) (f : Fld) (i v : Nat) : (s.rsat f i v).stakes = s.stakes := rfl
@[simp] theorem State.rsat_parts (s : State) (f : Fld) (i v : Nat) : (s.rsat f i v).parts = s.parts := rfl
@[simp] theorem State.rsat_lists (s : State) (f : Fld) (i v : Nat) : (s.rsat f i v).lists = s.lists := rfl
@[simp] theorem State.rsat_ms (s : State) (f : Fld) (i v : Nat) : (s.rsat f i v).ms = s.ms := rfl
@[simp] theorem State.rsat_flt (s : State) (f : Fld) (i v : Nat) : (s.rsat f i v).flt = s.flt := rfl
@[simp] theorem State.rsat_sfu (s : State) (f : Fld) (i v : Nat) : (s.rsat f i v).sfu = s.sfu := rfl
@[simp] theorem State.rsat_plait (s : State) (f : Fld) (i v : Nat) : (s.rsat f i v).plait = s.plait := rfl
@[simp] theorem State.rsat_wale (s : State) (f : Fld) (i v : Nat) : (s.rsat f i v).wale = s.wale := rfl
@[simp] theorem State.rsat_coll (s : State) (f : Fld) (i v : Nat) : (s.rsat f i v).coll = s.coll := rfl
@[simp] theorem State.rsat_vid (s : State) (f : Fld) (i v : Nat) : (s.rsat f i v).vid = s.vid := rfl
@[simp] theorem State.rsat_hdl (s : State) (f : Fld) (i v : Nat) : (s.rsat f i v).hdl = s.hdl := rfl
@[simp] theorem State.rsat_pwr (s : State) (f : Fld) (i v : Nat) : (s.rsat f i v).pwr = s.pwr := rfl
@[simp] theorem State.rsat_out (s : State) (f : Fld) (i v : Nat) : (s.rsat f i v).out = s.out := rfl
@[simp] theorem State.rsat_numVfs (s : State) (f : Fld) (i v : Nat) : (s.rsat f i v).numVfs = s.numVfs := rfl
@[simp] theorem State.rsat_free (s : State) (f : Fld) (i v : Nat) : (s.rsat f i v).free = s.free := rfl
@[simp] theorem State.rsat_pending (s : State) (f : Fld) (i v : Nat) : (s.rsat f i v).pending = s.pending := rfl
@[simp] theorem State.rsat_byte (s : State) (f : Fld) (i v : Nat) (g : Nat) : (s.rsat f i v).byte g = s.byte g := rfl

/-! ### emit -/

@[simp] theorem State.emit_regs (s : State) (o : Output) : (s.emit o).regs = s.regs := rfl
@[simp] theorem State.emit_latch (s : State) (o : Output) : (s.emit o).latch = s.latch := rfl
@[simp] theorem State.emit_staged (s : State) (o : Output) : (s.emit o).staged = s.staged := rfl
@[simp] theorem State.emit_mem (s : State) (o : Output) : (s.emit o).mem = s.mem := rfl
@[simp] theorem State.emit_imgBase (s : State) (o : Output) : (s.emit o).imgBase = s.imgBase := rfl
@[simp] theorem State.emit_trays (s : State) (o : Output) : (s.emit o).trays = s.trays := rfl
@[simp] theorem State.emit_accs (s : State) (o : Output) : (s.emit o).accs = s.accs := rfl
@[simp] theorem State.emit_satFlags (s : State) (o : Output) : (s.emit o).satFlags = s.satFlags := rfl
@[simp] theorem State.emit_rnd (s : State) (o : Output) : (s.emit o).rnd = s.rnd := rfl
@[simp] theorem State.emit_wtab (s : State) (o : Output) : (s.emit o).wtab = s.wtab := rfl
@[simp] theorem State.emit_polls (s : State) (o : Output) : (s.emit o).polls = s.polls := rfl
@[simp] theorem State.emit_budget (s : State) (o : Output) : (s.emit o).budget = s.budget := rfl
@[simp] theorem State.emit_rings (s : State) (o : Output) : (s.emit o).rings = s.rings := rfl
@[simp] theorem State.emit_ctxs (s : State) (o : Output) : (s.emit o).ctxs = s.ctxs := rfl
@[simp] theorem State.emit_waiting (s : State) (o : Output) : (s.emit o).waiting = s.waiting := rfl
@[simp] theorem State.emit_weaves (s : State) (o : Output) : (s.emit o).weaves = s.weaves := rfl
@[simp] theorem State.emit_nextWeave (s : State) (o : Output) : (s.emit o).nextWeave = s.nextWeave := rfl
@[simp] theorem State.emit_stakes (s : State) (o : Output) : (s.emit o).stakes = s.stakes := rfl
@[simp] theorem State.emit_parts (s : State) (o : Output) : (s.emit o).parts = s.parts := rfl
@[simp] theorem State.emit_lists (s : State) (o : Output) : (s.emit o).lists = s.lists := rfl
@[simp] theorem State.emit_ms (s : State) (o : Output) : (s.emit o).ms = s.ms := rfl
@[simp] theorem State.emit_flt (s : State) (o : Output) : (s.emit o).flt = s.flt := rfl
@[simp] theorem State.emit_sfu (s : State) (o : Output) : (s.emit o).sfu = s.sfu := rfl
@[simp] theorem State.emit_plait (s : State) (o : Output) : (s.emit o).plait = s.plait := rfl
@[simp] theorem State.emit_wale (s : State) (o : Output) : (s.emit o).wale = s.wale := rfl
@[simp] theorem State.emit_coll (s : State) (o : Output) : (s.emit o).coll = s.coll := rfl
@[simp] theorem State.emit_vid (s : State) (o : Output) : (s.emit o).vid = s.vid := rfl
@[simp] theorem State.emit_hdl (s : State) (o : Output) : (s.emit o).hdl = s.hdl := rfl
@[simp] theorem State.emit_pwr (s : State) (o : Output) : (s.emit o).pwr = s.pwr := rfl
@[simp] theorem State.emit_numVfs (s : State) (o : Output) : (s.emit o).numVfs = s.numVfs := rfl
@[simp] theorem State.emit_free (s : State) (o : Output) : (s.emit o).free = s.free := rfl
@[simp] theorem State.emit_pending (s : State) (o : Output) : (s.emit o).pending = s.pending := rfl
@[simp] theorem State.emit_rg (s : State) (o : Output) (g : Fld) (q : Nat) : (s.emit o).rg g q = s.rg g q := rfl
@[simp] theorem State.emit_rb (s : State) (o : Output) (g : Fld) (q : Nat) : (s.emit o).rb g q = s.rb g q := rfl
@[simp] theorem State.emit_byte (s : State) (o : Output) (g : Nat) : (s.emit o).byte g = s.byte g := rfl

/-! ### setByte -/

@[simp] theorem State.setByte_regs (s : State) (a : Nat) (b : Byte) : (s.setByte a b).regs = s.regs := rfl
@[simp] theorem State.setByte_latch (s : State) (a : Nat) (b : Byte) : (s.setByte a b).latch = s.latch := rfl
@[simp] theorem State.setByte_staged (s : State) (a : Nat) (b : Byte) : (s.setByte a b).staged = s.staged := rfl
@[simp] theorem State.setByte_imgBase (s : State) (a : Nat) (b : Byte) : (s.setByte a b).imgBase = s.imgBase := rfl
@[simp] theorem State.setByte_trays (s : State) (a : Nat) (b : Byte) : (s.setByte a b).trays = s.trays := rfl
@[simp] theorem State.setByte_accs (s : State) (a : Nat) (b : Byte) : (s.setByte a b).accs = s.accs := rfl
@[simp] theorem State.setByte_satFlags (s : State) (a : Nat) (b : Byte) : (s.setByte a b).satFlags = s.satFlags := rfl
@[simp] theorem State.setByte_rnd (s : State) (a : Nat) (b : Byte) : (s.setByte a b).rnd = s.rnd := rfl
@[simp] theorem State.setByte_wtab (s : State) (a : Nat) (b : Byte) : (s.setByte a b).wtab = s.wtab := rfl
@[simp] theorem State.setByte_polls (s : State) (a : Nat) (b : Byte) : (s.setByte a b).polls = s.polls := rfl
@[simp] theorem State.setByte_budget (s : State) (a : Nat) (b : Byte) : (s.setByte a b).budget = s.budget := rfl
@[simp] theorem State.setByte_rings (s : State) (a : Nat) (b : Byte) : (s.setByte a b).rings = s.rings := rfl
@[simp] theorem State.setByte_ctxs (s : State) (a : Nat) (b : Byte) : (s.setByte a b).ctxs = s.ctxs := rfl
@[simp] theorem State.setByte_waiting (s : State) (a : Nat) (b : Byte) : (s.setByte a b).waiting = s.waiting := rfl
@[simp] theorem State.setByte_weaves (s : State) (a : Nat) (b : Byte) : (s.setByte a b).weaves = s.weaves := rfl
@[simp] theorem State.setByte_nextWeave (s : State) (a : Nat) (b : Byte) : (s.setByte a b).nextWeave = s.nextWeave := rfl
@[simp] theorem State.setByte_stakes (s : State) (a : Nat) (b : Byte) : (s.setByte a b).stakes = s.stakes := rfl
@[simp] theorem State.setByte_parts (s : State) (a : Nat) (b : Byte) : (s.setByte a b).parts = s.parts := rfl
@[simp] theorem State.setByte_lists (s : State) (a : Nat) (b : Byte) : (s.setByte a b).lists = s.lists := rfl
@[simp] theorem State.setByte_ms (s : State) (a : Nat) (b : Byte) : (s.setByte a b).ms = s.ms := rfl
@[simp] theorem State.setByte_flt (s : State) (a : Nat) (b : Byte) : (s.setByte a b).flt = s.flt := rfl
@[simp] theorem State.setByte_sfu (s : State) (a : Nat) (b : Byte) : (s.setByte a b).sfu = s.sfu := rfl
@[simp] theorem State.setByte_plait (s : State) (a : Nat) (b : Byte) : (s.setByte a b).plait = s.plait := rfl
@[simp] theorem State.setByte_wale (s : State) (a : Nat) (b : Byte) : (s.setByte a b).wale = s.wale := rfl
@[simp] theorem State.setByte_coll (s : State) (a : Nat) (b : Byte) : (s.setByte a b).coll = s.coll := rfl
@[simp] theorem State.setByte_vid (s : State) (a : Nat) (b : Byte) : (s.setByte a b).vid = s.vid := rfl
@[simp] theorem State.setByte_hdl (s : State) (a : Nat) (b : Byte) : (s.setByte a b).hdl = s.hdl := rfl
@[simp] theorem State.setByte_pwr (s : State) (a : Nat) (b : Byte) : (s.setByte a b).pwr = s.pwr := rfl
@[simp] theorem State.setByte_out (s : State) (a : Nat) (b : Byte) : (s.setByte a b).out = s.out := rfl
@[simp] theorem State.setByte_numVfs (s : State) (a : Nat) (b : Byte) : (s.setByte a b).numVfs = s.numVfs := rfl
@[simp] theorem State.setByte_free (s : State) (a : Nat) (b : Byte) : (s.setByte a b).free = s.free := rfl
@[simp] theorem State.setByte_pending (s : State) (a : Nat) (b : Byte) : (s.setByte a b).pending = s.pending := rfl
@[simp] theorem State.setByte_rg (s : State) (a : Nat) (b : Byte) (g : Fld) (q : Nat) : (s.setByte a b).rg g q = s.rg g q := rfl
@[simp] theorem State.setByte_rb (s : State) (a : Nat) (b : Byte) (g : Fld) (q : Nat) : (s.setByte a b).rb g q = s.rb g q := rfl

/-! ### setTray -/

@[simp] theorem State.setTray_regs (s : State) (st o : Nat) (b : Byte) : (s.setTray st o b).regs = s.regs := rfl
@[simp] theorem State.setTray_latch (s : State) (st o : Nat) (b : Byte) : (s.setTray st o b).latch = s.latch := rfl
@[simp] theorem State.setTray_staged (s : State) (st o : Nat) (b : Byte) : (s.setTray st o b).staged = s.staged := rfl
@[simp] theorem State.setTray_mem (s : State) (st o : Nat) (b : Byte) : (s.setTray st o b).mem = s.mem := rfl
@[simp] theorem State.setTray_imgBase (s : State) (st o : Nat) (b : Byte) : (s.setTray st o b).imgBase = s.imgBase := rfl
@[simp] theorem State.setTray_accs (s : State) (st o : Nat) (b : Byte) : (s.setTray st o b).accs = s.accs := rfl
@[simp] theorem State.setTray_satFlags (s : State) (st o : Nat) (b : Byte) : (s.setTray st o b).satFlags = s.satFlags := rfl
@[simp] theorem State.setTray_rnd (s : State) (st o : Nat) (b : Byte) : (s.setTray st o b).rnd = s.rnd := rfl
@[simp] theorem State.setTray_wtab (s : State) (st o : Nat) (b : Byte) : (s.setTray st o b).wtab = s.wtab := rfl
@[simp] theorem State.setTray_polls (s : State) (st o : Nat) (b : Byte) : (s.setTray st o b).polls = s.polls := rfl
@[simp] theorem State.setTray_budget (s : State) (st o : Nat) (b : Byte) : (s.setTray st o b).budget = s.budget := rfl
@[simp] theorem State.setTray_rings (s : State) (st o : Nat) (b : Byte) : (s.setTray st o b).rings = s.rings := rfl
@[simp] theorem State.setTray_ctxs (s : State) (st o : Nat) (b : Byte) : (s.setTray st o b).ctxs = s.ctxs := rfl
@[simp] theorem State.setTray_waiting (s : State) (st o : Nat) (b : Byte) : (s.setTray st o b).waiting = s.waiting := rfl
@[simp] theorem State.setTray_weaves (s : State) (st o : Nat) (b : Byte) : (s.setTray st o b).weaves = s.weaves := rfl
@[simp] theorem State.setTray_nextWeave (s : State) (st o : Nat) (b : Byte) : (s.setTray st o b).nextWeave = s.nextWeave := rfl
@[simp] theorem State.setTray_stakes (s : State) (st o : Nat) (b : Byte) : (s.setTray st o b).stakes = s.stakes := rfl
@[simp] theorem State.setTray_parts (s : State) (st o : Nat) (b : Byte) : (s.setTray st o b).parts = s.parts := rfl
@[simp] theorem State.setTray_lists (s : State) (st o : Nat) (b : Byte) : (s.setTray st o b).lists = s.lists := rfl
@[simp] theorem State.setTray_ms (s : State) (st o : Nat) (b : Byte) : (s.setTray st o b).ms = s.ms := rfl
@[simp] theorem State.setTray_flt (s : State) (st o : Nat) (b : Byte) : (s.setTray st o b).flt = s.flt := rfl
@[simp] theorem State.setTray_sfu (s : State) (st o : Nat) (b : Byte) : (s.setTray st o b).sfu = s.sfu := rfl
@[simp] theorem State.setTray_plait (s : State) (st o : Nat) (b : Byte) : (s.setTray st o b).plait = s.plait := rfl
@[simp] theorem State.setTray_wale (s : State) (st o : Nat) (b : Byte) : (s.setTray st o b).wale = s.wale := rfl
@[simp] theorem State.setTray_coll (s : State) (st o : Nat) (b : Byte) : (s.setTray st o b).coll = s.coll := rfl
@[simp] theorem State.setTray_vid (s : State) (st o : Nat) (b : Byte) : (s.setTray st o b).vid = s.vid := rfl
@[simp] theorem State.setTray_hdl (s : State) (st o : Nat) (b : Byte) : (s.setTray st o b).hdl = s.hdl := rfl
@[simp] theorem State.setTray_pwr (s : State) (st o : Nat) (b : Byte) : (s.setTray st o b).pwr = s.pwr := rfl
@[simp] theorem State.setTray_out (s : State) (st o : Nat) (b : Byte) : (s.setTray st o b).out = s.out := rfl
@[simp] theorem State.setTray_numVfs (s : State) (st o : Nat) (b : Byte) : (s.setTray st o b).numVfs = s.numVfs := rfl
@[simp] theorem State.setTray_free (s : State) (st o : Nat) (b : Byte) : (s.setTray st o b).free = s.free := rfl
@[simp] theorem State.setTray_pending (s : State) (st o : Nat) (b : Byte) : (s.setTray st o b).pending = s.pending := rfl
@[simp] theorem State.setTray_rg (s : State) (st o : Nat) (b : Byte) (g : Fld) (q : Nat) : (s.setTray st o b).rg g q = s.rg g q := rfl
@[simp] theorem State.setTray_rb (s : State) (st o : Nat) (b : Byte) (g : Fld) (q : Nat) : (s.setTray st o b).rb g q = s.rb g q := rfl
@[simp] theorem State.setTray_byte (s : State) (st o : Nat) (b : Byte) (g : Nat) : (s.setTray st o b).byte g = s.byte g := rfl

/-! ### setAcc -/

@[simp] theorem State.setAcc_regs (s : State) (st t r j v : Nat) : (s.setAcc st t r j v).regs = s.regs := rfl
@[simp] theorem State.setAcc_latch (s : State) (st t r j v : Nat) : (s.setAcc st t r j v).latch = s.latch := rfl
@[simp] theorem State.setAcc_staged (s : State) (st t r j v : Nat) : (s.setAcc st t r j v).staged = s.staged := rfl
@[simp] theorem State.setAcc_mem (s : State) (st t r j v : Nat) : (s.setAcc st t r j v).mem = s.mem := rfl
@[simp] theorem State.setAcc_imgBase (s : State) (st t r j v : Nat) : (s.setAcc st t r j v).imgBase = s.imgBase := rfl
@[simp] theorem State.setAcc_trays (s : State) (st t r j v : Nat) : (s.setAcc st t r j v).trays = s.trays := rfl
@[simp] theorem State.setAcc_satFlags (s : State) (st t r j v : Nat) : (s.setAcc st t r j v).satFlags = s.satFlags := rfl
@[simp] theorem State.setAcc_rnd (s : State) (st t r j v : Nat) : (s.setAcc st t r j v).rnd = s.rnd := rfl
@[simp] theorem State.setAcc_wtab (s : State) (st t r j v : Nat) : (s.setAcc st t r j v).wtab = s.wtab := rfl
@[simp] theorem State.setAcc_polls (s : State) (st t r j v : Nat) : (s.setAcc st t r j v).polls = s.polls := rfl
@[simp] theorem State.setAcc_budget (s : State) (st t r j v : Nat) : (s.setAcc st t r j v).budget = s.budget := rfl
@[simp] theorem State.setAcc_rings (s : State) (st t r j v : Nat) : (s.setAcc st t r j v).rings = s.rings := rfl
@[simp] theorem State.setAcc_ctxs (s : State) (st t r j v : Nat) : (s.setAcc st t r j v).ctxs = s.ctxs := rfl
@[simp] theorem State.setAcc_waiting (s : State) (st t r j v : Nat) : (s.setAcc st t r j v).waiting = s.waiting := rfl
@[simp] theorem State.setAcc_weaves (s : State) (st t r j v : Nat) : (s.setAcc st t r j v).weaves = s.weaves := rfl
@[simp] theorem State.setAcc_nextWeave (s : State) (st t r j v : Nat) : (s.setAcc st t r j v).nextWeave = s.nextWeave := rfl
@[simp] theorem State.setAcc_stakes (s : State) (st t r j v : Nat) : (s.setAcc st t r j v).stakes = s.stakes := rfl
@[simp] theorem State.setAcc_parts (s : State) (st t r j v : Nat) : (s.setAcc st t r j v).parts = s.parts := rfl
@[simp] theorem State.setAcc_lists (s : State) (st t r j v : Nat) : (s.setAcc st t r j v).lists = s.lists := rfl
@[simp] theorem State.setAcc_ms (s : State) (st t r j v : Nat) : (s.setAcc st t r j v).ms = s.ms := rfl
@[simp] theorem State.setAcc_flt (s : State) (st t r j v : Nat) : (s.setAcc st t r j v).flt = s.flt := rfl
@[simp] theorem State.setAcc_sfu (s : State) (st t r j v : Nat) : (s.setAcc st t r j v).sfu = s.sfu := rfl
@[simp] theorem State.setAcc_plait (s : State) (st t r j v : Nat) : (s.setAcc st t r j v).plait = s.plait := rfl
@[simp] theorem State.setAcc_wale (s : State) (st t r j v : Nat) : (s.setAcc st t r j v).wale = s.wale := rfl
@[simp] theorem State.setAcc_coll (s : State) (st t r j v : Nat) : (s.setAcc st t r j v).coll = s.coll := rfl
@[simp] theorem State.setAcc_vid (s : State) (st t r j v : Nat) : (s.setAcc st t r j v).vid = s.vid := rfl
@[simp] theorem State.setAcc_hdl (s : State) (st t r j v : Nat) : (s.setAcc st t r j v).hdl = s.hdl := rfl
@[simp] theorem State.setAcc_pwr (s : State) (st t r j v : Nat) : (s.setAcc st t r j v).pwr = s.pwr := rfl
@[simp] theorem State.setAcc_out (s : State) (st t r j v : Nat) : (s.setAcc st t r j v).out = s.out := rfl
@[simp] theorem State.setAcc_numVfs (s : State) (st t r j v : Nat) : (s.setAcc st t r j v).numVfs = s.numVfs := rfl
@[simp] theorem State.setAcc_free (s : State) (st t r j v : Nat) : (s.setAcc st t r j v).free = s.free := rfl
@[simp] theorem State.setAcc_pending (s : State) (st t r j v : Nat) : (s.setAcc st t r j v).pending = s.pending := rfl
@[simp] theorem State.setAcc_rg (s : State) (st t r j v : Nat) (g : Fld) (q : Nat) : (s.setAcc st t r j v).rg g q = s.rg g q := rfl
@[simp] theorem State.setAcc_rb (s : State) (st t r j v : Nat) (g : Fld) (q : Nat) : (s.setAcc st t r j v).rb g q = s.rb g q := rfl
@[simp] theorem State.setAcc_byte (s : State) (st t r j v : Nat) (g : Nat) : (s.setAcc st t r j v).byte g = s.byte g := rfl

/-! ### setTokens -/

@[simp] theorem State.setTokens_regs (s : State) (p j : Nat) (v : Int) : (s.setTokens p j v).regs = s.regs := rfl
@[simp] theorem State.setTokens_latch (s : State) (p j : Nat) (v : Int) : (s.setTokens p j v).latch = s.latch := rfl
@[simp] theorem State.setTokens_staged (s : State) (p j : Nat) (v : Int) : (s.setTokens p j v).staged = s.staged := rfl
@[simp] theorem State.setTokens_mem (s : State) (p j : Nat) (v : Int) : (s.setTokens p j v).mem = s.mem := rfl
@[simp] theorem State.setTokens_imgBase (s : State) (p j : Nat) (v : Int) : (s.setTokens p j v).imgBase = s.imgBase := rfl
@[simp] theorem State.setTokens_trays (s : State) (p j : Nat) (v : Int) : (s.setTokens p j v).trays = s.trays := rfl
@[simp] theorem State.setTokens_accs (s : State) (p j : Nat) (v : Int) : (s.setTokens p j v).accs = s.accs := rfl
@[simp] theorem State.setTokens_satFlags (s : State) (p j : Nat) (v : Int) : (s.setTokens p j v).satFlags = s.satFlags := rfl
@[simp] theorem State.setTokens_rnd (s : State) (p j : Nat) (v : Int) : (s.setTokens p j v).rnd = s.rnd := rfl
@[simp] theorem State.setTokens_wtab (s : State) (p j : Nat) (v : Int) : (s.setTokens p j v).wtab = s.wtab := rfl
@[simp] theorem State.setTokens_polls (s : State) (p j : Nat) (v : Int) : (s.setTokens p j v).polls = s.polls := rfl
@[simp] theorem State.setTokens_budget (s : State) (p j : Nat) (v : Int) : (s.setTokens p j v).budget = s.budget := rfl
@[simp] theorem State.setTokens_rings (s : State) (p j : Nat) (v : Int) : (s.setTokens p j v).rings = s.rings := rfl
@[simp] theorem State.setTokens_ctxs (s : State) (p j : Nat) (v : Int) : (s.setTokens p j v).ctxs = s.ctxs := rfl
@[simp] theorem State.setTokens_waiting (s : State) (p j : Nat) (v : Int) : (s.setTokens p j v).waiting = s.waiting := rfl
@[simp] theorem State.setTokens_weaves (s : State) (p j : Nat) (v : Int) : (s.setTokens p j v).weaves = s.weaves := rfl
@[simp] theorem State.setTokens_nextWeave (s : State) (p j : Nat) (v : Int) : (s.setTokens p j v).nextWeave = s.nextWeave := rfl
@[simp] theorem State.setTokens_stakes (s : State) (p j : Nat) (v : Int) : (s.setTokens p j v).stakes = s.stakes := rfl
@[simp] theorem State.setTokens_lists (s : State) (p j : Nat) (v : Int) : (s.setTokens p j v).lists = s.lists := rfl
@[simp] theorem State.setTokens_ms (s : State) (p j : Nat) (v : Int) : (s.setTokens p j v).ms = s.ms := rfl
@[simp] theorem State.setTokens_flt (s : State) (p j : Nat) (v : Int) : (s.setTokens p j v).flt = s.flt := rfl
@[simp] theorem State.setTokens_sfu (s : State) (p j : Nat) (v : Int) : (s.setTokens p j v).sfu = s.sfu := rfl
@[simp] theorem State.setTokens_plait (s : State) (p j : Nat) (v : Int) : (s.setTokens p j v).plait = s.plait := rfl
@[simp] theorem State.setTokens_wale (s : State) (p j : Nat) (v : Int) : (s.setTokens p j v).wale = s.wale := rfl
@[simp] theorem State.setTokens_coll (s : State) (p j : Nat) (v : Int) : (s.setTokens p j v).coll = s.coll := rfl
@[simp] theorem State.setTokens_vid (s : State) (p j : Nat) (v : Int) : (s.setTokens p j v).vid = s.vid := rfl
@[simp] theorem State.setTokens_hdl (s : State) (p j : Nat) (v : Int) : (s.setTokens p j v).hdl = s.hdl := rfl
@[simp] theorem State.setTokens_pwr (s : State) (p j : Nat) (v : Int) : (s.setTokens p j v).pwr = s.pwr := rfl
@[simp] theorem State.setTokens_out (s : State) (p j : Nat) (v : Int) : (s.setTokens p j v).out = s.out := rfl
@[simp] theorem State.setTokens_numVfs (s : State) (p j : Nat) (v : Int) : (s.setTokens p j v).numVfs = s.numVfs := rfl
@[simp] theorem State.setTokens_free (s : State) (p j : Nat) (v : Int) : (s.setTokens p j v).free = s.free := rfl
@[simp] theorem State.setTokens_pending (s : State) (p j : Nat) (v : Int) : (s.setTokens p j v).pending = s.pending := rfl
@[simp] theorem State.setTokens_rg (s : State) (p j : Nat) (v : Int) (g : Fld) (q : Nat) : (s.setTokens p j v).rg g q = s.rg g q := rfl
@[simp] theorem State.setTokens_rb (s : State) (p j : Nat) (v : Int) (g : Fld) (q : Nat) : (s.setTokens p j v).rb g q = s.rb g q := rfl
@[simp] theorem State.setTokens_byte (s : State) (p j : Nat) (v : Int) (g : Nat) : (s.setTokens p j v).byte g = s.byte g := rfl

/-! ### setRnd -/

@[simp] theorem State.setRnd_regs (s : State) (r : RoundSt) : (s.setRnd r).regs = s.regs := rfl
@[simp] theorem State.setRnd_latch (s : State) (r : RoundSt) : (s.setRnd r).latch = s.latch := rfl
@[simp] theorem State.setRnd_staged (s : State) (r : RoundSt) : (s.setRnd r).staged = s.staged := rfl
@[simp] theorem State.setRnd_mem (s : State) (r : RoundSt) : (s.setRnd r).mem = s.mem := rfl
@[simp] theorem State.setRnd_imgBase (s : State) (r : RoundSt) : (s.setRnd r).imgBase = s.imgBase := rfl
@[simp] theorem State.setRnd_trays (s : State) (r : RoundSt) : (s.setRnd r).trays = s.trays := rfl
@[simp] theorem State.setRnd_accs (s : State) (r : RoundSt) : (s.setRnd r).accs = s.accs := rfl
@[simp] theorem State.setRnd_satFlags (s : State) (r : RoundSt) : (s.setRnd r).satFlags = s.satFlags := rfl
@[simp] theorem State.setRnd_wtab (s : State) (r : RoundSt) : (s.setRnd r).wtab = s.wtab := rfl
@[simp] theorem State.setRnd_polls (s : State) (r : RoundSt) : (s.setRnd r).polls = s.polls := rfl
@[simp] theorem State.setRnd_budget (s : State) (r : RoundSt) : (s.setRnd r).budget = s.budget := rfl
@[simp] theorem State.setRnd_rings (s : State) (r : RoundSt) : (s.setRnd r).rings = s.rings := rfl
@[simp] theorem State.setRnd_ctxs (s : State) (r : RoundSt) : (s.setRnd r).ctxs = s.ctxs := rfl
@[simp] theorem State.setRnd_waiting (s : State) (r : RoundSt) : (s.setRnd r).waiting = s.waiting := rfl
@[simp] theorem State.setRnd_weaves (s : State) (r : RoundSt) : (s.setRnd r).weaves = s.weaves := rfl
@[simp] theorem State.setRnd_nextWeave (s : State) (r : RoundSt) : (s.setRnd r).nextWeave = s.nextWeave := rfl
@[simp] theorem State.setRnd_stakes (s : State) (r : RoundSt) : (s.setRnd r).stakes = s.stakes := rfl
@[simp] theorem State.setRnd_parts (s : State) (r : RoundSt) : (s.setRnd r).parts = s.parts := rfl
@[simp] theorem State.setRnd_lists (s : State) (r : RoundSt) : (s.setRnd r).lists = s.lists := rfl
@[simp] theorem State.setRnd_ms (s : State) (r : RoundSt) : (s.setRnd r).ms = s.ms := rfl
@[simp] theorem State.setRnd_flt (s : State) (r : RoundSt) : (s.setRnd r).flt = s.flt := rfl
@[simp] theorem State.setRnd_sfu (s : State) (r : RoundSt) : (s.setRnd r).sfu = s.sfu := rfl
@[simp] theorem State.setRnd_plait (s : State) (r : RoundSt) : (s.setRnd r).plait = s.plait := rfl
@[simp] theorem State.setRnd_wale (s : State) (r : RoundSt) : (s.setRnd r).wale = s.wale := rfl
@[simp] theorem State.setRnd_coll (s : State) (r : RoundSt) : (s.setRnd r).coll = s.coll := rfl
@[simp] theorem State.setRnd_vid (s : State) (r : RoundSt) : (s.setRnd r).vid = s.vid := rfl
@[simp] theorem State.setRnd_hdl (s : State) (r : RoundSt) : (s.setRnd r).hdl = s.hdl := rfl
@[simp] theorem State.setRnd_pwr (s : State) (r : RoundSt) : (s.setRnd r).pwr = s.pwr := rfl
@[simp] theorem State.setRnd_out (s : State) (r : RoundSt) : (s.setRnd r).out = s.out := rfl
@[simp] theorem State.setRnd_numVfs (s : State) (r : RoundSt) : (s.setRnd r).numVfs = s.numVfs := rfl
@[simp] theorem State.setRnd_free (s : State) (r : RoundSt) : (s.setRnd r).free = s.free := rfl
@[simp] theorem State.setRnd_pending (s : State) (r : RoundSt) : (s.setRnd r).pending = s.pending := rfl
@[simp] theorem State.setRnd_rg (s : State) (r : RoundSt) (g : Fld) (q : Nat) : (s.setRnd r).rg g q = s.rg g q := rfl
@[simp] theorem State.setRnd_rb (s : State) (r : RoundSt) (g : Fld) (q : Nat) : (s.setRnd r).rb g q = s.rb g q := rfl
@[simp] theorem State.setRnd_byte (s : State) (r : RoundSt) (g : Nat) : (s.setRnd r).byte g = s.byte g := rfl

/-! ### setCtx -/

@[simp] theorem State.setCtx_regs (s : State) (c : Nat) (x : CtxSt) : (s.setCtx c x).regs = s.regs := rfl
@[simp] theorem State.setCtx_latch (s : State) (c : Nat) (x : CtxSt) : (s.setCtx c x).latch = s.latch := rfl
@[simp] theorem State.setCtx_staged (s : State) (c : Nat) (x : CtxSt) : (s.setCtx c x).staged = s.staged := rfl
@[simp] theorem State.setCtx_mem (s : State) (c : Nat) (x : CtxSt) : (s.setCtx c x).mem = s.mem := rfl
@[simp] theorem State.setCtx_imgBase (s : State) (c : Nat) (x : CtxSt) : (s.setCtx c x).imgBase = s.imgBase := rfl
@[simp] theorem State.setCtx_trays (s : State) (c : Nat) (x : CtxSt) : (s.setCtx c x).trays = s.trays := rfl
@[simp] theorem State.setCtx_accs (s : State) (c : Nat) (x : CtxSt) : (s.setCtx c x).accs = s.accs := rfl
@[simp] theorem State.setCtx_satFlags (s : State) (c : Nat) (x : CtxSt) : (s.setCtx c x).satFlags = s.satFlags := rfl
@[simp] theorem State.setCtx_rnd (s : State) (c : Nat) (x : CtxSt) : (s.setCtx c x).rnd = s.rnd := rfl
@[simp] theorem State.setCtx_wtab (s : State) (c : Nat) (x : CtxSt) : (s.setCtx c x).wtab = s.wtab := rfl
@[simp] theorem State.setCtx_polls (s : State) (c : Nat) (x : CtxSt) : (s.setCtx c x).polls = s.polls := rfl
@[simp] theorem State.setCtx_budget (s : State) (c : Nat) (x : CtxSt) : (s.setCtx c x).budget = s.budget := rfl
@[simp] theorem State.setCtx_rings (s : State) (c : Nat) (x : CtxSt) : (s.setCtx c x).rings = s.rings := rfl
@[simp] theorem State.setCtx_waiting (s : State) (c : Nat) (x : CtxSt) : (s.setCtx c x).waiting = s.waiting := rfl
@[simp] theorem State.setCtx_weaves (s : State) (c : Nat) (x : CtxSt) : (s.setCtx c x).weaves = s.weaves := rfl
@[simp] theorem State.setCtx_nextWeave (s : State) (c : Nat) (x : CtxSt) : (s.setCtx c x).nextWeave = s.nextWeave := rfl
@[simp] theorem State.setCtx_stakes (s : State) (c : Nat) (x : CtxSt) : (s.setCtx c x).stakes = s.stakes := rfl
@[simp] theorem State.setCtx_parts (s : State) (c : Nat) (x : CtxSt) : (s.setCtx c x).parts = s.parts := rfl
@[simp] theorem State.setCtx_lists (s : State) (c : Nat) (x : CtxSt) : (s.setCtx c x).lists = s.lists := rfl
@[simp] theorem State.setCtx_ms (s : State) (c : Nat) (x : CtxSt) : (s.setCtx c x).ms = s.ms := rfl
@[simp] theorem State.setCtx_flt (s : State) (c : Nat) (x : CtxSt) : (s.setCtx c x).flt = s.flt := rfl
@[simp] theorem State.setCtx_sfu (s : State) (c : Nat) (x : CtxSt) : (s.setCtx c x).sfu = s.sfu := rfl
@[simp] theorem State.setCtx_plait (s : State) (c : Nat) (x : CtxSt) : (s.setCtx c x).plait = s.plait := rfl
@[simp] theorem State.setCtx_wale (s : State) (c : Nat) (x : CtxSt) : (s.setCtx c x).wale = s.wale := rfl
@[simp] theorem State.setCtx_coll (s : State) (c : Nat) (x : CtxSt) : (s.setCtx c x).coll = s.coll := rfl
@[simp] theorem State.setCtx_vid (s : State) (c : Nat) (x : CtxSt) : (s.setCtx c x).vid = s.vid := rfl
@[simp] theorem State.setCtx_hdl (s : State) (c : Nat) (x : CtxSt) : (s.setCtx c x).hdl = s.hdl := rfl
@[simp] theorem State.setCtx_pwr (s : State) (c : Nat) (x : CtxSt) : (s.setCtx c x).pwr = s.pwr := rfl
@[simp] theorem State.setCtx_out (s : State) (c : Nat) (x : CtxSt) : (s.setCtx c x).out = s.out := rfl
@[simp] theorem State.setCtx_numVfs (s : State) (c : Nat) (x : CtxSt) : (s.setCtx c x).numVfs = s.numVfs := rfl
@[simp] theorem State.setCtx_free (s : State) (c : Nat) (x : CtxSt) : (s.setCtx c x).free = s.free := rfl
@[simp] theorem State.setCtx_pending (s : State) (c : Nat) (x : CtxSt) : (s.setCtx c x).pending = s.pending := rfl
@[simp] theorem State.setCtx_rg (s : State) (c : Nat) (x : CtxSt) (g : Fld) (q : Nat) : (s.setCtx c x).rg g q = s.rg g q := rfl
@[simp] theorem State.setCtx_rb (s : State) (c : Nat) (x : CtxSt) (g : Fld) (q : Nat) : (s.setCtx c x).rb g q = s.rb g q := rfl
@[simp] theorem State.setCtx_byte (s : State) (c : Nat) (x : CtxSt) (g : Nat) : (s.setCtx c x).byte g = s.byte g := rfl

/-! ### setRing -/

@[simp] theorem State.setRing_regs (s : State) (c n : Nat) (r : RingSt) : (s.setRing c n r).regs = s.regs := rfl
@[simp] theorem State.setRing_latch (s : State) (c n : Nat) (r : RingSt) : (s.setRing c n r).latch = s.latch := rfl
@[simp] theorem State.setRing_staged (s : State) (c n : Nat) (r : RingSt) : (s.setRing c n r).staged = s.staged := rfl
@[simp] theorem State.setRing_mem (s : State) (c n : Nat) (r : RingSt) : (s.setRing c n r).mem = s.mem := rfl
@[simp] theorem State.setRing_imgBase (s : State) (c n : Nat) (r : RingSt) : (s.setRing c n r).imgBase = s.imgBase := rfl
@[simp] theorem State.setRing_trays (s : State) (c n : Nat) (r : RingSt) : (s.setRing c n r).trays = s.trays := rfl
@[simp] theorem State.setRing_accs (s : State) (c n : Nat) (r : RingSt) : (s.setRing c n r).accs = s.accs := rfl
@[simp] theorem State.setRing_satFlags (s : State) (c n : Nat) (r : RingSt) : (s.setRing c n r).satFlags = s.satFlags := rfl
@[simp] theorem State.setRing_rnd (s : State) (c n : Nat) (r : RingSt) : (s.setRing c n r).rnd = s.rnd := rfl
@[simp] theorem State.setRing_wtab (s : State) (c n : Nat) (r : RingSt) : (s.setRing c n r).wtab = s.wtab := rfl
@[simp] theorem State.setRing_polls (s : State) (c n : Nat) (r : RingSt) : (s.setRing c n r).polls = s.polls := rfl
@[simp] theorem State.setRing_budget (s : State) (c n : Nat) (r : RingSt) : (s.setRing c n r).budget = s.budget := rfl
@[simp] theorem State.setRing_ctxs (s : State) (c n : Nat) (r : RingSt) : (s.setRing c n r).ctxs = s.ctxs := rfl
@[simp] theorem State.setRing_waiting (s : State) (c n : Nat) (r : RingSt) : (s.setRing c n r).waiting = s.waiting := rfl
@[simp] theorem State.setRing_weaves (s : State) (c n : Nat) (r : RingSt) : (s.setRing c n r).weaves = s.weaves := rfl
@[simp] theorem State.setRing_nextWeave (s : State) (c n : Nat) (r : RingSt) : (s.setRing c n r).nextWeave = s.nextWeave := rfl
@[simp] theorem State.setRing_stakes (s : State) (c n : Nat) (r : RingSt) : (s.setRing c n r).stakes = s.stakes := rfl
@[simp] theorem State.setRing_parts (s : State) (c n : Nat) (r : RingSt) : (s.setRing c n r).parts = s.parts := rfl
@[simp] theorem State.setRing_lists (s : State) (c n : Nat) (r : RingSt) : (s.setRing c n r).lists = s.lists := rfl
@[simp] theorem State.setRing_ms (s : State) (c n : Nat) (r : RingSt) : (s.setRing c n r).ms = s.ms := rfl
@[simp] theorem State.setRing_flt (s : State) (c n : Nat) (r : RingSt) : (s.setRing c n r).flt = s.flt := rfl
@[simp] theorem State.setRing_sfu (s : State) (c n : Nat) (r : RingSt) : (s.setRing c n r).sfu = s.sfu := rfl
@[simp] theorem State.setRing_plait (s : State) (c n : Nat) (r : RingSt) : (s.setRing c n r).plait = s.plait := rfl
@[simp] theorem State.setRing_wale (s : State) (c n : Nat) (r : RingSt) : (s.setRing c n r).wale = s.wale := rfl
@[simp] theorem State.setRing_coll (s : State) (c n : Nat) (r : RingSt) : (s.setRing c n r).coll = s.coll := rfl
@[simp] theorem State.setRing_vid (s : State) (c n : Nat) (r : RingSt) : (s.setRing c n r).vid = s.vid := rfl
@[simp] theorem State.setRing_hdl (s : State) (c n : Nat) (r : RingSt) : (s.setRing c n r).hdl = s.hdl := rfl
@[simp] theorem State.setRing_pwr (s : State) (c n : Nat) (r : RingSt) : (s.setRing c n r).pwr = s.pwr := rfl
@[simp] theorem State.setRing_out (s : State) (c n : Nat) (r : RingSt) : (s.setRing c n r).out = s.out := rfl
@[simp] theorem State.setRing_numVfs (s : State) (c n : Nat) (r : RingSt) : (s.setRing c n r).numVfs = s.numVfs := rfl
@[simp] theorem State.setRing_free (s : State) (c n : Nat) (r : RingSt) : (s.setRing c n r).free = s.free := rfl
@[simp] theorem State.setRing_pending (s : State) (c n : Nat) (r : RingSt) : (s.setRing c n r).pending = s.pending := rfl
@[simp] theorem State.setRing_rg (s : State) (c n : Nat) (r : RingSt) (g : Fld) (q : Nat) : (s.setRing c n r).rg g q = s.rg g q := rfl
@[simp] theorem State.setRing_rb (s : State) (c n : Nat) (r : RingSt) (g : Fld) (q : Nat) : (s.setRing c n r).rb g q = s.rb g q := rfl
@[simp] theorem State.setRing_byte (s : State) (c n : Nat) (r : RingSt) (g : Nat) : (s.setRing c n r).byte g = s.byte g := rfl

/-! ### setPollQ -/

@[simp] theorem State.setPollQ_regs (s : State) (k : Nat) (l : List Poll) : (s.setPollQ k l).regs = s.regs := rfl
@[simp] theorem State.setPollQ_latch (s : State) (k : Nat) (l : List Poll) : (s.setPollQ k l).latch = s.latch := rfl
@[simp] theorem State.setPollQ_staged (s : State) (k : Nat) (l : List Poll) : (s.setPollQ k l).staged = s.staged := rfl
@[simp] theorem State.setPollQ_mem (s : State) (k : Nat) (l : List Poll) : (s.setPollQ k l).mem = s.mem := rfl
@[simp] theorem State.setPollQ_imgBase (s : State) (k : Nat) (l : List Poll) : (s.setPollQ k l).imgBase = s.imgBase := rfl
@[simp] theorem State.setPollQ_trays (s : State) (k : Nat) (l : List Poll) : (s.setPollQ k l).trays = s.trays := rfl
@[simp] theorem State.setPollQ_accs (s : State) (k : Nat) (l : List Poll) : (s.setPollQ k l).accs = s.accs := rfl
@[simp] theorem State.setPollQ_satFlags (s : State) (k : Nat) (l : List Poll) : (s.setPollQ k l).satFlags = s.satFlags := rfl
@[simp] theorem State.setPollQ_rnd (s : State) (k : Nat) (l : List Poll) : (s.setPollQ k l).rnd = s.rnd := rfl
@[simp] theorem State.setPollQ_wtab (s : State) (k : Nat) (l : List Poll) : (s.setPollQ k l).wtab = s.wtab := rfl
@[simp] theorem State.setPollQ_budget (s : State) (k : Nat) (l : List Poll) : (s.setPollQ k l).budget = s.budget := rfl
@[simp] theorem State.setPollQ_rings (s : State) (k : Nat) (l : List Poll) : (s.setPollQ k l).rings = s.rings := rfl
@[simp] theorem State.setPollQ_ctxs (s : State) (k : Nat) (l : List Poll) : (s.setPollQ k l).ctxs = s.ctxs := rfl
@[simp] theorem State.setPollQ_waiting (s : State) (k : Nat) (l : List Poll) : (s.setPollQ k l).waiting = s.waiting := rfl
@[simp] theorem State.setPollQ_weaves (s : State) (k : Nat) (l : List Poll) : (s.setPollQ k l).weaves = s.weaves := rfl
@[simp] theorem State.setPollQ_nextWeave (s : State) (k : Nat) (l : List Poll) : (s.setPollQ k l).nextWeave = s.nextWeave := rfl
@[simp] theorem State.setPollQ_stakes (s : State) (k : Nat) (l : List Poll) : (s.setPollQ k l).stakes = s.stakes := rfl
@[simp] theorem State.setPollQ_parts (s : State) (k : Nat) (l : List Poll) : (s.setPollQ k l).parts = s.parts := rfl
@[simp] theorem State.setPollQ_lists (s : State) (k : Nat) (l : List Poll) : (s.setPollQ k l).lists = s.lists := rfl
@[simp] theorem State.setPollQ_ms (s : State) (k : Nat) (l : List Poll) : (s.setPollQ k l).ms = s.ms := rfl
@[simp] theorem State.setPollQ_flt (s : State) (k : Nat) (l : List Poll) : (s.setPollQ k l).flt = s.flt := rfl
@[simp] theorem State.setPollQ_sfu (s : State) (k : Nat) (l : List Poll) : (s.setPollQ k l).sfu = s.sfu := rfl
@[simp] theorem State.setPollQ_plait (s : State) (k : Nat) (l : List Poll) : (s.setPollQ k l).plait = s.plait := rfl
@[simp] theorem State.setPollQ_wale (s : State) (k : Nat) (l : List Poll) : (s.setPollQ k l).wale = s.wale := rfl
@[simp] theorem State.setPollQ_coll (s : State) (k : Nat) (l : List Poll) : (s.setPollQ k l).coll = s.coll := rfl
@[simp] theorem State.setPollQ_vid (s : State) (k : Nat) (l : List Poll) : (s.setPollQ k l).vid = s.vid := rfl
@[simp] theorem State.setPollQ_hdl (s : State) (k : Nat) (l : List Poll) : (s.setPollQ k l).hdl = s.hdl := rfl
@[simp] theorem State.setPollQ_pwr (s : State) (k : Nat) (l : List Poll) : (s.setPollQ k l).pwr = s.pwr := rfl
@[simp] theorem State.setPollQ_out (s : State) (k : Nat) (l : List Poll) : (s.setPollQ k l).out = s.out := rfl
@[simp] theorem State.setPollQ_numVfs (s : State) (k : Nat) (l : List Poll) : (s.setPollQ k l).numVfs = s.numVfs := rfl
@[simp] theorem State.setPollQ_free (s : State) (k : Nat) (l : List Poll) : (s.setPollQ k l).free = s.free := rfl
@[simp] theorem State.setPollQ_pending (s : State) (k : Nat) (l : List Poll) : (s.setPollQ k l).pending = s.pending := rfl
@[simp] theorem State.setPollQ_rg (s : State) (k : Nat) (l : List Poll) (g : Fld) (q : Nat) : (s.setPollQ k l).rg g q = s.rg g q := rfl
@[simp] theorem State.setPollQ_rb (s : State) (k : Nat) (l : List Poll) (g : Fld) (q : Nat) : (s.setPollQ k l).rb g q = s.rb g q := rfl
@[simp] theorem State.setPollQ_byte (s : State) (k : Nat) (l : List Poll) (g : Nat) : (s.setPollQ k l).byte g = s.byte g := rfl

/-! ### finish -/

@[simp] theorem State.finish_regs (s : State) (c ring slot : Nat) (d : Done) : (s.finish c ring slot d).regs = s.regs := rfl
@[simp] theorem State.finish_latch (s : State) (c ring slot : Nat) (d : Done) : (s.finish c ring slot d).latch = s.latch := rfl
@[simp] theorem State.finish_staged (s : State) (c ring slot : Nat) (d : Done) : (s.finish c ring slot d).staged = s.staged := rfl
@[simp] theorem State.finish_mem (s : State) (c ring slot : Nat) (d : Done) : (s.finish c ring slot d).mem = s.mem := rfl
@[simp] theorem State.finish_imgBase (s : State) (c ring slot : Nat) (d : Done) : (s.finish c ring slot d).imgBase = s.imgBase := rfl
@[simp] theorem State.finish_trays (s : State) (c ring slot : Nat) (d : Done) : (s.finish c ring slot d).trays = s.trays := rfl
@[simp] theorem State.finish_accs (s : State) (c ring slot : Nat) (d : Done) : (s.finish c ring slot d).accs = s.accs := rfl
@[simp] theorem State.finish_satFlags (s : State) (c ring slot : Nat) (d : Done) : (s.finish c ring slot d).satFlags = s.satFlags := rfl
@[simp] theorem State.finish_rnd (s : State) (c ring slot : Nat) (d : Done) : (s.finish c ring slot d).rnd = s.rnd := rfl
@[simp] theorem State.finish_wtab (s : State) (c ring slot : Nat) (d : Done) : (s.finish c ring slot d).wtab = s.wtab := rfl
@[simp] theorem State.finish_polls (s : State) (c ring slot : Nat) (d : Done) : (s.finish c ring slot d).polls = s.polls := rfl
@[simp] theorem State.finish_budget (s : State) (c ring slot : Nat) (d : Done) : (s.finish c ring slot d).budget = s.budget := rfl
@[simp] theorem State.finish_rings (s : State) (c ring slot : Nat) (d : Done) : (s.finish c ring slot d).rings = s.rings := rfl
@[simp] theorem State.finish_waiting (s : State) (c ring slot : Nat) (d : Done) : (s.finish c ring slot d).waiting = s.waiting := rfl
@[simp] theorem State.finish_weaves (s : State) (c ring slot : Nat) (d : Done) : (s.finish c ring slot d).weaves = s.weaves := rfl
@[simp] theorem State.finish_nextWeave (s : State) (c ring slot : Nat) (d : Done) : (s.finish c ring slot d).nextWeave = s.nextWeave := rfl
@[simp] theorem State.finish_stakes (s : State) (c ring slot : Nat) (d : Done) : (s.finish c ring slot d).stakes = s.stakes := rfl
@[simp] theorem State.finish_parts (s : State) (c ring slot : Nat) (d : Done) : (s.finish c ring slot d).parts = s.parts := rfl
@[simp] theorem State.finish_lists (s : State) (c ring slot : Nat) (d : Done) : (s.finish c ring slot d).lists = s.lists := rfl
@[simp] theorem State.finish_ms (s : State) (c ring slot : Nat) (d : Done) : (s.finish c ring slot d).ms = s.ms := rfl
@[simp] theorem State.finish_flt (s : State) (c ring slot : Nat) (d : Done) : (s.finish c ring slot d).flt = s.flt := rfl
@[simp] theorem State.finish_sfu (s : State) (c ring slot : Nat) (d : Done) : (s.finish c ring slot d).sfu = s.sfu := rfl
@[simp] theorem State.finish_plait (s : State) (c ring slot : Nat) (d : Done) : (s.finish c ring slot d).plait = s.plait := rfl
@[simp] theorem State.finish_wale (s : State) (c ring slot : Nat) (d : Done) : (s.finish c ring slot d).wale = s.wale := rfl
@[simp] theorem State.finish_coll (s : State) (c ring slot : Nat) (d : Done) : (s.finish c ring slot d).coll = s.coll := rfl
@[simp] theorem State.finish_vid (s : State) (c ring slot : Nat) (d : Done) : (s.finish c ring slot d).vid = s.vid := rfl
@[simp] theorem State.finish_hdl (s : State) (c ring slot : Nat) (d : Done) : (s.finish c ring slot d).hdl = s.hdl := rfl
@[simp] theorem State.finish_pwr (s : State) (c ring slot : Nat) (d : Done) : (s.finish c ring slot d).pwr = s.pwr := rfl
@[simp] theorem State.finish_out (s : State) (c ring slot : Nat) (d : Done) : (s.finish c ring slot d).out = s.out := rfl
@[simp] theorem State.finish_numVfs (s : State) (c ring slot : Nat) (d : Done) : (s.finish c ring slot d).numVfs = s.numVfs := rfl
@[simp] theorem State.finish_free (s : State) (c ring slot : Nat) (d : Done) : (s.finish c ring slot d).free = s.free := rfl
@[simp] theorem State.finish_pending (s : State) (c ring slot : Nat) (d : Done) : (s.finish c ring slot d).pending = s.pending := rfl
@[simp] theorem State.finish_rg (s : State) (c ring slot : Nat) (d : Done) (g : Fld) (q : Nat) : (s.finish c ring slot d).rg g q = s.rg g q := rfl
@[simp] theorem State.finish_rb (s : State) (c ring slot : Nat) (d : Done) (g : Fld) (q : Nat) : (s.finish c ring slot d).rb g q = s.rb g q := rfl
@[simp] theorem State.finish_byte (s : State) (c ring slot : Nat) (d : Done) (g : Nat) : (s.finish c ring slot d).byte g = s.byte g := rfl

/-! ### setStake -/

@[simp] theorem State.setStake_regs (s : State) (st : Nat) (x : StakeSt) : (s.setStake st x).regs = s.regs := rfl
@[simp] theorem State.setStake_latch (s : State) (st : Nat) (x : StakeSt) : (s.setStake st x).latch = s.latch := rfl
@[simp] theorem State.setStake_staged (s : State) (st : Nat) (x : StakeSt) : (s.setStake st x).staged = s.staged := rfl
@[simp] theorem State.setStake_mem (s : State) (st : Nat) (x : StakeSt) : (s.setStake st x).mem = s.mem := rfl
@[simp] theorem State.setStake_imgBase (s : State) (st : Nat) (x : StakeSt) : (s.setStake st x).imgBase = s.imgBase := rfl
@[simp] theorem State.setStake_trays (s : State) (st : Nat) (x : StakeSt) : (s.setStake st x).trays = s.trays := rfl
@[simp] theorem State.setStake_accs (s : State) (st : Nat) (x : StakeSt) : (s.setStake st x).accs = s.accs := rfl
@[simp] theorem State.setStake_satFlags (s : State) (st : Nat) (x : StakeSt) : (s.setStake st x).satFlags = s.satFlags := rfl
@[simp] theorem State.setStake_rnd (s : State) (st : Nat) (x : StakeSt) : (s.setStake st x).rnd = s.rnd := rfl
@[simp] theorem State.setStake_wtab (s : State) (st : Nat) (x : StakeSt) : (s.setStake st x).wtab = s.wtab := rfl
@[simp] theorem State.setStake_polls (s : State) (st : Nat) (x : StakeSt) : (s.setStake st x).polls = s.polls := rfl
@[simp] theorem State.setStake_budget (s : State) (st : Nat) (x : StakeSt) : (s.setStake st x).budget = s.budget := rfl
@[simp] theorem State.setStake_rings (s : State) (st : Nat) (x : StakeSt) : (s.setStake st x).rings = s.rings := rfl
@[simp] theorem State.setStake_ctxs (s : State) (st : Nat) (x : StakeSt) : (s.setStake st x).ctxs = s.ctxs := rfl
@[simp] theorem State.setStake_waiting (s : State) (st : Nat) (x : StakeSt) : (s.setStake st x).waiting = s.waiting := rfl
@[simp] theorem State.setStake_weaves (s : State) (st : Nat) (x : StakeSt) : (s.setStake st x).weaves = s.weaves := rfl
@[simp] theorem State.setStake_nextWeave (s : State) (st : Nat) (x : StakeSt) : (s.setStake st x).nextWeave = s.nextWeave := rfl
@[simp] theorem State.setStake_parts (s : State) (st : Nat) (x : StakeSt) : (s.setStake st x).parts = s.parts := rfl
@[simp] theorem State.setStake_lists (s : State) (st : Nat) (x : StakeSt) : (s.setStake st x).lists = s.lists := rfl
@[simp] theorem State.setStake_ms (s : State) (st : Nat) (x : StakeSt) : (s.setStake st x).ms = s.ms := rfl
@[simp] theorem State.setStake_flt (s : State) (st : Nat) (x : StakeSt) : (s.setStake st x).flt = s.flt := rfl
@[simp] theorem State.setStake_sfu (s : State) (st : Nat) (x : StakeSt) : (s.setStake st x).sfu = s.sfu := rfl
@[simp] theorem State.setStake_plait (s : State) (st : Nat) (x : StakeSt) : (s.setStake st x).plait = s.plait := rfl
@[simp] theorem State.setStake_wale (s : State) (st : Nat) (x : StakeSt) : (s.setStake st x).wale = s.wale := rfl
@[simp] theorem State.setStake_coll (s : State) (st : Nat) (x : StakeSt) : (s.setStake st x).coll = s.coll := rfl
@[simp] theorem State.setStake_vid (s : State) (st : Nat) (x : StakeSt) : (s.setStake st x).vid = s.vid := rfl
@[simp] theorem State.setStake_hdl (s : State) (st : Nat) (x : StakeSt) : (s.setStake st x).hdl = s.hdl := rfl
@[simp] theorem State.setStake_pwr (s : State) (st : Nat) (x : StakeSt) : (s.setStake st x).pwr = s.pwr := rfl
@[simp] theorem State.setStake_out (s : State) (st : Nat) (x : StakeSt) : (s.setStake st x).out = s.out := rfl
@[simp] theorem State.setStake_numVfs (s : State) (st : Nat) (x : StakeSt) : (s.setStake st x).numVfs = s.numVfs := rfl
@[simp] theorem State.setStake_free (s : State) (st : Nat) (x : StakeSt) : (s.setStake st x).free = s.free := rfl
@[simp] theorem State.setStake_pending (s : State) (st : Nat) (x : StakeSt) : (s.setStake st x).pending = s.pending := rfl
@[simp] theorem State.setStake_rg (s : State) (st : Nat) (x : StakeSt) (g : Fld) (q : Nat) : (s.setStake st x).rg g q = s.rg g q := rfl
@[simp] theorem State.setStake_rb (s : State) (st : Nat) (x : StakeSt) (g : Fld) (q : Nat) : (s.setStake st x).rb g q = s.rb g q := rfl
@[simp] theorem State.setStake_byte (s : State) (st : Nat) (x : StakeSt) (g : Nat) : (s.setStake st x).byte g = s.byte g := rfl

/-! ### setWeave -/

@[simp] theorem State.setWeave_regs (s : State) (w : Weave) : (s.setWeave w).regs = s.regs := rfl
@[simp] theorem State.setWeave_latch (s : State) (w : Weave) : (s.setWeave w).latch = s.latch := rfl
@[simp] theorem State.setWeave_staged (s : State) (w : Weave) : (s.setWeave w).staged = s.staged := rfl
@[simp] theorem State.setWeave_mem (s : State) (w : Weave) : (s.setWeave w).mem = s.mem := rfl
@[simp] theorem State.setWeave_imgBase (s : State) (w : Weave) : (s.setWeave w).imgBase = s.imgBase := rfl
@[simp] theorem State.setWeave_trays (s : State) (w : Weave) : (s.setWeave w).trays = s.trays := rfl
@[simp] theorem State.setWeave_accs (s : State) (w : Weave) : (s.setWeave w).accs = s.accs := rfl
@[simp] theorem State.setWeave_satFlags (s : State) (w : Weave) : (s.setWeave w).satFlags = s.satFlags := rfl
@[simp] theorem State.setWeave_rnd (s : State) (w : Weave) : (s.setWeave w).rnd = s.rnd := rfl
@[simp] theorem State.setWeave_wtab (s : State) (w : Weave) : (s.setWeave w).wtab = s.wtab := rfl
@[simp] theorem State.setWeave_polls (s : State) (w : Weave) : (s.setWeave w).polls = s.polls := rfl
@[simp] theorem State.setWeave_budget (s : State) (w : Weave) : (s.setWeave w).budget = s.budget := rfl
@[simp] theorem State.setWeave_rings (s : State) (w : Weave) : (s.setWeave w).rings = s.rings := rfl
@[simp] theorem State.setWeave_ctxs (s : State) (w : Weave) : (s.setWeave w).ctxs = s.ctxs := rfl
@[simp] theorem State.setWeave_waiting (s : State) (w : Weave) : (s.setWeave w).waiting = s.waiting := rfl
@[simp] theorem State.setWeave_nextWeave (s : State) (w : Weave) : (s.setWeave w).nextWeave = s.nextWeave := rfl
@[simp] theorem State.setWeave_stakes (s : State) (w : Weave) : (s.setWeave w).stakes = s.stakes := rfl
@[simp] theorem State.setWeave_parts (s : State) (w : Weave) : (s.setWeave w).parts = s.parts := rfl
@[simp] theorem State.setWeave_lists (s : State) (w : Weave) : (s.setWeave w).lists = s.lists := rfl
@[simp] theorem State.setWeave_ms (s : State) (w : Weave) : (s.setWeave w).ms = s.ms := rfl
@[simp] theorem State.setWeave_flt (s : State) (w : Weave) : (s.setWeave w).flt = s.flt := rfl
@[simp] theorem State.setWeave_sfu (s : State) (w : Weave) : (s.setWeave w).sfu = s.sfu := rfl
@[simp] theorem State.setWeave_plait (s : State) (w : Weave) : (s.setWeave w).plait = s.plait := rfl
@[simp] theorem State.setWeave_wale (s : State) (w : Weave) : (s.setWeave w).wale = s.wale := rfl
@[simp] theorem State.setWeave_coll (s : State) (w : Weave) : (s.setWeave w).coll = s.coll := rfl
@[simp] theorem State.setWeave_vid (s : State) (w : Weave) : (s.setWeave w).vid = s.vid := rfl
@[simp] theorem State.setWeave_hdl (s : State) (w : Weave) : (s.setWeave w).hdl = s.hdl := rfl
@[simp] theorem State.setWeave_pwr (s : State) (w : Weave) : (s.setWeave w).pwr = s.pwr := rfl
@[simp] theorem State.setWeave_out (s : State) (w : Weave) : (s.setWeave w).out = s.out := rfl
@[simp] theorem State.setWeave_numVfs (s : State) (w : Weave) : (s.setWeave w).numVfs = s.numVfs := rfl
@[simp] theorem State.setWeave_free (s : State) (w : Weave) : (s.setWeave w).free = s.free := rfl
@[simp] theorem State.setWeave_pending (s : State) (w : Weave) : (s.setWeave w).pending = s.pending := rfl
@[simp] theorem State.setWeave_rg (s : State) (w : Weave) (g : Fld) (q : Nat) : (s.setWeave w).rg g q = s.rg g q := rfl
@[simp] theorem State.setWeave_rb (s : State) (w : Weave) (g : Fld) (q : Nat) : (s.setWeave w).rb g q = s.rb g q := rfl
@[simp] theorem State.setWeave_byte (s : State) (w : Weave) (g : Nat) : (s.setWeave w).byte g = s.byte g := rfl

/-! ### setPort -/

@[simp] theorem State.setPort_regs (s : State) (n : Nat) (p : PortSt) : (s.setPort n p).regs = s.regs := rfl
@[simp] theorem State.setPort_latch (s : State) (n : Nat) (p : PortSt) : (s.setPort n p).latch = s.latch := rfl
@[simp] theorem State.setPort_staged (s : State) (n : Nat) (p : PortSt) : (s.setPort n p).staged = s.staged := rfl
@[simp] theorem State.setPort_mem (s : State) (n : Nat) (p : PortSt) : (s.setPort n p).mem = s.mem := rfl
@[simp] theorem State.setPort_imgBase (s : State) (n : Nat) (p : PortSt) : (s.setPort n p).imgBase = s.imgBase := rfl
@[simp] theorem State.setPort_trays (s : State) (n : Nat) (p : PortSt) : (s.setPort n p).trays = s.trays := rfl
@[simp] theorem State.setPort_accs (s : State) (n : Nat) (p : PortSt) : (s.setPort n p).accs = s.accs := rfl
@[simp] theorem State.setPort_satFlags (s : State) (n : Nat) (p : PortSt) : (s.setPort n p).satFlags = s.satFlags := rfl
@[simp] theorem State.setPort_rnd (s : State) (n : Nat) (p : PortSt) : (s.setPort n p).rnd = s.rnd := rfl
@[simp] theorem State.setPort_wtab (s : State) (n : Nat) (p : PortSt) : (s.setPort n p).wtab = s.wtab := rfl
@[simp] theorem State.setPort_polls (s : State) (n : Nat) (p : PortSt) : (s.setPort n p).polls = s.polls := rfl
@[simp] theorem State.setPort_budget (s : State) (n : Nat) (p : PortSt) : (s.setPort n p).budget = s.budget := rfl
@[simp] theorem State.setPort_rings (s : State) (n : Nat) (p : PortSt) : (s.setPort n p).rings = s.rings := rfl
@[simp] theorem State.setPort_ctxs (s : State) (n : Nat) (p : PortSt) : (s.setPort n p).ctxs = s.ctxs := rfl
@[simp] theorem State.setPort_waiting (s : State) (n : Nat) (p : PortSt) : (s.setPort n p).waiting = s.waiting := rfl
@[simp] theorem State.setPort_weaves (s : State) (n : Nat) (p : PortSt) : (s.setPort n p).weaves = s.weaves := rfl
@[simp] theorem State.setPort_nextWeave (s : State) (n : Nat) (p : PortSt) : (s.setPort n p).nextWeave = s.nextWeave := rfl
@[simp] theorem State.setPort_stakes (s : State) (n : Nat) (p : PortSt) : (s.setPort n p).stakes = s.stakes := rfl
@[simp] theorem State.setPort_parts (s : State) (n : Nat) (p : PortSt) : (s.setPort n p).parts = s.parts := rfl
@[simp] theorem State.setPort_lists (s : State) (n : Nat) (p : PortSt) : (s.setPort n p).lists = s.lists := rfl
@[simp] theorem State.setPort_ms (s : State) (n : Nat) (p : PortSt) : (s.setPort n p).ms = s.ms := rfl
@[simp] theorem State.setPort_flt (s : State) (n : Nat) (p : PortSt) : (s.setPort n p).flt = s.flt := rfl
@[simp] theorem State.setPort_sfu (s : State) (n : Nat) (p : PortSt) : (s.setPort n p).sfu = s.sfu := rfl
@[simp] theorem State.setPort_plait (s : State) (n : Nat) (p : PortSt) : (s.setPort n p).plait = s.plait := rfl
@[simp] theorem State.setPort_coll (s : State) (n : Nat) (p : PortSt) : (s.setPort n p).coll = s.coll := rfl
@[simp] theorem State.setPort_vid (s : State) (n : Nat) (p : PortSt) : (s.setPort n p).vid = s.vid := rfl
@[simp] theorem State.setPort_hdl (s : State) (n : Nat) (p : PortSt) : (s.setPort n p).hdl = s.hdl := rfl
@[simp] theorem State.setPort_pwr (s : State) (n : Nat) (p : PortSt) : (s.setPort n p).pwr = s.pwr := rfl
@[simp] theorem State.setPort_out (s : State) (n : Nat) (p : PortSt) : (s.setPort n p).out = s.out := rfl
@[simp] theorem State.setPort_numVfs (s : State) (n : Nat) (p : PortSt) : (s.setPort n p).numVfs = s.numVfs := rfl
@[simp] theorem State.setPort_free (s : State) (n : Nat) (p : PortSt) : (s.setPort n p).free = s.free := rfl
@[simp] theorem State.setPort_pending (s : State) (n : Nat) (p : PortSt) : (s.setPort n p).pending = s.pending := rfl
@[simp] theorem State.setPort_rg (s : State) (n : Nat) (p : PortSt) (g : Fld) (q : Nat) : (s.setPort n p).rg g q = s.rg g q := rfl
@[simp] theorem State.setPort_rb (s : State) (n : Nat) (p : PortSt) (g : Fld) (q : Nat) : (s.setPort n p).rb g q = s.rb g q := rfl
@[simp] theorem State.setPort_byte (s : State) (n : Nat) (p : PortSt) (g : Nat) : (s.setPort n p).byte g = s.byte g := rfl

/-! ### queueChange -/

@[simp] theorem State.queueChange_regs (s : State) (c : CfgChange) : (s.queueChange c).regs = s.regs := rfl
@[simp] theorem State.queueChange_latch (s : State) (c : CfgChange) : (s.queueChange c).latch = s.latch := rfl
@[simp] theorem State.queueChange_staged (s : State) (c : CfgChange) : (s.queueChange c).staged = s.staged := rfl
@[simp] theorem State.queueChange_mem (s : State) (c : CfgChange) : (s.queueChange c).mem = s.mem := rfl
@[simp] theorem State.queueChange_imgBase (s : State) (c : CfgChange) : (s.queueChange c).imgBase = s.imgBase := rfl
@[simp] theorem State.queueChange_trays (s : State) (c : CfgChange) : (s.queueChange c).trays = s.trays := rfl
@[simp] theorem State.queueChange_accs (s : State) (c : CfgChange) : (s.queueChange c).accs = s.accs := rfl
@[simp] theorem State.queueChange_satFlags (s : State) (c : CfgChange) : (s.queueChange c).satFlags = s.satFlags := rfl
@[simp] theorem State.queueChange_rnd (s : State) (c : CfgChange) : (s.queueChange c).rnd = s.rnd := rfl
@[simp] theorem State.queueChange_wtab (s : State) (c : CfgChange) : (s.queueChange c).wtab = s.wtab := rfl
@[simp] theorem State.queueChange_polls (s : State) (c : CfgChange) : (s.queueChange c).polls = s.polls := rfl
@[simp] theorem State.queueChange_budget (s : State) (c : CfgChange) : (s.queueChange c).budget = s.budget := rfl
@[simp] theorem State.queueChange_rings (s : State) (c : CfgChange) : (s.queueChange c).rings = s.rings := rfl
@[simp] theorem State.queueChange_ctxs (s : State) (c : CfgChange) : (s.queueChange c).ctxs = s.ctxs := rfl
@[simp] theorem State.queueChange_waiting (s : State) (c : CfgChange) : (s.queueChange c).waiting = s.waiting := rfl
@[simp] theorem State.queueChange_weaves (s : State) (c : CfgChange) : (s.queueChange c).weaves = s.weaves := rfl
@[simp] theorem State.queueChange_nextWeave (s : State) (c : CfgChange) : (s.queueChange c).nextWeave = s.nextWeave := rfl
@[simp] theorem State.queueChange_stakes (s : State) (c : CfgChange) : (s.queueChange c).stakes = s.stakes := rfl
@[simp] theorem State.queueChange_parts (s : State) (c : CfgChange) : (s.queueChange c).parts = s.parts := rfl
@[simp] theorem State.queueChange_lists (s : State) (c : CfgChange) : (s.queueChange c).lists = s.lists := rfl
@[simp] theorem State.queueChange_ms (s : State) (c : CfgChange) : (s.queueChange c).ms = s.ms := rfl
@[simp] theorem State.queueChange_flt (s : State) (c : CfgChange) : (s.queueChange c).flt = s.flt := rfl
@[simp] theorem State.queueChange_sfu (s : State) (c : CfgChange) : (s.queueChange c).sfu = s.sfu := rfl
@[simp] theorem State.queueChange_plait (s : State) (c : CfgChange) : (s.queueChange c).plait = s.plait := rfl
@[simp] theorem State.queueChange_wale (s : State) (c : CfgChange) : (s.queueChange c).wale = s.wale := rfl
@[simp] theorem State.queueChange_coll (s : State) (c : CfgChange) : (s.queueChange c).coll = s.coll := rfl
@[simp] theorem State.queueChange_vid (s : State) (c : CfgChange) : (s.queueChange c).vid = s.vid := rfl
@[simp] theorem State.queueChange_pwr (s : State) (c : CfgChange) : (s.queueChange c).pwr = s.pwr := rfl
@[simp] theorem State.queueChange_out (s : State) (c : CfgChange) : (s.queueChange c).out = s.out := rfl
@[simp] theorem State.queueChange_numVfs (s : State) (c : CfgChange) : (s.queueChange c).numVfs = s.numVfs := rfl
@[simp] theorem State.queueChange_free (s : State) (c : CfgChange) : (s.queueChange c).free = s.free := rfl
@[simp] theorem State.queueChange_pending (s : State) (c : CfgChange) : (s.queueChange c).pending = s.pending := rfl
@[simp] theorem State.queueChange_rg (s : State) (c : CfgChange) (g : Fld) (q : Nat) : (s.queueChange c).rg g q = s.rg g q := rfl
@[simp] theorem State.queueChange_rb (s : State) (c : CfgChange) (g : Fld) (q : Nat) : (s.queueChange c).rb g q = s.rb g q := rfl
@[simp] theorem State.queueChange_byte (s : State) (c : CfgChange) (g : Nat) : (s.queueChange c).byte g = s.byte g := rfl

/-! ### What an update makes of its own field -/

/-- A register field reads as it was written, cut to its width. -/
@[simp] theorem State.rset_rg_same (s : State) (f : Fld) (i v : Nat) : (s.rset f i v).rg f i = v % 2 ^ f.width :=
  smGetD_smPut_same _ _ _ _

/-- Two elements of fields have different keys unless both the fields' numbers and the elements agree. -/
theorem Fld.key_ne {f g : Fld} {i j : Nat} (hf : f.id < 1024) (hg : g.id < 1024) (h : f.id ≠ g.id ∨ i ≠ j) :
    f.key i ≠ g.key j := by
  unfold Fld.key
  omega

/-- Writing an element of a register field leaves every other element. -/
theorem State.rset_rg_ne (s : State) {f g : Fld} {i j : Nat} (v : Nat) (hf : f.id < 1024) (hg : g.id < 1024)
    (h : f.id ≠ g.id ∨ i ≠ j) : (s.rset f i v).rg g j = s.rg g j :=
  smGetD_smPut_ne _ _ _ _ (Fld.key_ne hf hg h)

/-- A byte of memory reads as it was written. -/
@[simp] theorem State.setByte_byte_same (s : State) (a : Nat) (b : Byte) : (s.setByte a b).byte a = b :=
  smGetD_smPut_same _ _ _ _

/-- Writing a byte of memory leaves every other byte. -/
theorem State.setByte_byte_ne (s : State) {a c : Nat} (b : Byte) (h : a ≠ c) : (s.setByte a b).byte c = s.byte c :=
  smGetD_smPut_ne _ _ _ _ h

@[simp] theorem State.setRnd_rnd (s : State) (r : RoundSt) : (s.setRnd r).rnd = r := rfl
@[simp] theorem State.emit_out (s : State) (o : Output) : (s.emit o).out = s.out ++ [o] := rfl
@[simp] theorem State.setCtx_ctx_same (s : State) (c : Nat) (x : CtxSt) : (s.setCtx c x).ctx c = x :=
  smGetD_smPut_same _ _ _ _
theorem State.setCtx_ctx_ne (s : State) {c d : Nat} (x : CtxSt) (h : c ≠ d) : (s.setCtx c x).ctx d = s.ctx d :=
  smGetD_smPut_ne _ _ _ _ h
@[simp] theorem State.setRing_ring_same (s : State) (c n : Nat) (r : RingSt) : (s.setRing c n r).ring c n = r :=
  smGetD_smPut_same _ _ _ _
@[simp] theorem State.setPort_port_same (s : State) (n : Nat) (p : PortSt) : (s.setPort n p).port n = p :=
  smGetD_smPut_same _ _ _ _
@[simp] theorem State.setStake_stakes_same (s : State) (st : Nat) (x : StakeSt) :
    smGet (s.setStake st x).stakes st = some x :=
  smGet_smSet_same _ _ _

end Sys2Proof.Machine
end

