-- ==== Sys2Proof/Laws/Fields.lean ====
section
/-!
SUPPORT. The register map: every field has its own number, and what writing a field or a register does to
every field.
-/

namespace Sys2Proof.Machine

theorem allFlds_lt : allFlds.all (fun f => decide (f.id < 1024)) = true := by decide +kernel

theorem allFlds_nodup : (allFlds.map Fld.id).Nodup := by decide +kernel

theorem Fld.id_lt {f : Fld} (h : f ∈ allFlds) : f.id < 1024 := by
  simpa using List.all_eq_true.mp allFlds_lt f h

theorem Fld.eq_of_id {f g : Fld} (hf : f ∈ allFlds) (hg : g ∈ allFlds) (h : f.id = g.id) : f = g :=
  List.inj_on_of_nodup_map allFlds_nodup hf hg h

theorem Reg.mem_flds {r : Reg} {f : Fld} (h : f ∈ r.flds) : f ∈ allFlds ∧ f.reg = r.id := by
  simpa [Reg.flds] using h

theorem Reg.flds_nodup (r : Reg) : (r.flds.map Fld.id).Nodup :=
  List.Nodup.sublist (List.Sublist.map _ List.filter_sublist) allFlds_nodup

/-- Reading a field after a field of the map was written. -/
theorem State.rset_rg (s : State) {f g : Fld} (i j v : Nat) (hf : f ∈ allFlds) (hg : g ∈ allFlds) :
    (s.rset f i v).rg g j = if f = g ∧ i = j then v % 2 ^ f.width else s.rg g j := by
  split
  · rename_i h
    obtain ⟨rfl, rfl⟩ := h
    simp
  · rename_i h
    refine s.rset_rg_ne v (Fld.id_lt hf) (Fld.id_lt hg) ?_
    by_contra hc
    push Not at hc
    exact h ⟨Fld.eq_of_id hf hg hc.1, hc.2⟩

theorem bits_mod (v lo w : Nat) : bits v lo w % 2 ^ w = bits v lo w := by
  unfold bits
  exact Nat.mod_mod _ _

/-- Writing a field changes register fields alone. -/
theorem State.writeField_regs (s : State) (o : Bool) (v i : Nat) (f : Fld) :
    s.writeField o v i f = { s with regs := (s.writeField o v i f).regs } := by
  unfold State.writeField
  dsimp only
  split
  · split <;> rfl
  · split <;> rfl
  · rfl

/-- Writing a field leaves every other element. -/
theorem State.writeField_ne (s : State) (o : Bool) (v i : Nat) {f g : Fld} {j : Nat} (hf : f ∈ allFlds)
    (hg : g ∈ allFlds) (h : f.id ≠ g.id ∨ i ≠ j) : (s.writeField o v i f).rg g j = s.rg g j := by
  unfold State.writeField
  dsimp only
  split
  · split
    · exact State.rset_rg_ne _ _ (Fld.id_lt hf) (Fld.id_lt hg) h
    · rfl
  · split
    · rfl
    · exact State.rset_rg_ne _ _ (Fld.id_lt hf) (Fld.id_lt hg) h
  · rfl

/-- Writing a field that is open to writes, by its access type (R14). -/
theorem State.writeField_same (s : State) (v i : Nat) (f : Fld) :
    (s.writeField true v i f).rg f i =
      match f.acc with
      | .rw => if takesValue f (bits v f.lo f.width) then bits v f.lo f.width else s.rg f i
      | .rw1c =>
        if bits v f.lo f.width = 0 then s.rg f i
        else (s.rg f i - Nat.land (bits v f.lo f.width) (s.rg f i)) % 2 ^ f.width
      | _ => s.rg f i := by
  unfold State.writeField
  dsimp only
  cases h : f.acc <;> simp only [] <;> split <;> simp_all [bits_mod]

/-- Writing the fields of a register changes register fields alone. -/
theorem State.writeFields_regs (o : Bool) (v i : Nat) (l : List Fld) (s : State) :
    l.foldl (fun s f => s.writeField o v i f) s =
      { s with regs := (l.foldl (fun s f => s.writeField o v i f) s).regs } := by
  induction l generalizing s with
  | nil => rfl
  | cons f l ih =>
    simp only [List.foldl_cons]
    rw [ih, State.writeField_regs]

/-- Writing some fields leaves every other element. -/
theorem State.writeFields_ne (o : Bool) (v i : Nat) (l : List Fld) (s : State) (hl : ∀ f ∈ l, f ∈ allFlds)
    {g : Fld} {j : Nat} (hg : g ∈ allFlds) (h : (∀ f ∈ l, f.id ≠ g.id) ∨ i ≠ j) :
    (l.foldl (fun s f => s.writeField o v i f) s).rg g j = s.rg g j := by
  induction l generalizing s with
  | nil => rfl
  | cons f l ih =>
    simp only [List.foldl_cons]
    rw [ih _ (fun x hx => hl x (List.mem_cons_of_mem _ hx)), State.writeField_ne _ _ _ _ (hl f (by simp)) hg]
    · exact h.imp (fun h => h f (by simp)) id
    · exact h.imp (fun h x hx => h x (List.mem_cons_of_mem _ hx)) id

/-- Writing some fields, each once, gives each what writing it alone gives. -/
theorem State.writeFields_same (v i : Nat) (l : List Fld) (s : State) (hl : ∀ f ∈ l, f ∈ allFlds)
    (hn : (l.map Fld.id).Nodup) {f : Fld} (hf : f ∈ l) :
    (l.foldl (fun s f => s.writeField true v i f) s).rg f i = (s.writeField true v i f).rg f i := by
  induction l generalizing s with
  | nil => simp at hf
  | cons g l ih =>
    simp only [List.map_cons, List.nodup_cons] at hn
    have hl' : ∀ x ∈ l, x ∈ allFlds := fun x hx => hl x (List.mem_cons_of_mem _ hx)
    simp only [List.foldl_cons]
    rcases List.mem_cons.mp hf with rfl | hf'
    · refine State.writeFields_ne true v i l _ hl' (hl f (by simp)) (.inl ?_)
      intro x hx hc
      exact hn.1 (hc ▸ List.mem_map_of_mem hx)
    · rw [ih _ hl' hn.2 hf', State.writeField_same, State.writeField_same]
      have : (s.writeField true v i g).rg f i = s.rg f i :=
        State.writeField_ne s true v i (hl g (by simp)) (hl' f hf') (.inl fun hc => hn.1 (hc ▸ List.mem_map_of_mem hf'))
      rw [this]

end Sys2Proof.Machine
end

