-- ==== Sys2Proof/Laws/Flit.lean ====
section
/-!
SUPPORT. Control symbols: what sending one leaves as it was, and what it puts on the boundary.
-/

namespace Sys2Proof.Machine

/-- A flit that leaves is on the boundary, and what follows it there is of its pair (R563, R564). -/
theorem State.emitFlit_out (s : State) (n h : Nat) (p : List Byte) :
    ∃ l, (s.emitFlit n h p).out = s.out ++ .flit n h p :: l := by
  unfold State.emitFlit
  dsimp only
  split
  · exact ⟨[], rfl⟩
  · exact ⟨[_], List.append_assoc ..⟩

/-- A flit that leaves changes the port and the boundary alone. -/
theorem State.emitFlit_eq (s : State) (n h : Nat) (p : List Byte) :
    s.emitFlit n h p = { s with wale := (s.emitFlit n h p).wale, out := (s.emitFlit n h p).out } := by
  unfold State.emitFlit
  dsimp only
  split <;> rfl

/-- Taking the credits of the next flit changes the port alone. -/
theorem State.takeOwed_eq (s : State) (n : Nat) : (s.takeOwed n).1 = { s with wale := (s.takeOwed n).1.wale } := by
  unfold State.takeOwed
  split <;> rfl

/-- Sending a control symbol changes its port and the boundary alone (R569, R575). -/
theorem State.sendSym_eq (s : State) (n : Nat) (y : Sym) :
    s.sendSym n y = { s with wale := (s.sendSym n y).wale, out := (s.sendSym n y).out } := by
  unfold State.sendSym
  dsimp only
  rw [State.emitFlit_eq, State.takeOwed_eq]
  rfl

/-- A control symbol that is sent is on the boundary, before the flit that carries it (R575, R576). -/
theorem State.sendSym_out (s : State) (n : Nat) (y : Sym) : ∃ l, (s.sendSym n y).out = s.out ++ .sym n y :: l := by
  unfold State.sendSym
  dsimp only
  obtain ⟨l, h⟩ := State.emitFlit_out ((s.emit (.sym n y)).takeOwed n).1 n
    (flitHeader 2 0 false false 1 (s.neighbour n) (s.rg R.waleCfgModuleId 0) 0
      ((s.port n).expect + 4095) ((s.emit (.sym n y)).takeOwed n).2.1 ((s.emit (.sym n y)).takeOwed n).2.2 false
      (natLe 240 (symWord y))) (natLe 240 (symWord y))
  rw [h, State.takeOwed_eq]
  exact ⟨_, List.append_assoc ..⟩

@[simp] theorem State.sendSym_regs (s : State) (n : Nat) (y : Sym) : (s.sendSym n y).regs = s.regs := by rw [State.sendSym_eq]
@[simp] theorem State.sendSym_latch (s : State) (n : Nat) (y : Sym) : (s.sendSym n y).latch = s.latch := by rw [State.sendSym_eq]
@[simp] theorem State.sendSym_staged (s : State) (n : Nat) (y : Sym) : (s.sendSym n y).staged = s.staged := by rw [State.sendSym_eq]
@[simp] theorem State.sendSym_mem (s : State) (n : Nat) (y : Sym) : (s.sendSym n y).mem = s.mem := by rw [State.sendSym_eq]
@[simp] theorem State.sendSym_imgBase (s : State) (n : Nat) (y : Sym) : (s.sendSym n y).imgBase = s.imgBase := by rw [State.sendSym_eq]
@[simp] theorem State.sendSym_trays (s : State) (n : Nat) (y : Sym) : (s.sendSym n y).trays = s.trays := by rw [State.sendSym_eq]
@[simp] theorem State.sendSym_accs (s : State) (n : Nat) (y : Sym) : (s.sendSym n y).accs = s.accs := by rw [State.sendSym_eq]
@[simp] theorem State.sendSym_satFlags (s : State) (n : Nat) (y : Sym) : (s.sendSym n y).satFlags = s.satFlags := by rw [State.sendSym_eq]
@[simp] theorem State.sendSym_rnd (s : State) (n : Nat) (y : Sym) : (s.sendSym n y).rnd = s.rnd := by rw [State.sendSym_eq]
@[simp] theorem State.sendSym_wtab (s : State) (n : Nat) (y : Sym) : (s.sendSym n y).wtab = s.wtab := by rw [State.sendSym_eq]
@[simp] theorem State.sendSym_polls (s : State) (n : Nat) (y : Sym) : (s.sendSym n y).polls = s.polls := by rw [State.sendSym_eq]
@[simp] theorem State.sendSym_budget (s : State) (n : Nat) (y : Sym) : (s.sendSym n y).budget = s.budget := by rw [State.sendSym_eq]
@[simp] theorem State.sendSym_rings (s : State) (n : Nat) (y : Sym) : (s.sendSym n y).rings = s.rings := by rw [State.sendSym_eq]
@[simp] theorem State.sendSym_ctxs (s : State) (n : Nat) (y : Sym) : (s.sendSym n y).ctxs = s.ctxs := by rw [State.sendSym_eq]
@[simp] theorem State.sendSym_waiting (s : State) (n : Nat) (y : Sym) : (s.sendSym n y).waiting = s.waiting := by rw [State.sendSym_eq]
@[simp] theorem State.sendSym_weaves (s : State) (n : Nat) (y : Sym) : (s.sendSym n y).weaves = s.weaves := by rw [State.sendSym_eq]
@[simp] theorem State.sendSym_nextWeave (s : State) (n : Nat) (y : Sym) : (s.sendSym n y).nextWeave = s.nextWeave := by rw [State.sendSym_eq]
@[simp] theorem State.sendSym_stakes (s : State) (n : Nat) (y : Sym) : (s.sendSym n y).stakes = s.stakes := by rw [State.sendSym_eq]
@[simp] theorem State.sendSym_parts (s : State) (n : Nat) (y : Sym) : (s.sendSym n y).parts = s.parts := by rw [State.sendSym_eq]
@[simp] theorem State.sendSym_lists (s : State) (n : Nat) (y : Sym) : (s.sendSym n y).lists = s.lists := by rw [State.sendSym_eq]
@[simp] theorem State.sendSym_ms (s : State) (n : Nat) (y : Sym) : (s.sendSym n y).ms = s.ms := by rw [State.sendSym_eq]
@[simp] theorem State.sendSym_flt (s : State) (n : Nat) (y : Sym) : (s.sendSym n y).flt = s.flt := by rw [State.sendSym_eq]
@[simp] theorem State.sendSym_sfu (s : State) (n : Nat) (y : Sym) : (s.sendSym n y).sfu = s.sfu := by rw [State.sendSym_eq]
@[simp] theorem State.sendSym_plait (s : State) (n : Nat) (y : Sym) : (s.sendSym n y).plait = s.plait := by rw [State.sendSym_eq]
@[simp] theorem State.sendSym_coll (s : State) (n : Nat) (y : Sym) : (s.sendSym n y).coll = s.coll := by rw [State.sendSym_eq]
@[simp] theorem State.sendSym_vid (s : State) (n : Nat) (y : Sym) : (s.sendSym n y).vid = s.vid := by rw [State.sendSym_eq]
@[simp] theorem State.sendSym_hdl (s : State) (n : Nat) (y : Sym) : (s.sendSym n y).hdl = s.hdl := by rw [State.sendSym_eq]
@[simp] theorem State.sendSym_pwr (s : State) (n : Nat) (y : Sym) : (s.sendSym n y).pwr = s.pwr := by rw [State.sendSym_eq]
@[simp] theorem State.sendSym_numVfs (s : State) (n : Nat) (y : Sym) : (s.sendSym n y).numVfs = s.numVfs := by rw [State.sendSym_eq]
@[simp] theorem State.sendSym_free (s : State) (n : Nat) (y : Sym) : (s.sendSym n y).free = s.free := by rw [State.sendSym_eq]
@[simp] theorem State.sendSym_pending (s : State) (n : Nat) (y : Sym) : (s.sendSym n y).pending = s.pending := by rw [State.sendSym_eq]
@[simp] theorem State.sendSym_rg (s : State) (n : Nat) (y : Sym) (g : Fld) (q : Nat) : (s.sendSym n y).rg g q = s.rg g q := by
  simp [State.rg]
@[simp] theorem State.sendSym_rb (s : State) (n : Nat) (y : Sym) (g : Fld) (q : Nat) : (s.sendSym n y).rb g q = s.rb g q := by
  simp [State.rb]
@[simp] theorem State.sendSym_byte (s : State) (n : Nat) (y : Sym) (a : Nat) : (s.sendSym n y).byte a = s.byte a := by
  simp [State.byte]
@[simp] theorem State.sendSym_upPorts (s : State) (n : Nat) (y : Sym) : (s.sendSym n y).upPorts = s.upPorts := by
  simp [State.upPorts]

end Sys2Proof.Machine
end

