-- ==== Sys2Proof/Laws/Memory.lean ====
section
/-!
SUPPORT. Bytes of memory: what storing bytes does to each byte, what accesses within one sector do, and that
every operation over memory keeps its canonical form.
-/

namespace Sys2Proof.Machine

/-! ### Storing bytes -/

/-- Storing bytes changes memory alone. -/
theorem State.setBytes_eq (s : State) (a : Nat) (bs : List Byte) :
    s.setBytes a bs = { s with mem := (s.setBytes a bs).mem } := by
  induction bs generalizing s a with
  | nil => rfl
  | cons b bs ih =>
    simp only [State.setBytes]
    rw [ih]
    rfl

/-- Bytes outside the stored ones are as before. -/
theorem State.setBytes_byte_out (s : State) (a : Nat) (bs : List Byte) {c : Nat} (h : c < a ∨ a + bs.length ≤ c) :
    (s.setBytes a bs).byte c = s.byte c := by
  induction bs generalizing s a with
  | nil => rfl
  | cons b bs ih =>
    simp only [State.setBytes]
    simp only [List.length_cons] at h
    rw [ih _ _ (by omega), State.setByte_byte_ne _ _ (by omega)]

/-- The stored bytes read back. -/
theorem State.setBytes_byte_in (s : State) (a : Nat) (bs : List Byte) {k : Nat} (h : k < bs.length) :
    (s.setBytes a bs).byte (a + k) = (bs[k]?).getD 0 := by
  induction bs generalizing s a k with
  | nil => simp at h
  | cons b bs ih =>
    simp only [State.setBytes]
    cases k with
    | zero => rw [State.setBytes_byte_out _ _ _ (by omega)]; simp
    | succ k =>
      have := ih (s.setByte a b) (a + 1) (k := k) (by simpa using h)
      rw [show a + (k + 1) = a + 1 + k by omega, this]
      simp

theorem memWf_iff {img : Nat} {m : List Host.Cell} :
    Memory.wf img m = true ↔ smWf m = true ∧ ∀ c ∈ m, c.2 ≠ memDflt img c.1 := by
  simp [Memory.wf]

/-- Storing a byte keeps the memory's canonical form. -/
theorem State.setByte_wf (s : State) (a : Nat) (b : Byte) (h : Memory.wf s.imgBase s.mem = true) :
    Memory.wf (s.setByte a b).imgBase (s.setByte a b).mem = true := by
  rw [memWf_iff] at *
  refine ⟨smWf_smPut _ _ _ h.1, fun c hc => ?_⟩
  rcases mem_smPut hc with ⟨rfl, hv⟩ | hc
  · exact hv
  · exact h.2 c hc

/-- Storing bytes keeps the memory's canonical form. -/
theorem State.setBytes_wf (s : State) (a : Nat) (bs : List Byte) (h : Memory.wf s.imgBase s.mem = true) :
    Memory.wf (s.setBytes a bs).imgBase (s.setBytes a bs).mem = true := by
  induction bs generalizing s a with
  | nil => exact h
  | cons b bs ih => exact ih _ _ (s.setByte_wf a b h)

/-- Forgetting bytes of memory keeps its canonical form. -/
theorem memWf_filter {img : Nat} {m : List Host.Cell} (p : Host.Cell → Bool) (h : Memory.wf img m = true) :
    Memory.wf img (m.filter p) = true := by
  rw [memWf_iff] at *
  exact ⟨smWf_filter _ h.1, fun c hc => h.2 c (List.mem_filter.mp hc).1⟩

/-! ### The Creel and charges leave memory -/

@[simp] theorem State.charge_mem (s : State) (c j n : Nat) : (s.charge c j n).mem = s.mem := by
  unfold State.charge
  split
  · rfl
  · split
    · split <;> rfl
    · rfl

@[simp] theorem State.charge_imgBase (s : State) (c j n : Nat) : (s.charge c j n).imgBase = s.imgBase := by
  unfold State.charge
  split
  · rfl
  · split
    · split <;> rfl
    · rfl

@[simp] theorem State.writeBack_mem (s : State) (x c : Nat) (l : List Line) : (s.writeBack x c l).mem = s.mem := by
  simp [State.writeBack]

@[simp] theorem State.writeBack_imgBase (s : State) (x c : Nat) (l : List Line) :
    (s.writeBack x c l).imgBase = s.imgBase := by
  simp [State.writeBack]

@[simp] theorem State.setLines_mem (s : State) (c k : Nat) (l : List Line) : (s.setLines c k l).mem = s.mem := rfl

@[simp] theorem State.setLines_imgBase (s : State) (c k : Nat) (l : List Line) :
    (s.setLines c k l).imgBase = s.imgBase := rfl

theorem State.creelSector_mem (s : State) (ctx c a : Nat) (w p na : Bool) :
    (s.creelSector ctx c a w p na).mem = s.mem ∧ (s.creelSector ctx c a w p na).imgBase = s.imgBase := by
  unfold State.creelSector
  dsimp only
  split
  · exact ⟨rfl, rfl⟩
  · split
    · simp
    · have h : (if (!w || p) = true then (s.radd R.creelMissesCount c 1).charge ctx 0 64 else s).mem = s.mem ∧
          (if (!w || p) = true then (s.radd R.creelMissesCount c 1).charge ctx 0 64 else s).imgBase = s.imgBase := by
        split <;> simp
      generalize (if (!w || p) = true then (s.radd R.creelMissesCount c 1).charge ctx 0 64 else s) = t at h ⊢
      split
      · exact h
      · simpa using h

/-- Noting an uncorrectable error leaves memory. -/
theorem State.noteUe_mem (s : State) (a : Nat) : (s.noteUe a).mem = s.mem ∧ (s.noteUe a).imgBase = s.imgBase := by
  unfold State.noteUe
  split
  · split
    · exact ⟨rfl, rfl⟩
    · unfold State.setPending
      split <;> exact ⟨rfl, rfl⟩
  · split <;> exact ⟨rfl, rfl⟩
  · exact ⟨rfl, rfl⟩
  · exact ⟨rfl, rfl⟩

/-- The note of a write that merges into a bad sector leaves memory. -/
theorem State.mergeNote_mem (s : State) (a n : Nat) :
    (s.mergeNote a n).mem = s.mem ∧ (s.mergeNote a n).imgBase = s.imgBase := by
  unfold State.mergeNote
  split
  · exact State.noteUe_mem ..
  · exact ⟨rfl, rfl⟩

/-- The side effects of an access leave memory. -/
theorem State.touch_mem (s : State) (ctx a n : Nat) (w na : Bool) :
    (s.touch ctx a n w na).mem = s.mem ∧ (s.touch ctx a n w na).imgBase = s.imgBase := by
  unfold State.touch
  split
  · split
    · exact ⟨rfl, rfl⟩
    · exact State.creelSector_mem ..
  · simp
  · split <;> exact ⟨rfl, rfl⟩
  · simp [State.emit]
  · exact ⟨rfl, rfl⟩

theorem State.byte_congr {s t : State} (h : t.mem = s.mem ∧ t.imgBase = s.imgBase) (a : Nat) : t.byte a = s.byte a := by
  simp [State.byte, h.1, h.2]

theorem State.bytes_congr {s t : State} (h : t.mem = s.mem ∧ t.imgBase = s.imgBase) (a n : Nat) :
    t.bytes a n = s.bytes a n := by
  simp [State.bytes, funext (State.byte_congr h)]

/-! ### Accesses within one sector -/

theorem spans_one {k a n : Nat} (hn : 0 < n) (h : a % k + n ≤ k) : spans k a n = [(a, n)] := by
  have hk : 0 < k := by omega
  unfold spans
  rw [show n / k + 2 = (n / k + 1) + 1 by omega, spansF, if_neg (by omega)]
  have : min n (k - a % k) = n := by omega
  simp only [this, Nat.sub_self]
  unfold spansF
  simp

/-- A read within one sector that meets no status answers its bytes. -/
theorem State.pread_one (s : State) (ctx a n : Nat) (na : Bool) (hn : 0 < n) (h : a % 64 + n ≤ 64)
    (hr : s.readStatus a n = 0) :
    s.pread ctx a n na = ⟨s.touch ctx a n false na, 0, n, s.bytes a n⟩ := by
  unfold State.pread
  rw [spans_one hn h]
  simp only [readPieces, hr, Nat.zero_add, List.nil_append]
  rw [State.bytes_congr (State.touch_mem ..)]

/-- A write within one sector that meets no status stores its bytes. -/
theorem State.pwrite_one (s : State) (ctx a : Nat) (bs : List Byte) (na : Bool) (hn : 0 < bs.length)
    (h : a % 64 + bs.length ≤ 64) (hw : s.writeStatus a = 0) :
    s.pwrite ctx a bs na = ⟨((s.mergeNote a bs.length).touch ctx a bs.length true na).storePiece a bs, 0, bs.length⟩ := by
  unfold State.pwrite
  rw [spans_one hn h]
  simp [writePieces, hw]

theorem State.storePiece_byte (s : State) (a : Nat) (bs : List Byte) (c : Nat) :
    (s.storePiece a bs).byte c = (s.setBytes a bs).byte c := by
  unfold State.storePiece
  dsimp only
  split <;> rfl

/-- After a write within one sector its bytes read as written and every other byte as before. -/
theorem State.pwrite_one_byte (s : State) (ctx a : Nat) (bs : List Byte) (na : Bool) (hn : 0 < bs.length)
    (h : a % 64 + bs.length ≤ 64) (hw : s.writeStatus a = 0) :
    (∀ k, k < bs.length → (s.pwrite ctx a bs na).s.byte (a + k) = (bs[k]?).getD 0) ∧
    (∀ c, c < a ∨ a + bs.length ≤ c → (s.pwrite ctx a bs na).s.byte c = s.byte c) := by
  rw [State.pwrite_one s ctx a bs na hn h hw]
  refine ⟨fun k hk => ?_, fun c hc => ?_⟩
  · rw [State.storePiece_byte, State.setBytes_byte_in _ _ _ hk]
  · rw [State.storePiece_byte, State.setBytes_byte_out _ _ _ hc, State.byte_congr (State.touch_mem ..),
      State.byte_congr (State.mergeNote_mem ..)]

/-- Storing a piece keeps the memory's canonical form. -/
theorem State.storePiece_wf (s : State) (a : Nat) (bs : List Byte) (h : Memory.wf s.imgBase s.mem = true) :
    Memory.wf (s.storePiece a bs).imgBase (s.storePiece a bs).mem = true := by
  have := s.setBytes_wf a bs h
  unfold State.storePiece
  dsimp only
  split <;> exact this

theorem writePieces_wf (ctx : Nat) (na : Bool) (ps : List (Nat × Nat)) (bs : List Byte) (r : Wr)
    (h : Memory.wf r.s.imgBase r.s.mem = true) :
    Memory.wf (writePieces ctx na ps bs r).s.imgBase (writePieces ctx na ps bs r).s.mem = true := by
  induction ps generalizing bs r with
  | nil => exact h
  | cons p ps ih =>
    obtain ⟨a, n⟩ := p
    unfold writePieces
    split
    · apply ih
      apply State.storePiece_wf
      rw [(State.touch_mem ..).1, (State.touch_mem ..).2, (State.mergeNote_mem ..).1, (State.mergeNote_mem ..).2]
      exact h
    · exact h

/-- A write by physical address keeps the memory's canonical form. -/
theorem State.pwrite_wf (s : State) (ctx a : Nat) (bs : List Byte) (na : Bool) (h : Memory.wf s.imgBase s.mem = true) :
    Memory.wf (s.pwrite ctx a bs na).s.imgBase (s.pwrite ctx a bs na).s.mem = true :=
  writePieces_wf _ _ _ _ _ h

end Sys2Proof.Machine
end

