-- ==== Sys2Proof/WellFormed.lean ====
section
/-!
DEFINITION. Which commands name things that the module has: numbers of contexts, rings, Stakes, ports and
other units in range (R2, R33, R110, R570, R609), values of the width of a register, and flits, samples and
transfers of the size the spec gives them.
-/

namespace Sys2Proof

/-- Whether the operands of a command are in range. -/
def wellFormed (i : Instr) : Bool :=
  match i with
  | .registerWrite fn off size _ value => decide (fn < 64 ∧ off % size = 0 ∧ off < 0x4000000 ∧ (size = 4 ∨ size = 8) ∧ value < 2 ^ 64)
  | .bar0BadAccess fn off size _ => decide (fn < 64 ∧ off < 0x4000000 ∧ (size = 1 ∨ size = 2 ∨ size = 4 ∨ size = 8))
  | .bar2Access log2 off n write data err => decide (30 ≤ log2 ∧ log2 ≤ 38 ∧ off + n ≤ 2 ^ log2 ∧ 0 < n ∧ n ≤ 4096 ∧ (write = false ∨ data.length = n) ∧ err < 140)
  | .glbBar2BaseWrite value fn => decide (value < 2 ^ 64 ∧ fn < 64)
  | .roundBoundary => true
  | .roundSync port count depth len s2 _ => decide (port < 16 ∧ count < 2 ^ 64 ∧ depth < 16 ∧ len < 2 ^ 16 ∧ s2 < 2 ^ 16)
  | .roundLen port len round => decide (port < 16 ∧ len < 2 ^ 16 ∧ round < 2 ^ 64)
  | .delayReqSend t1 => decide (t1 < 2 ^ 48)
  | .delayReq port id t2 t3 => decide (port < 16 ∧ id < 256 ∧ t2 < 2 ^ 48 ∧ t3 < 2 ^ 48)
  | .delayResp port id t2 t3 t4 => decide (port < 16 ∧ id < 256 ∧ t2 < 2 ^ 48 ∧ t3 < 2 ^ 48 ∧ t4 < 2 ^ 48)
  | .followerLock => true
  | .noLockRetry => true
  | .lossOfLock => true
  | .referenceLoss => true
  | .masterLock => true
  | .roundCountSet value => decide (value < 2 ^ 64)
  | .roleChange value => decide (value < 2 ^ 64)
  | .roundLenWrite value => decide (value < 2 ^ 64)
  | .stretch port origin n amount => decide (port < 16 ∧ origin < 2 ^ 16 ∧ n < 2 ^ 64 ∧ amount < 2 ^ 16)
  | .thermalStretchStep => true
  | .thermalStretchWithdraw => true
  | .powerStretchStep => true
  | .powerStretchWithdraw => true
  | .roundStretchReq amount => decide (amount < 2 ^ 64)
  | .weaveLoad value => decide (value < 2 ^ 64)
  | .weaveLoadDone => true
  | .weaveArm value => decide (value < 2 ^ 64)
  | .weaveStop value => decide (value < 2 ^ 64)
  | .weaveStopNow value => decide (value < 2 ^ 64)
  | .entryAccept idx _ => decide (idx < 65536)
  | .fltScheduleOverrun => true
  | .linkSlotFinish idx _ => decide (idx < 65536)
  | .contextPoll ctx failMask => decide (ctx < 4096 ∧ failMask < 2 ^ 5)
  | .packetFetch ctx ring _ => decide (ctx < 4096 ∧ ring < 4)
  | .fetchContinue ctx ring _ => decide (ctx < 4096 ∧ ring < 4)
  | .packetDispatch ctx ring => decide (ctx < 4096 ∧ ring < 4)
  | .nop ctx ring slot => decide (ctx < 4096 ∧ ring < 4 ∧ slot < 65536)
  | .eventSignal ctx ring slot => decide (ctx < 4096 ∧ ring < 4 ∧ slot < 65536)
  | .waitMem ctx ring => decide (ctx < 4096 ∧ ring < 4)
  | .writeImm ctx ring slot => decide (ctx < 4096 ∧ ring < 4 ∧ slot < 65536)
  | .timestamp ctx ring slot => decide (ctx < 4096 ∧ ring < 4 ∧ slot < 65536)
  | .copy ctx ring slot => decide (ctx < 4096 ∧ ring < 4 ∧ slot < 65536)
  | .fill ctx ring slot => decide (ctx < 4096 ∧ ring < 4 ∧ slot < 65536)
  | .weaveRun ctx ring slot => decide (ctx < 4096 ∧ ring < 4 ∧ slot < 65536)
  | .collective ctx ring slot => decide (ctx < 4096 ∧ ring < 4 ∧ slot < 65536)
  | .prefetch ctx ring slot => decide (ctx < 4096 ∧ ring < 4 ∧ slot < 65536)
  | .place ctx ring slot => decide (ctx < 4096 ∧ ring < 4 ∧ slot < 65536)
  | .tlbInvalidate ctx ring slot => decide (ctx < 4096 ∧ ring < 4 ∧ slot < 65536)
  | .sfuTableLoad ctx ring slot => decide (ctx < 4096 ∧ ring < 4 ∧ slot < 65536)
  | .sfuBind ctx ring slot => decide (ctx < 4096 ∧ ring < 4 ∧ slot < 65536)
  | .plaitTableLoad ctx ring slot => decide (ctx < 4096 ∧ ring < 4 ∧ slot < 65536)
  | .plaitSlotWrite key => decide (key < 288)
  | .vidOpen ctx ring slot => decide (ctx < 4096 ∧ ring < 4 ∧ slot < 65536)
  | .vidDecode ctx ring slot => decide (ctx < 4096 ∧ ring < 4 ∧ slot < 65536)
  | .vidEncode ctx ring slot => decide (ctx < 4096 ∧ ring < 4 ∧ slot < 65536)
  | .vidClose ctx ring slot => decide (ctx < 4096 ∧ ring < 4 ∧ slot < 65536)
  | .sessionClosed session => decide (session < 512)
  | .kvUnpark ctx ring slot => decide (ctx < 4096 ∧ ring < 4 ∧ slot < 65536)
  | .packetComplete ctx ring slot => decide (ctx < 4096 ∧ ring < 4 ∧ slot < 65536)
  | .msixModeratedSend ctx => decide (ctx < 4096)
  | .flushedRecordWrite ctx => decide (ctx < 4096)
  | .bind ctx fn => decide (ctx < 4096 ∧ fn < 64)
  | .activate ctx fn => decide (ctx < 4096 ∧ fn < 64)
  | .drain ctx fn => decide (ctx < 4096 ∧ fn < 64)
  | .drainDone ctx => decide (ctx < 4096)
  | .clearError ctx fn => decide (ctx < 4096 ∧ fn < 64)
  | .release ctx fn => decide (ctx < 4096 ∧ fn < 64)
  | .vfFlr vf => decide (0 < vf ∧ vf < 64)
  | .vfDisable n => decide (n < 64)
  | .partEnable part value fn => decide (part < 64 ∧ value < 2 ^ 64 ∧ fn < 64)
  | .partConfigWrite part reg value fn => decide (part < 64 ∧ reg < 4 ∧ value < 2 ^ 64 ∧ fn < 64)
  | .overBound _ => true
  | .contextUrgent ctx => decide (ctx < 4096)
  | .energyAttribution _ => true
  | .descriptorStart stake => decide (stake < 1536)
  | .descriptorComplete stake _ => decide (stake < 1536)
  | .weaveComplete _ => true
  | .mm stake _ => decide (stake < 1536)
  | .mmr stake _ => decide (stake < 1536)
  | .conv stake _ => decide (stake < 1536)
  | .wconv stake _ => decide (stake < 1536)
  | .attn stake _ => decide (stake < 1536)
  | .norm stake _ => decide (stake < 1536)
  | .smax stake _ => decide (stake < 1536)
  | .sfu stake _ => decide (stake < 1536)
  | .vprog stake _ => decide (stake < 1536)
  | .move stake _ => decide (stake < 1536)
  | .encode stake _ => decide (stake < 1536)
  | .decode stake _ => decide (stake < 1536)
  | .compact stake _ => decide (stake < 1536)
  | .build stake _ => decide (stake < 1536)
  | .crop stake _ => decide (stake < 1536)
  | .pool stake _ => decide (stake < 1536)
  | .scatterAdd stake _ => decide (stake < 1536)
  | .stepBegin stake _ => decide (stake < 1536)
  | .stepEnd stake _ => decide (stake < 1536)
  | .pselWrite stake _ => decide (stake < 1536)
  | .pselSelect stake _ => decide (stake < 1536)
  | .vadd stake => decide (stake < 1536)
  | .vsub stake => decide (stake < 1536)
  | .vmul stake => decide (stake < 1536)
  | .vfma stake => decide (stake < 1536)
  | .vmax stake => decide (stake < 1536)
  | .vmin stake => decide (stake < 1536)
  | .vabs stake => decide (stake < 1536)
  | .vneg stake => decide (stake < 1536)
  | .vcmplt stake => decide (stake < 1536)
  | .vcmpeq stake => decide (stake < 1536)
  | .vsel stake => decide (stake < 1536)
  | .vand stake => decide (stake < 1536)
  | .vor stake => decide (stake < 1536)
  | .vxor stake => decide (stake < 1536)
  | .viadd stake => decide (stake < 1536)
  | .vshl stake => decide (stake < 1536)
  | .vshr stake => decide (stake < 1536)
  | .vcvti stake => decide (stake < 1536)
  | .vcvtf stake => decide (stake < 1536)
  | .vsfu stake => decide (stake < 1536)
  | .vexp2 stake => decide (stake < 1536)
  | .vbcast stake => decide (stake < 1536)
  | .vidx stake => decide (stake < 1536)
  | .vrsum stake => decide (stake < 1536)
  | .vrmax stake => decide (stake < 1536)
  | .vmovs stake => decide (stake < 1536)
  | .vld stake => decide (stake < 1536)
  | .vst stake => decide (stake < 1536)
  | .vlda stake => decide (stake < 1536)
  | .vsta stake => decide (stake < 1536)
  | .saddi stake => decide (stake < 1536)
  | .slui stake => decide (stake < 1536)
  | .sori stake => decide (stake < 1536)
  | .sadd stake => decide (stake < 1536)
  | .smul stake => decide (stake < 1536)
  | .bne stake => decide (stake < 1536)
  | .blt stake => decide (stake < 1536)
  | .jmp stake => decide (stake < 1536)
  | .endProgram stake => decide (stake < 1536)
  | .vprogInstructionLimit stake => decide (stake < 1536)
  | .memMapout value fn => decide (value < 2 ^ 64 ∧ fn < 64)
  | .creelRequest who addr n write _ data err => decide (who.1 < 18 ∧ who.2 < 4096 ∧ addr < 2 ^ 48 ∧ 0 < n ∧ n ≤ 4096 ∧ (write = false ∨ data.length = n) ∧ err < 140)
  | .ceWindowEnd => true
  | .patrolScrubRead ch ca err _ => decide (ch < 1024 ∧ ca % 32 = 0 ∧ err ≤ 36)
  | .creelWaycfg coil value fn => decide (coil < 16 ∧ value < 2 ^ 64 ∧ fn < 64)
  | .scratchReady coil => decide (coil < 16)
  | .addRequest _ => true
  | .orderedAdd _ => true
  | .heldAddAdmit _ => true
  | .doneMarker _ => true
  | .hamperTimeout ch => decide (ch < 64)
  | .poolEnable pool value fn => decide (pool < 1024 ∧ value < 2 ^ 64 ∧ fn < 64)
  | .promote _ => true
  | .demote _ => true
  | .listCopy _ => true
  | .map _ => true
  | .unmap _ => true
  | .portEnable port value fn => decide (port < 16 ∧ value < 2 ^ 64 ∧ fn < 64)
  | .signalDetect port => decide (port < 16)
  | .trainingDone port => decide (port < 16)
  | .pairLock port _ polarity => decide (port < 16 ∧ polarity < 256)
  | .ident port id peerPort part _ _ => decide (port < 16 ∧ id < 2 ^ 16 ∧ peerPort < 16 ∧ part < 2 ^ 32)
  | .trainFail port => decide (port < 16)
  | .returnToDetect port => decide (port < 16)
  | .linkDown port reason => decide (port < 16 ∧ reason < 256)
  | .linkLoss port _ => decide (port < 16)
  | .flitReceive port k errs flit => decide (port < 16 ∧ k < 5 ∧ errs.1 ≤ 544 ∧ errs.2 ≤ 544 ∧ flit.length = 256)
  | .flitTransmit port => decide (port < 16)
  | .retry port seq => decide (port < 16 ∧ seq < 4096)
  | .retryTimer port => decide (port < 16)
  | .credit port slots => decide (port < 16 ∧ slots.length ≤ 4 ∧ slots.all (fun x => decide (x.1 < 64 ∧ x.2 < 1024)))
  | .writeMessage port vc => decide (port < 16 ∧ vc < 48)
  | .addMessage port vc => decide (port < 16 ∧ vc < 48)
  | .ltStart engine value fn _ => decide (engine < 1106 ∧ value < 2 ^ 64 ∧ fn < 128)
  | .ltStop engine value fn _ _ _ => decide (engine < 1106 ∧ value < 2 ^ 64 ∧ fn < 128)
  | .ltInject engine value fn => decide (engine < 1106 ∧ value < 2 ^ 64 ∧ fn < 128)
  | .ltDurationEnd engine _ _ _ => decide (engine < 1106)
  | .groupEnable group value fn => decide (group < 1024 ∧ value < 2 ^ 64 ∧ fn < 64)
  | .collStepStart chan => decide (chan < 32)
  | .coll port vc => decide (port < 16 ∧ vc < 48)
  | .collGrant port vc => decide (port < 16 ∧ vc < 48)
  | .collReadySend chan => decide (chan < 32)
  | .collStepComplete chan => decide (chan < 32)
  | .collTimeout chan => decide (chan < 32)
  | .frameParseStart cluster => decide (cluster < 2)
  | .frameParseDone cluster => decide (cluster < 2)
  | .frameReconstructStart cluster => decide (cluster < 2)
  | .frameReconstructDone cluster => decide (cluster < 2)
  | .faultRaise code kind _ part ctx status _ => decide (code < 2 ^ 16 ∧ kind < 10 ∧ part < 64 ∧ ctx < 4096 ∧ status < 2 ^ 16)
  | .fault port origin code round => decide (port < 16 ∧ origin < 2 ^ 16 ∧ code < 2 ^ 16 ∧ round < 2 ^ 64)
  | .mirrorWindowFinish idx _ => decide (idx < 65536)
  | .mirrorData port => decide (port < 16)
  | .mirrorDirectory port => decide (port < 16)
  | .mirrorCommit port => decide (port < 16)
  | .restoreStart value fn => decide (value < 2 ^ 64 ∧ fn < 64)
  | .restoreDone => true
  | .mirrorRestore port => decide (port < 16)
  | .mailboxPoll => true
  | .mctpMessage path _ => decide (1 ≤ path ∧ path ≤ 3)
  | .getInfo => true
  | .logRead => true
  | .fwStage => true
  | .fwStageDone => true
  | .fwActivate => true
  | .fwCommit => true
  | .cfgSet => true
  | .enrolKey => true
  | .channelRestore => true
  | .cfgImport => true
  | .revokeKey => true
  | .attest => true
  | .measure => true
  | .configStoreWrite => true
  | .sensorSample samples => decide (samples.length = 71)
  | .sensorLevelFall sensor => decide (sensor < 71)
  | .tripHold => true
  | .fltSupply _ _ => true
  | .supplyRearm => true
  | .off _ => true
  | .powerOn => true
  | .coldRstN => true
  | .perstAssert => true
  | .hotReset => true
  | .pfFlr => true
  | .moduleResetExit _ hbmFail hamper => decide (hbmFail.all (fun c => decide (c < 1024)) ∧ hamper.all (fun p => decide (p.1 < 64)))
  | .resetReady => true
  | .handleWatchdog => true
  | .handleRestart value fn => decide (value < 2 ^ 64 ∧ fn < 64)
  | .partitionReset value fn => decide (value < 2 ^ 64 ∧ fn < 64)
  | .idleEntry coil => decide (coil < 16)
  | .napEntry coil => decide (coil < 16)
  | .napExitDone coil => decide (coil < 16)
  | .hold value fn => decide (value < 2 ^ 64 ∧ fn < 64)
  | .holdEntered => true
  | .wake value fn => decide (value < 2 ^ 64 ∧ fn < 64)
  | .referenceReturn => true
  | .vfEnable n => decide (0 < n ∧ n < 64)
  | .handleRestartDone => true
  | .partitionResetDone part => decide (part < 64)
  | .inputReconnect _ => true

end Sys2Proof
end

