-- ==== Sys2Proof/Tests/Slice0.lean ====
section
/-!
SUPPORT. Small tests, each of one step or one computation: ill-formed commands are refused; layouts that
the spec states bit by bit; and, for every statement of `Certificates/Slice0/Obligations.lean` that has
hypotheses, a theorem `met_<statement>` that shows states and operands that meet them, clause by clause.
-/

namespace Sys2Proof.Tests

open Sys2Proof Sys2Proof.Machine

set_option linter.unusedVariables false
set_option linter.unnecessarySeqFocus false
set_option maxRecDepth 100000
set_option Elab.async false

/-! ### Well-formed commands -/

def illFormed0 : List Instr := [
  .registerWrite 64 0 4 false 0, .registerWrite 0 2 4 false 0, .registerWrite 0 0x4000000 4 false 0,
  .registerWrite 0 0 16 false 0, .registerWrite 0 0 4 false (2 ^ 64), .bar0BadAccess 64 0 4 false,
  .bar0BadAccess 0 0x4000000 4 false, .bar0BadAccess 0 0 3 false, .bar2Access 29 0 1 false [] 0,
  .bar2Access 39 0 1 false [] 0, .bar2Access 30 (2 ^ 30) 1 false [] 0, .bar2Access 30 0 0 false [] 0,
  .bar2Access 30 0 4097 false [] 0, .bar2Access 30 0 1 true [] 0, .bar2Access 30 0 1 false [] 140,
  .glbBar2BaseWrite (2 ^ 64) 0, .glbBar2BaseWrite 0 64, .roundSync 16 0 0 0 0 0, .roundSync 0 (2 ^ 64) 0 0 0 0,
  .roundSync 0 0 16 0 0 0, .roundSync 0 0 0 (2 ^ 16) 0 0, .roundSync 0 0 0 0 (2 ^ 16) 0, .roundLen 16 0 0,
  .roundLen 0 (2 ^ 16) 0, .roundLen 0 0 (2 ^ 64), .delayReqSend (2 ^ 48), .delayReq 16 0 0 0,
  .delayReq 0 256 0 0, .delayReq 0 0 (2 ^ 48) 0, .delayReq 0 0 0 (2 ^ 48), .delayResp 16 0 0 0 0,
  .delayResp 0 256 0 0 0, .delayResp 0 0 (2 ^ 48) 0 0, .delayResp 0 0 0 (2 ^ 48) 0, .delayResp 0 0 0 0 (2 ^ 48),
  .roundCountSet (2 ^ 64), .roleChange (2 ^ 64), .roundLenWrite (2 ^ 64), .stretch 16 0 0 0,
  .stretch 0 (2 ^ 16) 0 0, .stretch 0 0 (2 ^ 64) 0, .stretch 0 0 0 (2 ^ 16), .roundStretchReq (2 ^ 64),
  .weaveLoad (2 ^ 64), .weaveArm (2 ^ 64), .weaveStop (2 ^ 64), .weaveStopNow (2 ^ 64), .entryAccept 65536 0,
  .linkSlotFinish 65536 0, .contextPoll 4096 0, .contextPoll 0 (2 ^ 5), .packetFetch 4096 0 false,
  .packetFetch 0 4 false, .fetchContinue 4096 0 false, .fetchContinue 0 4 false, .packetDispatch 4096 0,
  .packetDispatch 0 4, .nop 4096 0 0, .nop 0 4 0, .nop 0 0 65536]

def illFormed1 : List Instr := [
  .eventSignal 4096 0 0, .eventSignal 0 4 0, .eventSignal 0 0 65536, .waitMem 4096 0, .waitMem 0 4,
  .writeImm 4096 0 0, .writeImm 0 4 0, .writeImm 0 0 65536, .timestamp 4096 0 0, .timestamp 0 4 0,
  .timestamp 0 0 65536, .copy 4096 0 0, .copy 0 4 0, .copy 0 0 65536, .fill 4096 0 0, .fill 0 4 0,
  .fill 0 0 65536, .weaveRun 4096 0 0, .weaveRun 0 4 0, .weaveRun 0 0 65536, .collective 4096 0 0,
  .collective 0 4 0, .collective 0 0 65536, .prefetch 4096 0 0, .prefetch 0 4 0, .prefetch 0 0 65536,
  .place 4096 0 0, .place 0 4 0, .place 0 0 65536, .tlbInvalidate 4096 0 0, .tlbInvalidate 0 4 0,
  .tlbInvalidate 0 0 65536, .sfuTableLoad 4096 0 0, .sfuTableLoad 0 4 0, .sfuTableLoad 0 0 65536,
  .sfuBind 4096 0 0, .sfuBind 0 4 0, .sfuBind 0 0 65536, .plaitTableLoad 4096 0 0, .plaitTableLoad 0 4 0,
  .plaitTableLoad 0 0 65536, .plaitSlotWrite 288, .vidOpen 4096 0 0, .vidOpen 0 4 0, .vidOpen 0 0 65536,
  .vidDecode 4096 0 0, .vidDecode 0 4 0, .vidDecode 0 0 65536, .vidEncode 4096 0 0, .vidEncode 0 4 0,
  .vidEncode 0 0 65536, .vidClose 4096 0 0, .vidClose 0 4 0, .vidClose 0 0 65536, .sessionClosed 512,
  .kvUnpark 4096 0 0, .kvUnpark 0 4 0, .kvUnpark 0 0 65536, .packetComplete 4096 0 0, .packetComplete 0 4 0]

def illFormed2 : List Instr := [
  .packetComplete 0 0 65536, .msixModeratedSend 4096, .flushedRecordWrite 4096, .bind 4096 0, .bind 0 64,
  .activate 4096 0, .activate 0 64, .drain 4096 0, .drain 0 64, .drainDone 4096, .clearError 4096 0,
  .clearError 0 64, .release 4096 0, .release 0 64, .vfFlr 0, .vfFlr 64, .vfDisable 64, .partEnable 64 0 0,
  .partEnable 0 (2 ^ 64) 0, .partEnable 0 0 64, .partConfigWrite 64 0 0 0, .partConfigWrite 0 4 0 0,
  .partConfigWrite 0 0 (2 ^ 64) 0, .partConfigWrite 0 0 0 64, .contextUrgent 4096, .descriptorStart 1536,
  .descriptorComplete 1536 0, .mm 1536 0, .mmr 1536 0, .conv 1536 0, .wconv 1536 0, .attn 1536 0, .norm 1536 0,
  .smax 1536 0, .sfu 1536 0, .vprog 1536 0, .move 1536 0, .encode 1536 0, .decode 1536 0, .compact 1536 0,
  .build 1536 0, .crop 1536 0, .pool 1536 0, .scatterAdd 1536 0, .stepBegin 1536 0, .stepEnd 1536 0,
  .pselWrite 1536 0, .pselSelect 1536 0, .vadd 1536, .vsub 1536, .vmul 1536, .vfma 1536, .vmax 1536, .vmin 1536,
  .vabs 1536, .vneg 1536, .vcmplt 1536, .vcmpeq 1536, .vsel 1536, .vand 1536]

def illFormed3 : List Instr := [
  .vor 1536, .vxor 1536, .viadd 1536, .vshl 1536, .vshr 1536, .vcvti 1536, .vcvtf 1536, .vsfu 1536, .vexp2 1536,
  .vbcast 1536, .vidx 1536, .vrsum 1536, .vrmax 1536, .vmovs 1536, .vld 1536, .vst 1536, .vlda 1536, .vsta 1536,
  .saddi 1536, .slui 1536, .sori 1536, .sadd 1536, .smul 1536, .bne 1536, .blt 1536, .jmp 1536, .endProgram 1536,
  .vprogInstructionLimit 1536, .memMapout (2 ^ 64) 0, .memMapout 0 64,
  .creelRequest (18, 0) 0 1 false false [] 0, .creelRequest (0, 4096) 0 1 false false [] 0,
  .creelRequest (0, 0) (2 ^ 48) 1 false false [] 0, .creelRequest (0, 0) 0 0 false false [] 0,
  .creelRequest (0, 0) 0 4097 false false [] 0, .creelRequest (0, 0) 0 1 true false [] 0,
  .creelRequest (0, 0) 0 1 false false [] 140, .patrolScrubRead 1024 0 0 false, .patrolScrubRead 0 1 0 false,
  .patrolScrubRead 0 0 37 false, .creelWaycfg 16 0 0, .creelWaycfg 0 (2 ^ 64) 0, .creelWaycfg 0 0 64,
  .scratchReady 16, .hamperTimeout 64, .poolEnable 1024 0 0, .poolEnable 0 (2 ^ 64) 0, .poolEnable 0 0 64,
  .portEnable 16 0 0, .portEnable 0 (2 ^ 64) 0, .portEnable 0 0 64, .signalDetect 16, .trainingDone 16,
  .pairLock 16 false 0, .pairLock 0 false 256, .ident 16 0 0 0 false false, .ident 0 (2 ^ 16) 0 0 false false,
  .ident 0 0 16 0 false false, .ident 0 0 0 (2 ^ 32) false false, .trainFail 16]

def illFormed4 : List Instr := [
  .returnToDetect 16, .linkDown 16 0, .linkDown 0 256, .linkLoss 16 false,
  .flitReceive 16 0 (0, 0) (List.replicate 256 0), .flitReceive 0 5 (0, 0) (List.replicate 256 0),
  .flitReceive 0 0 (545, 0) (List.replicate 256 0), .flitReceive 0 0 (0, 545) (List.replicate 256 0),
  .flitReceive 0 0 (0, 0) [], .flitTransmit 16, .retry 16 0, .retry 0 4096, .retryTimer 16, .credit 16 [],
  .credit 0 (List.replicate 5 (0, 0)), .credit 0 [(64, 0)], .credit 0 [(0, 1024)], .writeMessage 16 0,
  .writeMessage 0 48, .addMessage 16 0, .addMessage 0 48, .ltStart 1106 0 0 false, .ltStart 0 (2 ^ 64) 0 false,
  .ltStart 0 0 128 false, .ltStop 1106 0 0 0 0 [], .ltStop 0 (2 ^ 64) 0 0 0 [], .ltStop 0 0 128 0 0 [],
  .ltInject 1106 0 0, .ltInject 0 (2 ^ 64) 0, .ltInject 0 0 128, .ltDurationEnd 1106 0 0 [],
  .groupEnable 1024 0 0, .groupEnable 0 (2 ^ 64) 0, .groupEnable 0 0 64, .collStepStart 32, .coll 16 0,
  .coll 0 48, .collGrant 16 0, .collGrant 0 48, .collReadySend 32, .collStepComplete 32, .collTimeout 32,
  .frameParseStart 2, .frameParseDone 2, .frameReconstructStart 2, .frameReconstructDone 2,
  .faultRaise (2 ^ 16) 0 0 0 0 0 0, .faultRaise 0 10 0 0 0 0 0, .faultRaise 0 0 0 64 0 0 0,
  .faultRaise 0 0 0 0 4096 0 0, .faultRaise 0 0 0 0 0 (2 ^ 16) 0, .fault 16 0 0 0, .fault 0 (2 ^ 16) 0 0,
  .fault 0 0 (2 ^ 16) 0, .fault 0 0 0 (2 ^ 64), .mirrorWindowFinish 65536 0, .mirrorData 16, .mirrorDirectory 16,
  .mirrorCommit 16, .restoreStart (2 ^ 64) 0]

def illFormed5 : List Instr := [
  .restoreStart 0 64, .mirrorRestore 16, .mctpMessage 0 (.setEid 0), .mctpMessage 4 (.setEid 0),
  .sensorSample [], .sensorLevelFall 71, .moduleResetExit false [1024] [], .moduleResetExit false [] [(64, 0)],
  .handleRestart (2 ^ 64) 0, .handleRestart 0 64, .partitionReset (2 ^ 64) 0, .partitionReset 0 64,
  .idleEntry 16, .napEntry 16, .napExitDone 16, .hold (2 ^ 64) 0, .hold 0 64, .wake (2 ^ 64) 0, .wake 0 64,
  .vfEnable 0, .vfEnable 64, .partitionResetDone 64]

/-- One ill-formed command for each check of `wellFormed`: all are refused. -/
theorem test_wellFormed_refuses :
    (illFormed0 ++ illFormed1 ++ illFormed2 ++ illFormed3 ++ illFormed4 ++ illFormed5).all (fun i => !wellFormed i) = true := by decide +kernel

/-! ### Layouts that the spec states -/

/-- The check value of CRC-32C over the digits 1 to 9, which its definition gives (R574). -/
theorem test_crc32c : crc32c [0x31, 0x32, 0x33, 0x34, 0x35, 0x36, 0x37, 0x38, 0x39] = 0xE3069283 := by
  decide +kernel

/-- A flit header written out from R569's table: type 1, VC 3, first, not last, len 240, dst 0x413, src 0x19C,
seq 0x7A5, ack 0x3F0, credit VC 3 with 5 slots. -/
theorem test_flitHeader :
    flitHeader 1 3 true false 240 0x413 0x19C 0x7A5 0x3F0 3 5 false (List.replicate 240 0) % 2 ^ 96 =
      0x00050CFC1E940670104FC10D := by
  decide +kernel

/-- e lies between the FP32 words 402D_F854 and 402D_F855, and 2^3 is exact (R329, R341). -/
theorem test_functionBounds :
    f32Below (fnBounds 1 (f32 0x3F800000)).1 = 0x402DF854 ∧ f32Above (fnBounds 1 (f32 0x3F800000)).2 = 0x402DF855 ∧
    f32Below (fnBounds 2 (f32 0x40400000)).1 = 0x41000000 ∧ f32Above (fnBounds 2 (f32 0x40400000)).2 = 0x41000000 := by
  decide +kernel

/-- A codeword is a multiple of its generator: it has the value 0 at each root (R485, R563). -/
theorem test_codewords :
    hbmCode.roots = [1, 2, 4, 8] ∧
    hbmCode.roots.map (hbmCode.syndrome (hbmCode.codeword ((List.range 32).map (fun i => 7 * i)))) = [0, 0, 0, 0] ∧
    (waleCode.roots.map (waleCode.syndrome (waleCode.codeword [1, 1023, 0, 600]))).all (fun x => x == 0) = true := by
  decide +kernel

/-- x^8 is x^2 + x + 1 modulo the polynomial 0x07 (R564). -/
theorem test_crc8 : crc8 1 = 7 := by
  decide +kernel

/-! ### States for the witnesses -/

/-- The module as a module reset leaves it: ready and Active. -/
def up : State :=
  ({ State.reset with pwr := { State.reset.pwr with stage := 0, perst := false } }).rset R.pwrStatusReady 0 1
/-- One Wale port comes up. -/
def withPort (s : State) (n : Nat) : State := s.rset R.walePortStatusState n 5
/-- The module holds lock. -/
def lock (s : State) : State := s.rset R.roundStatusLocked 0 1
/-- A follower with its timing port up. -/
def fol : State := withPort (up.rset R.roundCfgRole 0 1) (up.rg R.roundCfgTimingPort 0)
/-- The Weave table's state: 1 loaded, 2 armed, 3 running. -/
def table (s : State) (n : Nat) : State := s.rset R.weaveStatusState 0 n
/-- The Round count. -/
def atRound (s : State) (n : Nat) : State := s.rset R.roundCountCount 0 n
/-- 4 GiB of HBM on the first Coil. -/
def hbm (s : State) : State :=
  ((s.rset R.memHbmEndEnd 0 0x100000000).rset R.memWindowSizeSize 0 0x100000000)
/-- Store an 8-byte number. -/
def put8 (s : State) (a v : Nat) : State := s.setBytes a (natLe 8 v)
/-- HBM mapped one to one for a context: its tables lie at 0x1000 and 0x2000, and one leaf covers 1 GiB. -/
def mapped (s : State) (c : Nat) : State :=
  put8 (put8 (((hbm s).rset R.ctxPtRootRoot c 1).rset R.ctxPtRootValid c 1) 0x1000 0x2001) 0x2000 7
/-- The leaf of `mapped`, as the cache holds it. -/
def leaf (c : Nat) : TlbEnt := ⟨c, 0, 30, 0, true, false⟩
/-- A context that could be activated: one ring, a completion ring and four counters. -/
def ready (s : State) (c : Nat) : State :=
  ((((((((((((mapped s c).rset R.ctxStatusState c 1).rset R.ctxRingCfgEnable (c * 4) 1).rset R.ctxRingCfgLog2Slots (c * 4) 6).rset
    R.ctxRingBaseBase (c * 4) 0x10000).rset R.ctxRingIdxAddrAddr (c * 4) 0x20000).rset R.ctxCqCfgEnable c 1).rset
    R.ctxCqCfgLog2Size c 7).rset R.ctxCqBaseBase c 0x30000).rset R.ctxCqIdxAddrAddr c 0x40000).rset
    R.ctxEventBaseBase c 0x50000).rset R.ctxEventCfgCount c 4)
/-- An ACTIVE context with its leaf cached and eight index reads left. -/
def active (s : State) (c : Nat) : State :=
  let s := (ready s c).rset R.ctxStatusState c 2
  { s with budget := [(0, 8)], ms := { s.ms with tlb := [0, 16, 17, 19].map (fun u => (u, [leaf c])) } }
/-- A packet in slot 0 of ring 0. -/
def pkt (w : Nat) : Packet := ⟨0, 0, w, 0, none, none⟩
/-- Its ring 0 holds a packet. -/
def queued (s : State) (c : Nat) (p : Packet) : State := s.setRing c 0 ⟨1, [p], false, none⟩
/-- The only dispatched packet of a context. -/
def dispatched (s : State) (c : Nat) (p : Packet) (fin : Option Done) : State :=
  s.setCtx c { CtxSt.empty with jobs := [⟨p, fin⟩] }
/-- A packet's fields beyond its header: value, lowest bit. -/
def word (op : Nat) (l : List (Nat × Nat)) : Nat := op + 0xFFFF * 2 ^ 16 + 0xFFFF * 2 ^ 128 + (l.map (fun e => e.1 * 2 ^ e.2)).sum
/-- Context 1 runs a packet of an op. -/
def runs (op : Nat) (l : List (Nat × Nat)) : State := dispatched (active up 1) 1 (pkt (word op l)) none
/-- An enabled group of a size, of partition 0. -/
def group (s : State) (g n : Nat) : State := (s.rset R.collGroupCfgEnable g 1).rset R.collGroupCfgSize g n
/-- Context 1 runs a packet on Stakes 0 to 23. -/
def runsOn (op : Nat) (l : List (Nat × Nat)) : State := (runs op l).rset R.partSkeinsSkeins 0 1
/-- A table of function 5 for BF16 keys, without a segment. -/
def sfuBody : Nat := 0x4C425453 + 2 ^ 32 + 5 * 2 ^ 40 + 8 * 2 ^ 56 + 64 * 2 ^ 176
/-- A clean header of a Plait table: one symbol set, two symbols of one bit. -/
def plaitObj : Nat := 0x42544C50 + 2 ^ 32 + 17 * 2 ^ 512
/-- An open record of a decoder session of 64 by 64 pixels on cluster 0. -/
def openRec : Nat := 1 + 2 ^ 8 + 64 * 2 ^ 24 + 64 * 2 ^ 40 + 0x70000 * 2 ^ 64 + 0x1000000 * 2 ^ 128
/-- A syntax buffer for cluster 0. -/
def syntaxBuf (s : State) : State := (s.rset R.vidSyntaxBaseBase 0 0x10000000).rset R.vidSyntaxSizeSize 0 402653184
/-- Session 5 is open for context 1. -/
def session (s : State) (st enc : Nat) : State :=
  (((s.rset R.vidSessionState 5 st).rset R.vidSessionContext 5 1).rset R.vidSessionEncode 5 enc).setSession 5 { VidSess.empty with maxW := 64, maxH := 64 }
/-- A decode record and an encode record. -/
def decodeRec : Nat := 2 + 2 ^ 8 + 0x62000 * 2 ^ 64 + 100 * 2 ^ 128 + 2 ^ 176 + 0x68000 * 2 ^ 256 + 0x100000 * 2 ^ 384 + 0x64000 * 2 ^ 448 + 0x65000 * 2 ^ 512
def encodeRec : Nat := 3 + 2 ^ 8 + 2 ^ 40 + 0x62000 * 2 ^ 64 + 2 ^ 128 + 2 ^ 144 + 2 ^ 240 + 64 * 2 ^ 256 + 64 * 2 ^ 272 + 0x64000 * 2 ^ 304
/-- Weave 3 of context 1 on Stakes 0 to 1, in job 0 of ring 0. -/
def weave : Weave := ⟨3, 1, 0, 0, 0, 0x80000, 0, 2, 100, 5, false, 0, 0, 0, 0, none, false, false, false, [], none⟩
/-- An add request of a Stake: INT32, one element. -/
def addReq : AddReq := ⟨4, 7, 0, 0, false, false, 0, 3, 0, false, 0x60000, 0x10, 0x10, 1, [0xFFFFFFFF]⟩
/-- One request waits at the adders. -/
def adding (r : AddReq) : State := { hbm up with ms := { up.ms with adds := [r] } }
/-- Hoop 3 of Coil 0 over 4 KiB, with tags below 5. -/
def hoop (s : State) : State :=
  ((((s.rset R.memHoopBaseBase 3 0x60000).rset R.memHoopLenLength 3 0x1000).rset R.memHoopCfgEnable 3 1).rset R.memHoopCfgN 3 5)
/-- A list of two entries at 0x60000, for context 1. -/
def pfList (n : Nat) : PfList := ⟨0, 1, 0, none, 0, 0, 0, 0x60000, n, 0, 0, none⟩
/-- Its first entry is e. -/
def listed (e : Nat) : State := { (active up 1).setBytes 0x60000 (natLe 32 e) with lists := [pfList 2] }
/-- The read of its first entry. -/
def rd0 (s : State) : Rd := s.vread (s.frontRq 1) 0x60000 32
/-- The state once that entry has taken effect. -/
def u0 (s : State) : State := ((rd0 s).s.applyEntry (s.frontRq 1) (leNat (rd0 s).bs)).1
/-- Pool 0 is enabled, with frames of 4 KiB and none free. -/
def pooled (s : State) : State := (s.rset R.poolCfgEnable 0 1).rset R.poolCfgFrameLog2 0 12
/-- Context 1's weave 3 has Stake 1 on descriptor 5, with its functions, its end and its vector program. -/
def stk (w : Nat) (b : List (Nat × Nat)) (fin : Option Done) (vp : Option VprogSt) : StakeSt :=
  ⟨3, 0x80000, 8, 6, [], 5, [], [⟨5, w, b, fin⟩], vp⟩
def onStake (w : Nat) (b : List (Nat × Nat)) (fin : Option Done) (vp : Option VprogSt) : State :=
  { active up 1 with weaves := [weave], stakes := [(1, stk w b fin vp)] }
/-- A descriptor of an op: fields as value, lowest bit. -/
def desc (op : Nat) (l : List (Nat × Nat)) : Nat := op + (l.map (fun e => e.1 * 2 ^ e.2)).sum
/-- Operand k in a space, as a field of a descriptor. -/
def opnd (k space addr : Nat) : Nat × Nat := (addr + space * 2 ^ 48 + 2 ^ 51, 256 + 128 * k)
/-- A descriptor runs on Stake 1. -/
def works (w : Nat) : State := onStake w [] none none
/-- A BF16 product of 1 by 1 by 1 from the Tray. -/
def gemm : List (Nat × Nat) := [opnd 0 0 0, opnd 1 0 64, (1, 72), (1, 80), (1, 88), (1, 128), (1, 144), (1, 160), (1, 68)]
/-- A convolution of one output, with a kernel of a width. -/
def convol (kw : Nat) : List (Nat × Nat) := gemm ++ [(kw, 768), (1, 776), (1, 784), (1, 792), (1, 808)]
/-- A grid of one BF16 element, out to the Tray. -/
def grid : List (Nat × Nat) := [opnd 0 0 0, opnd 2 0 128, (1, 72), (1, 88), (1, 128), (1, 144), (1, 71)]
/-- A batch table of one entry, in a step or not. -/
def batch (o : Nat) : Nat := 0x4B564254 + 2 ^ 32 + o * 2 ^ 48 + 127 * 2 ^ 81 + 3 * 2 ^ 88 + 2 ^ 96 + 0x61000 * 2 ^ 176
def batched (w o : Nat) : State := ((works w).rset R.poolCfgFrameLog2 0 12).setBytes 0x60000 (natLe 64 (batch o))
/-- A page select request. -/
def psel (kind : Nat) (l : List (Nat × Nat)) : Nat := desc 0x0F ([(kind, 768), (0x1800, 800)] ++ l)
/-- The state and the result of a work. -/
def okOf {a : Type} [Inhabited a] (g : Got a) : a := match g.2 with | .ok x => x | .error _ => default
/-- A vector program of Stake 1 that stands at i. -/
def vp (i : Nat) : VprogSt := ⟨5, [i, 0x3F], 0, 7, [(1, 3), (2, 64), (3, 3)], [(1, List.replicate 128 0x3F800000), (2, List.replicate 128 0x40400000)]⟩
def vpd : Nat := desc 0x09 [(1, 64), (1, 66)]
def vps (i : Nat) : State := onStake vpd [(5, 7)] none (some (vp i))
/-- The words of vector and scalar instructions: d 6, a 11, b 16, c 21 (lowest bits). -/
def vi (op d a b c : Nat) : Nat := op + d * 2 ^ 6 + a * 2 ^ 11 + b * 2 ^ 16 + c * 2 ^ 21
/-- A message waits in the module: its port, VC, source, header and data. -/
def msg (port vc src header : Nat) (data : List Byte) : Msg := ⟨7, port, vc, 0, src, header, data, 0, false, 1, 0⟩
def got (s : State) (m : Msg) : State := { s with wale := { s.wale with inbox := [m] } }
/-- A flit with its check word. -/
def flitOf (h : Nat) (pay : List Byte) : List Byte := natLe 16 (h + crc32c (natLe 12 h ++ natLe 4 0 ++ pay) * 2 ^ 96) ++ pay
/-- The first 12 bytes of the header of a DATA flit that is a whole message of 40 bytes on VC 3. -/
def flitHd (seq : Nat) : Nat := 1 + 3 * 2 ^ 2 + 2 ^ 8 + 2 ^ 9 + 40 * 2 ^ 10 + 9 * 2 ^ 34 + seq * 2 ^ 50
/-- A port on its way up. -/
def atState (k : Nat) (p : PortSt) : State := (up.rset R.walePortStatusState 15 k).setPort 15 p
/-- An operation of group 2 on channel 5, and a module that has it first. -/
def collOp (fed next : Nat) (steps : List CollStep) : CollOp :=
  ⟨1, 0, 0, word 0x30 [(5, 256), (2, 272), (1, 320), (fed, 327), (1, 328), (16, 336), (0x60000, 512), (0x70000, 576)], true, next, steps, [], [], 0⟩
def posted (o : CollOp) : State := (group (active up 1) 2 4).setOps 5 [o]
def collStep (w : List CollWant) : CollStep := ⟨1, 0, 0, none, [], w, [], [], []⟩
/-- A COLL message of rank 1 for step 1 of group 2. -/
def collMsg (grant : Nat) : Msg := msg 3 5 0 (2 + 2 ^ 8 + 4 * 2 ^ 80 + 2 * 2 ^ 128 + 2 ^ 170 + 2 ^ 178 + grant * 2 ^ 195) (natLe 4 1)
/-- An ALL_SUM that is through with its steps. -/
def collSum : CollOp := { collOp 0 6 [] with words := word 0x30 [(5, 256), (2, 272), (1, 328), (16, 336), (0x60000, 512), (0x70000, 576)] }
/-- A job of session 5 on cluster 0. -/
def vjob (w : Nat) (parsing busy : Bool) (ready : List VidFrame) : VidJob :=
  ⟨1, 0, 0, 5, w, [], parsing || busy, 0, parsing, ready, busy, 0, 0, 0, 0, 0, none, none⟩
def coding (enc : Nat) (j : VidJob) : State := (session (runs 0x71 [(5, 256)]) 1 enc).setVidJobs 0 [j]
def frame : VidFrame := ⟨1, 0, ⟨64, 64, 8, false, true, true, false, false, 0, [], false, [], [], 0, 1⟩, false, false, false, 0, 0⟩
/-- A mirror bank pair of 4 KiB each, and a MIRROR message of a part. -/
def banks (s : State) : State := (s.rset R.fltMirrorRxBaseBase 0 0x60000).rset R.fltMirrorRxLenLength 0 0x2000
def mirMsg (part : Nat) : Msg := msg 7 47 9 (3 + 0x80 * 2 ^ 32 + 8 * 2 ^ 80 + 5 * 2 ^ 128 + part * 2 ^ 160) (natLe 8 77)
/-- The Handle is up, and it serves a request. -/
def upH : State := (hbm up).rset R.hdlStatusState 0 1
def serve (path op : Nat) (l : List Byte) : State := { upH with hdl := { upH.hdl with req := some ⟨path, 9, op, l⟩ } }
def req (path op : Nat) (l : List Byte) : HdlReq := ⟨path, 9, op, l⟩
def mailed (op : Byte) : State := { upH with hdl := { upH.hdl with mailbox := [(0, 7), (2, op)] } }
/-- The copy in force holds a record. -/
def recd (s : State) (tag : Nat) (v : List Byte) : State :=
  { s with hdl := { s.hdl with copy0 := ⟨3, true, [⟨tag, 2, v⟩]⟩ } }
/-- The state of a next outcome. -/
def nextOf (o : Host.Outcome State Fault Refusal) : State := match o with | .next t => t | _ => up
def isNext (o : Host.Outcome State Fault Refusal) : Bool := match o with | .next _ => true | _ => false
theorem eq_nextOf {o : Host.Outcome State Fault Refusal} (h : isNext o = true) : o = .next (nextOf o) := by
  cases o <;> simp_all [isNext, nextOf]
theorem pair_eq {α β : Type} {p : α × β} {b : β} (h : p.2 = b) : p = (p.1, b) := by
  cases p; simp_all
/-- A Weave table of one entry that is being loaded. -/
def loading1 : State :=
  { put8 (put8 ((hbm up).rset R.weaveCtrlCycleLen 0 10) 0 (9 + 2 * 2 ^ 24)) 8 (2 ^ 16) with wtab := { up.wtab with loading := some (1, 0, 10) } }
/-- An index object of 16 bytes with one raw block, in the Tray at 4096. -/
def packed (w : Nat) : State := (works w).setTrayN 1 4096 (natLe 144
  (1267650600246676148874656173136 + 65 * 2 ^ 512 + (65 * 2 ^ 24 + 2566472073 * 2 ^ 32) * 2 ^ 1024))
/-- A signed table, a job that is parsed, one that is coded, an image that is imported, the module at its boot. -/
def signedW : Nat := word 0x60 [(0x60000, 256), (1, 320), (7, 304)]
def signed : State := (runsOn 0x60 [(0x60000, 256), (1, 320), (7, 304)]).setBytes 0x60000 (natLe 64 sfuBody)
def parseJob : VidJob := vjob decodeRec true false []
def parsing : State := coding 0 parseJob
/-- An encode record of 2 by 2 samples. -/
def encodeSmall : Nat := 3 + 2 ^ 8 + 2 ^ 40 + 0x62000 * 2 ^ 64 + 2 ^ 128 + 2 ^ 144 + 2 * 2 ^ 240 + 2 * 2 ^ 256 + 2 * 2 ^ 272
def encJob : VidJob := { vjob (encodeSmall + 0x68000 * 2 ^ 384 + (2 ^ 32 - 1) * 2 ^ 448) false true [] with records := 2 }
def importBytes : List Byte := natLe 2948 ((0x47464E43 + 2 ^ 32) * 2 ^ 256)
def importReq : HdlReq := req 1 0x23 (natLe 8 0x60000 ++ natLe 8 2948)
def importing : State := (serve 1 0x23 (natLe 8 0x60000 ++ natLe 8 2948)).setBytes 0x60020 (natLe 64 (0x47464E43 + 2 ^ 32))
def booting : State := { State.reset with pwr := { State.reset.pwr with perst := false, stage := 2 } }
/-- A read and a write of a piece that finds its place, as Booleans, and the place as the statements name it. -/
def readOk (s : State) (rq : Rq) (va n pa : Nat) : Bool :=
  s.rb R.ctxPtRootValid rq.ctx && decide (0 < n ∧ va % 64 + n ≤ 64) &&
  (s.leaf rq va).any (fun l => decide ((s.walk rq.ctx va false).2 = some l ∧ l.pa % 4096 = 0 ∧ 12 ≤ l.log2 ∧
    pa = l.pa + va % 2 ^ l.log2)) && decide (s.readStatus pa n = 0 ∧ s.ms.bad = [] ∧ s.ms.badWords = [])
def writeOk (s : State) (rq : Rq) (va n pa : Nat) : Bool :=
  s.rb R.ctxPtRootValid rq.ctx && decide (0 < n ∧ va % 64 + n ≤ 64) &&
  (s.leaf rq va).any (fun l => decide ((s.walk rq.ctx va true).2 = some l ∧ l.write = true ∧ l.pa % 4096 = 0 ∧
    12 ≤ l.log2 ∧ pa = l.pa + va % 2 ^ l.log2)) && decide (s.writeStatus pa = 0)
theorem readAt {s : State} {rq : Rq} {va n pa : Nat} (h : readOk s rq va n pa = true) : s.ReadableAt rq va n pa := by
  simp only [readOk, Bool.and_eq_true, decide_eq_true_eq, Option.any_eq_true] at h
  obtain ⟨⟨⟨h, a, b⟩, l, hl, hw⟩, hr⟩ := h
  exact ⟨h, a, b, ⟨l, hl, hw⟩, hr⟩
theorem writeAt {s : State} {rq : Rq} {va n pa : Nat} (h : writeOk s rq va n pa = true) : s.WritableAt rq va n pa := by
  simp only [writeOk, Bool.and_eq_true, decide_eq_true_eq, Option.any_eq_true] at h
  obtain ⟨⟨⟨h, a, b⟩, l, hl, hw⟩, hr⟩ := h
  exact ⟨h, a, b, ⟨l, hl, hw⟩, hr⟩
/-- The Rounds that have passed since reset. -/
def atBeat (s : State) (n : Nat) : State := { s with rnd := { s.rnd with beats := n } }
/-- Pool 0 has one frame of 4 KiB in HBM and one in Hamper; context 1 has frame i mapped at 1 GiB, through a table of
4 KiB leaves. -/
def framed (s : State) (i : Nat) : State :=
  (put8 (put8 (put8 (((((((s.rset R.poolCfgEnable 0 1).rset R.poolCfgFrameLog2 0 12).rset R.poolHbmBase 0 0x400000).rset
    R.poolHampBase 0 0x100000000000).rset R.poolCountsHbmFrames 0 1).rset R.poolCountsHampFrames 0 1).rset R.poolTableBase 0 0x300000 |>.rset
    R.hampEndEnd 0 0x100000001000 |>.rset R.hampChanStateLive 0 1) 0x2008 0x3001) 0x3000 0x4001) 0x4000 (7 + (if i = 0 then 0x400000 else 0x100000000000))).setBytes
    (0x300000 + 32 * i) (natLe 32 (1 + 2 ^ 16 + 0x40000000 * 2 ^ 64 + (2 ^ 64 - 1) * 2 ^ 192))
/-- The frame i of pool 0 is free. -/
def freed (s : State) (i : Nat) : State :=
  let s := s.setBytes (0x300000 + 32 * i) (natLe 32 freeRec)
  { s with ms := if i = 0 then { s.ms with hbmFree := [(0, [0])] } else { s.ms with hampFree := [(0, [1])] } }
/-- A packet that moves the page at 1 GiB to a tier. -/
def placing (tier : Nat) : List (Nat × Nat) := [(0x40000000, 256), (4096, 320), (tier, 360)]
/-- An entry for the page at 1 GiB or the next one. -/
def pfEntry (op page : Nat) : Nat := op + (0x40000000 + 4096 * page) * 2 ^ 64 + 4096 * 2 ^ 128
/-- The next descriptor of the stream of Stake 1. -/
def streamed (s : State) (w : Nat) : State := s.setBytes (0x80000 + 128 * 6) (natLe 128 w)
/-- An operand that lies whole in the Tray, walked densely. -/
def trayOk (w k f inner outer : Nat) : Bool :=
  decide ((dOpnd w k).space = 0 ∧ (dOpnd w k).packed = false ∧ isMx f = false ∧ fmtBits f % 8 = 0 ∧ (dOpnd w k).agen = 0 ∧
    (dOpnd w k).addr % 2 ^ 21 + inner * outer * (fmtBits f / 8) ≤ trayBytes)
theorem dense_lt {inner outer : Nat} {u v : List Nat} {e : Int} (h : (agenDense inner outer).offset u v = some e) :
    0 ≤ e ∧ e < inner * outer := by
  simp only [agenDense, Agen.offset, agenSum, Option.ite_none_right_eq_some, Bool.and_eq_true, decide_eq_true_eq,
    Option.some.injEq, Bool.and_true] at h
  obtain ⟨⟨⟨a, b⟩, c, d⟩, rfl⟩ := h
  generalize hx : ((u.headD 0 * 1 + v.headD 0 * 1 : Nat) : Int) - (0 : Nat) = x at *
  generalize hy : ((u.tail.headD 0 * 1 + v.tail.headD 0 * 1 : Nat) : Int) - (0 : Nat) = y at *
  push_cast at *
  constructor
  · nlinarith [mul_nonneg c (le_trans a b.le)]
  · nlinarith
theorem trayAt {wv : Weave} {w k f inner outer : Nat} (h : trayOk w k f inner outer = true) :
    TrayOperand wv w k f inner outer := by
  simp only [trayOk, decide_eq_true_eq] at h
  obtain ⟨a, b, c, d, g, l⟩ := h
  refine ⟨a, b, c, d, fun u v e he => ?_⟩
  simp only [agenOf, g, if_true] at he
  obtain ⟨p, q⟩ := dense_lt he
  generalize fmtBits f / 8 = n at *
  have hq : (e + 1) * n ≤ inner * outer * n := mul_le_mul_of_nonneg_right (by omega) (by omega)
  have hp : 0 ≤ e * n := mul_nonneg p (by omega)
  zify at l
  constructor <;> push_cast at * <;> omega
theorem outAt {wv : Weave} {w inner outer : Nat}
    (h : (trayOk w 2 (dFmtOut w) inner outer && !bit w 656 && bits w 648 8 == 0) = true) : TrayOutput wv w inner outer := by
  simp only [Bool.and_eq_true, Bool.not_eq_true', beq_iff_eq] at h
  exact ⟨trayAt h.1.1, h.1.2, h.2⟩
/-- The batch table of a step, with the length table's entry; a table without summaries; an entry of one token. -/
def stepped (w h l : Nat) : State :=
  (((works w).rset R.poolCfgFrameLog2 0 12).setBytes 0x60000 (natLe 64 h)).setBytes 0x61000 (natLe 32 l)
def oneToken : Nat := 2 ^ 32 + 2 ^ 64
def scatterW (more : List (Nat × Nat)) : Nat :=
  desc 0x0E ([opnd 0 0 0, opnd 1 0 64, opnd 2 1 0x60000, (0x10, 72), (0x10, 80), (0x10, 88), (1, 128), (1, 144)] ++ more)
def mmrW : Nat := desc 0x02 (gemm ++ [opnd 2 1 0x60000, (1, 71), (5, 832), (2, 848), (9, 864)])
def fedState : State :=
  group ((works mmrW).setOps 5 [⟨1, 0, 1, word 0x30 [(5, 256), (2, 272), (9, 288), (1, 327), (1, 328), (1, 336),
    (0x60000, 512), (0x60000, 576)], false, 0, [], [], [], 0⟩]) 2 4
/-- A weave whose Stakes are through. -/
def ended (w : Weave) : State :=
  { dispatched (active up 1) 1 (pkt (word 0x20 [])) none with
    weaves := [w], stakes := [(0, ⟨3, 0x80000, 8, 8, [], 8, [], [], none⟩), (1, ⟨3, 0x80000, 8, 8, [], 8, [], [], none⟩)] }
/-- Ranks 1 to 3 of group 2 are module 9, behind port 3. -/
def routed (n : Nat) (o : CollOp) : State :=
  ((((put8 ((group (active up 1) 2 n).setOps 5 [o]) 0x50000 (9 * (2 ^ 16 + 2 ^ 32 + 2 ^ 48))).rset R.collGroupRanksBase 2
    0x50000).rset R.waleRoutePort1 2 3).rset R.waleRouteValid1 2 1)
/-- A flit with a header, and the state in which its port expects a sequence number. -/
def hdr (f : List Byte) : Nat := leNat (f.take 16)
def expecting (q : Nat) : State := (withPort up 15).setPort 15 { PortSt.empty with expect := q }
def wholeFlit : List Byte := flitOf (flitHd 4095) (natLe 240 (1 + 8 * 2 ^ 80))
/-- Context 1 takes RESTORE messages; one of 8 bytes for 0x60000. -/
def restorable : State := ((active up 1).rset R.fltMirrorCfgRestoreRx 0 1).rset R.fltMirrorCfgRestoreCtx 0 1
def restoreMsg (flags : Nat) (l : List Byte) : Msg := msg 7 47 9 (3 + flags + 0x60000 * 2 ^ 32 + 8 * 2 ^ 80 + 3 * 2 ^ 160) l
def inEpoch (s : State) (e : Nat) : State := { s with flt := { s.flt with rxEpoch := some e } }
def commitMsg (ports : Nat) : Msg := msg 7 47 9 (3 + 5 * 2 ^ 128 + 2 * 2 ^ 160 + ports * 2 ^ 162) []
/-- A WRITE and an ADD message of 8 bytes. -/
def writeMsg : Msg := msg 3 4 9 (0 + 2 ^ 16 + 0x60FF8 * 2 ^ 32 + 8 * 2 ^ 80) (natLe 8 77)
def addMsg : Msg := msg 3 4 9 (1 + 0x10 * 2 ^ 8 + 2 ^ 16 + 0x60FFC * 2 ^ 32 + 4 * 2 ^ 80 + 5 * 2 ^ 128) (natLe 4 77)
def collOp32 : CollOp :=
  { collOp 0 2 [collStep [⟨1, 0, 0, 4, 0, true⟩]] with words := word 0x30 [(5, 256), (2, 272), (1, 320), (0x10, 328), (16, 336), (0x60000, 512), (0x70000, 576)] }
theorem goodAt {s : State} {a n : Nat}
    (h : s.ms.bad = [] ∧ s.ms.badWords = [] ∧ ∀ p ∈ spans 64 a n, s.readStatus p.1 p.2 = 0) : s.GoodAt a n := h
/-- Descriptors of one DECODE and one COMPACT of the object of `packed`. -/
def decodeW : Nat := desc 0x0B [(1, 768), opnd 0 0 4096, opnd 2 0 0, (16, 832)]
def compactW : Nat := desc 0x0B [(2, 768), opnd 0 0 4096, opnd 2 0 0, (16, 832)]
def indexHd : Nat := 1267650600246676148874656173136
/-- Context 1's Creel counter and a coefficient of 1 for it, at a Round of attribution. -/
def metered : State :=
  { up with regs := [(R.roundCountCount.id, 1024), (R.partAcctCreelCount.id + 1024, 5), (R.ctxStatusState.id + 1024, 2),
      (R.partEnergyCoefCoef.id + 7 * 1024, 0)] ++ (below 7).map (fun k => (R.partEnergyCoefCoef.id + k * 1024, 1)) }
/-- A directory message beyond the directory's place. -/
def mirFar : Msg := msg 7 47 9 (3 + 131200 * 2 ^ 32 + 8 * 2 ^ 80 + 5 * 2 ^ 128 + 1 * 2 ^ 160) (natLe 8 77)
/-- Decode jobs: one whose stream has been read, one with a damaged frame, one with two frames, one with a frame of one row. -/
def beginJob : VidJob := vjob (decodeRec - 40 * 2 ^ 128) false false []
def startJob : VidJob := { vjob decodeRec false false [] with begun := true }
def hurt : Config.FrameInfo := { frame.info with damage := 1 }
def hurtJob : VidJob := vjob (decodeRec + 2 ^ 17) true false []
def twoFrames : VidJob := vjob decodeRec false true [frame, frame]
def rowFrame : VidFrame := { frame with info := { frame.info with width := 16, height := 1, outputs := [0] } }
def oneRow : VidJob := vjob (decodeRec + 2 ^ 24 + 2 ^ 160) false true [rowFrame, frame]
/-- An encode job that has used more than its buffer; the rows that a job reads and the frame that it codes. -/
def shortJob : VidJob := { vjob encodeSmall false true [] with used := 1 }
def encoding0 : State := coding 1 encJob
def encoding1 : State := coding 1 shortJob
def rowsOf (s : State) (j : VidJob) : List (List Nat) :=
  match (s.encRows 0 { j with busy := false } j.done).2 with
  | .ok r => r
  | .error _ => []
def curOf (s : State) (j : VidJob) : List Nat :=
  [b2n (s.encKey j), bits j.words 32 8, bits j.words 40 2, bits j.words 256 16, bits j.words 272 16, bits j.words 22 1] ++
    encSamples j.words j.colour (rowsOf s j)
/-- A frame whose records lie past the module's memory. -/
def farFrame : VidFrame := { frame with place := 2 ^ 46, len := 1 }
def farJob : VidJob := vjob decodeRec false true [farFrame]

/-! ### Witnesses -/

theorem met_stepRunsTheFrontCommand :
    (∃ (c : Instr) (cs : List Instr) (s : State), s.pending = c :: cs) ∧ (∃ (s : State) (nbits : Nat) (w : Nat),
      s.pending = []) :=
  ⟨⟨.roundBoundary, [], { up with pending := [.roundBoundary] }, by decide +kernel⟩,
  ⟨up, 8, 5, by decide +kernel⟩⟩

theorem met_resetLeavesEveryFieldAtItsResetValue :
    (∃ (c : Nat), c ≠ 0) :=
  ⟨4095, by decide +kernel⟩

theorem met_everyStepKeepsTheCanonicalForm :
    (∃ (s : State) (t : State), s.canonical = true ∧ step s = .next t) :=
  ⟨up, up, by decide +kernel, rfl⟩

theorem met_registerWriteFollowsTheAccessTypes :
    (∃ (s : State) (off : Nat) (v : Nat) (i : Nat) (r : Reg) (u : State), regAt off = some (r, i) ∧ r.bytes = 4 ∧ off %
      4 = 0 ∧ off < 0x4000000 ∧ inMailbox off = false ∧ v < 2 ^ 32 ∧ s.barOpen off = true ∧ s.rowWrite 0 r i v =
      some u) ∧ (∃ (s : State) (off : Nat) (v : Nat) (i : Nat) (r : Reg), regAt off = some (r, i) ∧ r.bytes = 4 ∧
      off % 4 = 0 ∧ off < 0x4000000 ∧ inMailbox off = false ∧ v < 2 ^ 32 ∧ s.barOpen off = true ∧ s.rowWrite 0 r i v
      = none ∧ s.takesWrite r i = true ∧ r.id ≠ R.ctxCtrlReg.id ∧ r.id ≠ R.hdlSensorReg.id ∧ r.id ≠
      R.fltRingCiReg.id ∧ r.id ≠ R.memScrubCfgReg.id ∧ r.id ≠ R.walePairReg.id) :=
  ⟨⟨up, 0x500000, 0x2020, 0, R.roundCfgReg, up.ran (execRoundLenWrite 0x2020 up), by decide +kernel⟩,
  ⟨up, 0x500030, 0xFFFFFFFF, 0, R.roundStretchCfgReg, by decide +kernel⟩⟩

theorem met_halvesOfWideRegistersAreLatchedAndStaged :
    (∃ (s : State) (u : State) (off : Nat) (i : Nat) (r : Reg), regAt off = some (r, i) ∧ regAt (off + 4) = none ∧
      r.bytes = 8 ∧ off % 8 = 0 ∧ off + 4 < 0x4000000 ∧ inMailbox off = false ∧ inMailbox (off + 4) = false ∧
      s.barOpen off = true ∧ u.barOpen (off + 4) = true ∧ smGet u.latch off = some (s.readReg r i / 2 ^ 32)) ∧ (∃ (s
      : State) (u : State) (off : Nat) (i : Nat) (r : Reg), regAt off = some (r, i) ∧ regAt (off + 4) = none ∧
      r.bytes = 8 ∧ off % 8 = 0 ∧ off + 4 < 0x4000000 ∧ inMailbox off = false ∧ inMailbox (off + 4) = false ∧
      s.barOpen off = true ∧ u.barOpen (off + 4) = true) ∧ (∃ (s : State) (off : Nat) (lo : Nat) (hi : Nat) (i :
      Nat) (r : Reg), regAt off = some (r, i) ∧ regAt (off + 4) = none ∧ r.bytes = 8 ∧ off % 8 = 0 ∧ off + 4 <
      0x4000000 ∧ inMailbox off = false ∧ inMailbox (off + 4) = false ∧ s.barOpen off = true ∧ s.barOpen (off + 4) =
      true ∧ lo < 2 ^ 32 ∧ hi < 2 ^ 32) :=
  ⟨⟨up, { up with latch := [(0x500100, 0)] }, 0x500100, 0, R.weaveImageBaseReg, by decide +kernel⟩,
  ⟨up, up, 0x500100, 0, R.weaveImageBaseReg, by decide +kernel⟩,
  ⟨up, 0x500100, 2 ^ 32 - 1, 5, 0, R.weaveImageBaseReg, by decide +kernel⟩⟩

theorem met_badAccessesAreRecordedAndBar2ReachesMemory :
    (∃ (s : State) (off : Nat) (size : Nat) (write : Bool), goodAccess off size = false ∧ off < 0x4000000 ∧ s.pwr.off =
      false) ∧ (∃ (s : State) (v : Nat), s.barOpen 0 = true) ∧ (∃ (s : State) (log2 : Nat) (off : Nat) (n : Nat)
      (data : List Byte), 30 ≤ log2 ∧ log2 ≤ 38 ∧ off + n ≤ 2 ^ log2 ∧ 0 < n ∧ s.bar2Addr log2 off % 64 + n ≤ 64 ∧
      data.length = n ∧ s.barOpen 0x600000 = true ∧ s.bar2Reaches (s.bar2Addr log2 off) = true ∧ s.writeStatus
      (s.bar2Addr log2 off) = 0) ∧ (∃ (s : State) (log2 : Nat) (off : Nat) (n : Nat) (data : List Byte), 30 ≤ log2 ∧
      log2 ≤ 38 ∧ off + n ≤ 2 ^ log2 ∧ 0 < n ∧ s.bar2Addr log2 off % 64 + n ≤ 64 ∧ data.length = n ∧ s.barOpen
      0x600000 = true ∧ s.bar2Reaches (s.bar2Addr log2 off) = true ∧ s.readStatus (s.bar2Addr log2 off) n = 0) ∧ (∃
      (s : State) (log2 : Nat) (off : Nat) (n : Nat) (data : List Byte), 30 ≤ log2 ∧ log2 ≤ 38 ∧ off + n ≤ 2 ^ log2
      ∧ 0 < n ∧ s.bar2Addr log2 off % 64 + n ≤ 64 ∧ data.length = n ∧ s.barOpen 0x600000 = true ∧ s.bar2Reaches
      (s.bar2Addr log2 off) = false) :=
  ⟨⟨up, 0x3FFFFFF, 2, true, by decide +kernel⟩,
  ⟨up, 2 ^ 64 - 1, by decide +kernel⟩,
  ⟨hbm up, 30, 2 ^ 30 - 1, 1, [5], by decide +kernel⟩,
  ⟨hbm up, 38, 0x1000, 64, List.replicate 64 1, by decide +kernel⟩,
  ⟨up, 30, 0, 1, [7], by decide +kernel⟩⟩

theorem met_roundBoundaryIncrementsTheCount :
    (∃ (s : State), s.pwr.off = false) :=
  ⟨lock (withPort up 15), by decide +kernel⟩

theorem met_onlyBoundaryLockAndColdResetMoveTheRoundCount :
    (∃ (c : Instr) (s : State) (t : State), exec c s = .next t ∧ t.round ≠ s.round) :=
  ⟨.off 0, atRound up 5, nextOf (exec (.off 0) (atRound up 5)), eq_nextOf (by decide +kernel), by decide +kernel⟩

theorem met_followerMeasuresItsTimingPort :
    (∃ (s : State) (count : Nat) (depth : Nat) (len : Nat) (s2 : Nat) (o : Int), s.follower = true ∧ s.timingPort ∈
      s.upPorts ∧ depth + 1 ≤ 8 ∧ len < 2 ^ 16 ∧ count < 2 ^ 64 ∧ (s.locked = false ∨ s.tableOn = false)) ∧ (∃ (s :
      State) (count : Nat) (depth : Nat) (len : Nat) (s2 : Nat) (o : Int), s.follower = true ∧ s.timingPort ∈
      s.upPorts ∧ depth + 1 ≤ 8 ∧ s.locked = true ∧ s.tableOn = true ∧ count ≠ s.markedCount) ∧ (∃ (s : State)
      (count : Nat) (depth : Nat) (len : Nat) (s2 : Nat) (o : Int), s.follower = true ∧ s.timingPort ∈ s.upPorts ∧ 8
      < depth + 1) ∧ (∃ (s : State) (port : Nat) (id : Nat) (t2 : Nat) (t3 : Nat), port ∈ s.upPorts) ∧ (∃ (s :
      State) (t1 : Nat), s.follower = true ∧ s.timingPort ∈ s.upPorts ∧ s.rnd.reqAt ≠ some s.round ∧ (s.locked =
      true ∧ s.round % 64 = 0 ∨ s.locked = false ∧ s.rnd.meas.length < 16 ∧ 1 ≤ s.rnd.attempt)) ∧ (∃ (s : State) (id
      : Nat) (t1 : Nat) (t2 : Nat) (t3 : Nat) (t4 : Nat), s.follower = true ∧ s.rnd.reqOut = some (id, t1) ∧
      s.rnd.meas.length ≤ 16) :=
  ⟨⟨fol, 9, 7, 2 ^ 16 - 1, 3, -8, by decide +kernel⟩,
  ⟨table (lock fol) 2, 9, 7, 250, 0, 0, by decide +kernel⟩,
  ⟨fol, 9, 8, 250, 0, 0, by decide +kernel⟩,
  ⟨withPort up 15, 15, 255, 1, 2, by decide +kernel⟩,
  ⟨lock fol, 100, by decide +kernel⟩,
  ⟨{ fol with rnd := { fol.rnd with meas := List.replicate 15 0, reqOut := some (0, 100) } }, 0, 100, 120, 130, 115,
      by decide +kernel⟩⟩

theorem met_followerMeasuresItsTimingPort_2 :
    (∃ (s : State) (len : Nat) (round : Nat), s.follower = true ∧ s.timingPort ∈ s.upPorts ∧ s.round < round) :=
  ⟨fol, 300, 1, by decide +kernel⟩

theorem met_lockIsDeclaredAndRetried :
    (∃ (s : State) (u : Nat), s.follower = true ∧ s.timingPort ∈ s.upPorts ∧ s.locked = false ∧ s.rnd.upCount = some u ∧
      16 ≤ s.rnd.good ∧ s.rnd.meas.length = 16 ∧ s.rnd.attempt ≤ 64 ∧ u + s.rnd.syncMiss < 2 ^ 64 ∧
      (s.rnd.everLocked = false ∨ s.round ≤ u + s.rnd.syncMiss)) ∧ (∃ (s : State) (u : Nat), s.follower = true ∧
      s.timingPort ∈ s.upPorts ∧ s.locked = false ∧ s.rnd.upCount = some u ∧ 16 ≤ s.rnd.good ∧ s.rnd.meas.length =
      16 ∧ s.rnd.attempt ≤ 64 ∧ s.rnd.everLocked = true ∧ u + s.rnd.syncMiss < s.round) ∧ (∃ (s : State), s.follower
      = true ∧ s.locked = false ∧ 64 ≤ s.rnd.attempt) ∧ (∃ (s : State), s.follower = false ∧ s.locked = false ∧
      s.rnd.refPresent = true ∧ 16 ≤ s.rnd.refRounds) :=
  ⟨⟨{ fol with rnd := { fol.rnd with upCount := some 7, good := 16, meas := List.replicate 16 0, attempt := 64 } }, 7,
      by decide +kernel⟩,
  ⟨{ atRound fol 8 with rnd := { fol.rnd with upCount := some 7, good := 16, meas := List.replicate 16 0, attempt := 64, everLocked := true } },
      7, by decide +kernel⟩,
  ⟨{ fol with rnd := { fol.rnd with attempt := 64 } }, by decide +kernel⟩,
  ⟨{ up with rnd := { up.rnd with refRounds := 16 } }, by decide +kernel⟩⟩

theorem met_lossOfTimingClearsLock :
    (∃ (s : State), s.follower = true ∧ s.locked = true ∧ (s.rnd.dropped = true ∨ s.timingPort ∉ s.upPorts ∨ 5 ≤
      s.rnd.syncMiss)) ∧ (∃ (s : State), s.follower = false) ∧ (∃ (s : State), s.follower = true) ∧ (∃ (s : State),
      s.rnd.refPresent = false) ∧ (∃ (s : State), s.pwr.off = false ∧ s.rnd.refPresent = true ∧ s.rnd.refNew = true)
      ∧ (∃ (s : State), s.rnd.refPresent = true) :=
  ⟨⟨table { lock fol with rnd := { fol.rnd with syncMiss := 5 } } 2, by decide +kernel⟩,
  ⟨table (lock up) 2, by decide +kernel⟩,
  ⟨fol, by decide +kernel⟩,
  ⟨{ up with rnd := { up.rnd with refPresent := false } }, by decide +kernel⟩,
  ⟨{ up with rnd := { up.rnd with refNew := true } }, by decide +kernel⟩,
  ⟨up, by decide +kernel⟩⟩

theorem met_roundBlockWritesTakeEffect :
    (∃ (s : State) (v : Nat), s.barOpen 0x500000 = true ∧ s.follower = false ∧ s.tableOn = false ∧ s.round + 1 < v ∧ v <
      2 ^ 64) ∧ (∃ (s : State) (v : Nat), s.barOpen 0x500000 = true ∧ (s.follower = true ∨ s.tableOn = true ∨ v ≤
      s.round + 1)) ∧ (∃ (s : State) (v : Nat), s.barOpen 0x500000 = true ∧ s.follower = false ∧ v % 2 = 0 ∧ 25 ≤
      bits v 16 16 ∧ bits v 16 16 ≠ s.rg R.roundCfgLenTicks 0 ∧ s.rg R.weaveStatusState 0 ≠ 3 ∧ s.rg R.roundCfgRole
      0 = 0) ∧ (∃ (s : State) (v : Nat), s.barOpen 0x500000 = true ∧ s.follower = false ∧ v % 2 = 0 ∧ 25 ≤ bits v 16
      16 ∧ bits v 16 16 ≠ s.rg R.roundCfgLenTicks 0 ∧ s.rg R.weaveStatusState 0 = 3 ∧ s.rg R.roundCfgRole 0 = 0) ∧
      (∃ (s : State) (v : Nat), s.barOpen 0x500000 = true ∧ s.rg R.roundCfgRole 0 = 0 ∧ v % 2 = 1 ∧ s.tableOn =
      false) ∧ (∃ (s : State) (v : Nat), s.barOpen 0x500000 = true ∧ s.rg R.roundCfgRole 0 = 1 ∧ v % 2 = 0 ∧
      s.tableOn = false) :=
  ⟨⟨up, 2, by decide +kernel⟩,
  ⟨up, 1, by decide +kernel⟩,
  ⟨up, 25 * 2 ^ 16, by decide +kernel⟩,
  ⟨table up 3, 65535 * 2 ^ 16 + 5 * 2 ^ 4, by decide +kernel⟩,
  ⟨up, 1, by decide +kernel⟩,
  ⟨fol, 0, by decide +kernel⟩⟩

theorem met_stretchRequestsAreRelayedAndCombined :
    (∃ (s : State) (port : Nat) (origin : Nat) (n : Nat) (amount : Nat), port ∈ s.upPorts ∧ (origin, n) ∉ s.rnd.seen ∧
      s.follower = false) ∧ (∃ (s : State) (port : Nat) (origin : Nat) (n : Nat) (amount : Nat), port ∈ s.upPorts ∧
      (origin, n) ∉ s.rnd.seen ∧ s.follower = true ∧ s.timingPort ∈ s.upPorts) ∧ (∃ (s : State) (port : Nat) (origin
      : Nat) (n : Nat) (amount : Nat), (origin, n) ∈ s.rnd.seen) ∧ (∃ (s : State) (a : Nat), s.barOpen 0x500000 =
      true ∧ s.locked = true ∧ s.follower = false ∧ a < 2 ^ 16 ∧ max a (max s.rnd.thermal s.rnd.power) < 2 ^ 16) ∧
      (∃ (s : State) (a : Nat), s.barOpen 0x500000 = true ∧ s.locked = true ∧ s.follower = true ∧ a < 2 ^ 16 ∧ max a
      (max s.rnd.thermal s.rnd.power) < 2 ^ 16 ∧ s.timingPort ∈ s.upPorts) ∧ (∃ (s : State), s.rb
      R.roundStretchCfgEnable 0 = true ∧ s.rnd.thermal ≠ 0 ∧ s.hot = true ∧ s.rnd.thermalAt + 64 ≤ s.beat) :=
  ⟨⟨atRound (withPort up 3) 2, 3, 9, 0, 4, by decide +kernel⟩,
  ⟨withPort fol 3, 3, 9, 0, 4, by decide +kernel⟩,
  ⟨{ up with rnd := { up.rnd with seen := [(9, 0)] } }, 3, 9, 0, 4, by decide +kernel⟩,
  ⟨lock up, 65535, by decide +kernel⟩,
  ⟨lock fol, 65535, by decide +kernel⟩,
  ⟨atBeat
      ({ (((up.rset R.roundStretchCfgEnable 0 1).rset R.hdlSensorValue 3 1600).rset R.roundStretchCfgStepTicks 0 4).rset R.roundStretchCfgMaxTicks 0 6 with rnd := { up.rnd with thermal := 3 } })
      64, by decide +kernel⟩⟩

theorem met_stretchRequestsAreRelayedAndCombined_2 :
    (∃ (s : State), s.rnd.thermal ≠ 0 ∧ 256 ≤ s.rnd.thermalCool) ∧ (∃ (s : State), s.pwr.off = false ∧ s.pwr.stage = 0 ∧
      s.rg R.hdlSensorLevel 68 ≠ 0 ∧ (s.rnd.power = 0 ∨ s.rnd.powerAt + 64 ≤ s.beat)) ∧ (∃ (s : State), s.rnd.power
      ≠ 0 ∧ 256 ≤ s.rnd.powerCool) :=
  ⟨⟨{ up with rnd := { up.rnd with thermal := 3, thermalCool := 256 } }, by decide +kernel⟩,
  ⟨((up.rset R.hdlSensorLevel 68 1).rset R.roundStretchCfgStepTicks 0 4).rset R.roundStretchCfgMaxTicks 0 6,
      by decide +kernel⟩,
  ⟨{ up with rnd := { up.rnd with power := 3, powerCool := 256 } }, by decide +kernel⟩⟩

theorem met_weaveCtrlWritesLoadOrAreRefused :
    (∃ (s : State) (v : Nat), s.barOpen 0x500000 = true ∧ bit v 17 = true ∧ ctrlBits v = 1 ∧ s.rg R.weaveStatusState 0 ≠
      3) ∧ (∃ (s : State) (v : Nat), s.barOpen 0x500000 = true ∧ bit v 17 = true ∧ ctrlBits v = 1 ∧ s.rg
      R.weaveStatusState 0 = 3) ∧ (∃ (s : State) (v : Nat), s.barOpen 0x500000 = true ∧ 1 < ctrlBits v ∧ bit v 17 =
      true) ∧ (∃ (s : State) (v : Nat), s.barOpen 0x500000 = true ∧ 1 < ctrlBits v ∧ bit v 18 = true) ∧ (∃ (s :
      State) (v : Nat), s.barOpen 0x500000 = true ∧ 1 < ctrlBits v ∧ bit v 19 = true) ∧ (∃ (s : State) (v : Nat),
      s.barOpen 0x500000 = true ∧ 1 < ctrlBits v ∧ bit v 20 = true) :=
  ⟨⟨table up 2, 2 ^ 17 + 65536 + 25 * 2 ^ 32, by decide +kernel⟩,
  ⟨table up 3, 2 ^ 17, by decide +kernel⟩,
  ⟨up, 2 ^ 17 + 2 ^ 18, by decide +kernel⟩,
  ⟨up, 2 ^ 17 + 2 ^ 18, by decide +kernel⟩,
  ⟨up, 2 ^ 19 + 2 ^ 18, by decide +kernel⟩,
  ⟨up, 2 ^ 17 + 2 ^ 20, by decide +kernel⟩⟩

theorem met_loadedTableIsCheckedAndOrdered :
    (∃ (s : State) (n : Nat) (base : Nat) (cyc : Nat), s.wtab.loading = some (n, base, cyc) ∧ 0 < n ∧ n ≤ 65536 ∧ base %
      32 = 0 ∧ s.ms.bad = [] ∧ (∀ i, i < n → s.region (base + 32 * i) = .hbm) ∧ (∀ i, i < n → weMalformed (s.num
      (base + 32 * i) 32) = false ∧ weOffset (s.num (base + 32 * i) 32) < cyc) ∧ (∀ i, i + 1 < n → weOffset (s.num
      (base + 32 * i) 32) ≤ weOffset (s.num (base + 32 * (i + 1)) 32)) ∧ (∀ i, i + 256 < n → weOffset (s.num (base +
      32 * i) 32) < weOffset (s.num (base + 32 * (i + 256)) 32))) ∧ (∃ (s : State) (u : State) (n : Nat) (base :
      Nat) (cyc : Nat) (l : List Nat), s.wtab.loading = some (n, base, cyc) ∧ 0 < n ∧ n ≤ 65536 ∧
      ({ s with wtab := { s.wtab with loading := none } } : State).loadEntries cyc n base 0 0 0 = (u, .ok l)) ∧ (∃
      (s : State) (n : Nat) (base : Nat) (cyc : Nat), s.wtab.loading = some (n, base, cyc) ∧ (n = 0 ∨ 65536 < n)) :=
  ⟨by refine ⟨loading1, 1, 0, 10, ?_, ?_, ?_, ?_, ?_, ?_, ?_, fun i hi => absurd hi (by omega), fun i hi => absurd hi
      (by omega)⟩ <;> decide +kernel,
  by refine ⟨loading1, (({ loading1 with wtab := { loading1.wtab with loading := none } } : State).loadEntries 10 1 0
      0 0 0).1, 1, 0, 10, [9 + 2 * 2 ^ 24 + 2 ^ 80], ?_, ?_, ?_, pair_eq (by decide +kernel)⟩ <;> decide +kernel,
  ⟨{ up with wtab := { up.wtab with loading := some (65537, 0, 10) } }, 65537, 0, 10, by decide +kernel⟩⟩

theorem met_armAndStopControlTheRun :
    (∃ (s : State) (v : Nat), s.barOpen 0x500000 = true ∧ bit v 18 = true ∧ ctrlBits v = 1 ∧ s.rg R.weaveStatusState 0 =
      1 ∧ s.locked = true ∧ s.round + 16 ≤ s.rg R.weaveStartStart 0 ∧ 1 ≤ bits v 32 25 ∧ bits v 32 25 ≤ 2 ^ 24 ∧ (∀
      e ∈ s.wtab.table, weOffset e < bits v 32 25)) ∧ (∃ (s : State) (v : Nat), s.barOpen 0x500000 = true ∧ bit v 18
      = true ∧ ctrlBits v = 1 ∧ s.rg R.weaveStatusState 0 = 1 ∧ s.locked = false) ∧ (∃ (s : State) (v : Nat),
      s.barOpen 0x500000 = true ∧ bit v 18 = true ∧ ctrlBits v = 1 ∧ s.rg R.weaveStatusState 0 = 1 ∧ s.locked = true
      ∧ s.rg R.weaveStartStart 0 < s.round + 16) ∧ (∃ (s : State) (v : Nat), s.barOpen 0x500000 = true ∧ bit v 19 =
      true ∧ ctrlBits v = 1 ∧ s.rg R.weaveStatusState 0 = 2) ∧ (∃ (s : State) (v : Nat), s.barOpen 0x500000 = true ∧
      bit v 19 = true ∧ ctrlBits v = 1 ∧ s.rg R.weaveStatusState 0 = 3 ∧ s.wtab.armN = 0 ∧ s.wtab.lastOcc = none) ∧
      (∃ (s : State) (v : Nat), s.barOpen 0x500000 = true ∧ bit v 20 = true ∧ ctrlBits v = 1 ∧ 2 ≤ s.rg
      R.weaveStatusState 0) :=
  ⟨⟨{ table (lock (up.rset R.weaveStartStart 0 16)) 1 with wtab := { up.wtab with table := [24] } }, 2 ^ 18 + 25 * 2 ^
      32, by decide +kernel⟩,
  ⟨table up 1, 2 ^ 18, by decide +kernel⟩,
  ⟨{ table (lock (up.rset R.weaveStartStart 0 15)) 1 with wtab := { up.wtab with table := [24] } }, 2 ^ 18 + 25 * 2 ^
      32, by decide +kernel⟩,
  ⟨table up 2, 2 ^ 19, by decide +kernel⟩,
  ⟨table { up with wtab := { up.wtab with armC := 25 } } 3, 2 ^ 19, by decide +kernel⟩,
  ⟨table { up with wtab := { up.wtab with waiting := [⟨0, 0, 0, 2 * 2 ^ 24⟩] } } 2, 2 ^ 20, by decide +kernel⟩⟩

theorem met_entriesAreAcceptedFinishedOrOverrun :
    (∃ (s : State) (e : EntryOcc), s.rg R.weaveStatusState 0 = 3 ∧ s.wtab.waiting = [e] ∧ s.wtab.active = [] ∧ weKind
      e.words = 2) ∧ (∃ (s : State) (e : EntryOcc) (a : EntryOcc), s.wtab.waiting = [e] ∧ s.wtab.active = [a] ∧
      sameUnit a.words e.words = true) ∧ (∃ (s : State) (e : EntryOcc), s.wtab.active = [e] ∧ weKind e.words = 2 ∧
      e.due + weDuration e.words ≤ s.round ∧ (∀ m ∈ (s.port (bits e.words 64 4)).out, m.vc ≠ 32 + bits e.words 68
      4)) ∧ (∃ (s : State) (e : EntryOcc), s.rg R.weaveStatusState 0 = 3 ∧ s.wtab.waiting = [e] ∧ s.wtab.active = []
      ∧ e ∉ s.wtab.quiet ∧ weBudget e.words < s.round - e.due) :=
  ⟨⟨table { up with wtab := { up.wtab with waiting := [⟨5, 3, 0, 2 * 2 ^ 24⟩] } } 3, (⟨5, 3, 0, 2 * 2 ^ 24⟩ :
      EntryOcc), by decide +kernel⟩,
  ⟨table { up with wtab := { up.wtab with waiting := [⟨5, 3, 0, 2 * 2 ^ 24⟩], active := [⟨4, 3, 0, 2 * 2 ^ 24⟩] } } 3,
      (⟨5, 3, 0, 2 * 2 ^ 24⟩ : EntryOcc), (⟨4, 3, 0, 2 * 2 ^ 24⟩ : EntryOcc), by decide +kernel⟩,
  ⟨table (atRound { up with wtab := { up.wtab with active := [⟨5, 3, 1, 2 * 2 ^ 24 + 2 * 2 ^ 80⟩] } } 3) 3, (⟨5, 3, 1,
      2 * 2 ^ 24 + 2 * 2 ^ 80⟩ : EntryOcc), by decide +kernel⟩,
  ⟨table (atRound { up with wtab := { up.wtab with waiting := [⟨5, 3, 0, 2 * 2 ^ 24⟩] } } 3) 3, (⟨5, 3, 0, 2 * 2 ^ 24⟩
      : EntryOcc), by decide +kernel⟩⟩

theorem met_contextCommandsMoveTheContext :
    (∃ (s : State) (c : Nat), s.barOpen 0x200000 = true ∧ c < 4096 ∧ s.bindOk 0 c = true) ∧ (∃ (s : State) (c : Nat),
      s.barOpen 0x200000 = true ∧ c < 4096 ∧ (s.ctxState c = ctxActive ∨ s.ctxState c = ctxError)) ∧ (∃ (s : State)
      (c : Nat), c < 4096 ∧ s.ctxState c = ctxDraining ∧ (s.ctx c).jobs = [] ∧ (s.ctx c).flushed = []) ∧ (∃ (s :
      State) (c : Nat), s.barOpen 0x200000 = true ∧ c < 4096 ∧ s.ctxState c = ctxError) ∧ (∃ (s : State) (c : Nat),
      s.barOpen 0x200000 = true ∧ 0 < c ∧ c < 4096 ∧ s.ctxState c = ctxReady) ∧ (∃ (s : State) (c : Nat), s.barOpen
      0x200000 = true ∧ c < 4096 ∧ s.ctxState c ≠ ctxFree) :=
  ⟨⟨up.rset R.partCfgEnable 0 1, 4095, by decide +kernel⟩,
  ⟨queued (active up 1) 1 (pkt (word 0 [])), 1, by decide +kernel⟩,
  ⟨up.rset R.ctxStatusState 4095 ctxDraining, 4095, by decide +kernel⟩,
  ⟨up.rset R.ctxStatusState 4095 ctxError, 4095, by decide +kernel⟩,
  ⟨ready up 4095, 4095, by decide +kernel⟩,
  ⟨ready up 1, 1, by decide +kernel⟩⟩

theorem met_contextCommandsMoveTheContext_2 :
    (∃ (s : State) (c : Nat), s.barOpen 0x200000 = true ∧ c < 4096 ∧ s.ctxState c ≠ ctxError) ∧ (∃ (s : State) (c :
      Nat), s.barOpen 0x200000 = true ∧ c < 4096 ∧ s.ctxState c ≠ ctxActive ∧ s.ctxState c ≠ ctxError) ∧ (∃ (s :
      State) (c : Nat), s.barOpen 0x200000 = true ∧ c < 4096 ∧ (s.ctxState c ≠ ctxReady ∨ c = 0)) ∧ (∃ (s : State)
      (c : Nat), s.barOpen 0x200000 = true ∧ c < 4096 ∧ (s.tlbDropCtx c).activateOk c = true ∧ ((s.tlbDropCtx
      c).vread ⟨c, 16⟩ (s.rg R.ctxEventBaseBase c) (8 * s.rg R.ctxEventCfgCount c)).st = 0) :=
  ⟨⟨ready up 1, 1, by decide +kernel⟩,
  ⟨ready up 1, 1, by decide +kernel⟩,
  ⟨up, 0, by decide +kernel⟩,
  ⟨put8 (ready up 1) 0x50008 77, 1, by decide +kernel⟩⟩

theorem met_pollsReadIndicesWithinTheBudget :
    (∃ (s : State) (u : State) (c : Nat) (fm : Nat) (e : Bool) (rest : List Poll) (n : Nat) (rd : Rd) (v : Rd), s.pollQ
      (2 * (s.ctx c).front) = ⟨c, e⟩ :: rest ∧ s.ctxState c = ctxActive ∧ s.pollCost c ≤ s.budgetLeft (s.ctx
      c).front ∧ (∀ j, j < 4 → s.heldBack c j = false) ∧ u = (((s.setPollQ (2 * (s.ctx c).front) rest).spend (s.ctx
      c).front (s.pollCost c)).setCtx c { s.ctx c with polled := some s.beat }) ∧ s.enabledRings c = [n] ∧ n < 4 ∧
      rd = u.vread (s.frontRq c) (s.rg R.ctxRingIdxAddrAddr (c * 4 + n)) 4 ∧ s.ringFailed c n = false ∧ bit fm n =
      false ∧ bit fm 4 = false ∧ rd.st = 0 ∧ (leNat rd.bs + 2 ^ 32 - s.rg R.ctxRingCiCi (c * 4 + n)) % 2 ^ 32 ≤ 2 ^
      s.rg R.ctxRingCfgLog2Slots (c * 4 + n) ∧ v = (u.pollRing c fm n).vread (s.frontRq c) (s.rg R.ctxCqIdxAddrAddr
      c) 4 ∧ v.st = 0) ∧ (∃ (s : State) (u : State) (c : Nat) (fm : Nat) (e : Bool) (rest : List Poll), s.pollQ (2 *
      (s.ctx c).front) = ⟨c, e⟩ :: rest ∧ s.ctxState c = ctxActive ∧ s.pollCost c ≤ s.budgetLeft (s.ctx c).front ∧
      (∀ j, j < 4 → s.heldBack c j = false) ∧ u = (((s.setPollQ (2 * (s.ctx c).front) rest).spend (s.ctx c).front
      (s.pollCost c)).setCtx c { s.ctx c with polled := some s.beat })) ∧ (∃ (s : State) (c : Nat) (fm : Nat) (e :
      Bool) (rest : List Poll), s.pollQ (2 * (s.ctx c).front) = ⟨c, e⟩ :: rest ∧ s.ctxState c = ctxActive ∧
      s.budgetLeft (s.ctx c).front < s.pollCost c) :=
  ⟨by refine ⟨{ put8 (active up 1) 0x20000 64 with polls := [(0, [⟨1, false⟩])] },
      (((({ put8 (active up 1) 0x20000 64 with polls := [(0, [⟨1, false⟩])] }).setPollQ (2 *
      (({ put8 (active up 1) 0x20000 64 with polls := [(0, [⟨1, false⟩])] }).ctx 1).front) ([])).spend
      (({ put8 (active up 1) 0x20000 64 with polls := [(0, [⟨1, false⟩])] }).ctx 1).front
      (({ put8 (active up 1) 0x20000 64 with polls := [(0, [⟨1, false⟩])] }).pollCost 1)).setCtx 1
      { ({ put8 (active up 1) 0x20000 64 with polls := [(0, [⟨1, false⟩])] }).ctx 1 with polled := some ({ put8 (active up 1) 0x20000 64 with polls := [(0, [⟨1, false⟩])] }).beat }),
      1, 0, false, [], 0, (((({ put8 (active up 1) 0x20000 64 with polls := [(0, [⟨1, false⟩])] }).setPollQ (2 *
      (({ put8 (active up 1) 0x20000 64 with polls := [(0, [⟨1, false⟩])] }).ctx 1).front) ([])).spend
      (({ put8 (active up 1) 0x20000 64 with polls := [(0, [⟨1, false⟩])] }).ctx 1).front
      (({ put8 (active up 1) 0x20000 64 with polls := [(0, [⟨1, false⟩])] }).pollCost 1)).setCtx 1
      { ({ put8 (active up 1) 0x20000 64 with polls := [(0, [⟨1, false⟩])] }).ctx 1 with polled := some ({ put8 (active up 1) 0x20000 64 with polls := [(0, [⟨1, false⟩])] }).beat }).vread
      (({ put8 (active up 1) 0x20000 64 with polls := [(0, [⟨1, false⟩])] }).frontRq 1)
      (({ put8 (active up 1) 0x20000 64 with polls := [(0, [⟨1, false⟩])] }).rg R.ctxRingIdxAddrAddr (1 * 4 + 0)) 4,
      ((((({ put8 (active up 1) 0x20000 64 with polls := [(0, [⟨1, false⟩])] }).setPollQ (2 *
      (({ put8 (active up 1) 0x20000 64 with polls := [(0, [⟨1, false⟩])] }).ctx 1).front) ([])).spend
      (({ put8 (active up 1) 0x20000 64 with polls := [(0, [⟨1, false⟩])] }).ctx 1).front
      (({ put8 (active up 1) 0x20000 64 with polls := [(0, [⟨1, false⟩])] }).pollCost 1)).setCtx 1
      { ({ put8 (active up 1) 0x20000 64 with polls := [(0, [⟨1, false⟩])] }).ctx 1 with polled := some ({ put8 (active up 1) 0x20000 64 with polls := [(0, [⟨1, false⟩])] }).beat }).pollRing
      1 0 0).vread (({ put8 (active up 1) 0x20000 64 with polls := [(0, [⟨1, false⟩])] }).frontRq 1)
      (({ put8 (active up 1) 0x20000 64 with polls := [(0, [⟨1, false⟩])] }).rg R.ctxCqIdxAddrAddr 1) 4, ?_, ?_, ?_,
      ?_, rfl, ?_, ?_, rfl, ?_, ?_, ?_, ?_, ?_, rfl, ?_⟩ <;> decide +kernel,
  by refine ⟨{ active up 1 with polls := [(0, [⟨1, false⟩])], budget := [(0, 2)] },
      (((({ active up 1 with polls := [(0, [⟨1, false⟩])], budget := [(0, 2)] }).setPollQ (2 *
      (({ active up 1 with polls := [(0, [⟨1, false⟩])], budget := [(0, 2)] }).ctx 1).front) ([])).spend
      (({ active up 1 with polls := [(0, [⟨1, false⟩])], budget := [(0, 2)] }).ctx 1).front
      (({ active up 1 with polls := [(0, [⟨1, false⟩])], budget := [(0, 2)] }).pollCost 1)).setCtx 1
      { ({ active up 1 with polls := [(0, [⟨1, false⟩])], budget := [(0, 2)] }).ctx 1 with polled := some ({ active up 1 with polls := [(0, [⟨1, false⟩])], budget := [(0, 2)] }).beat }),
      1, 0, false, [], ?_, ?_, ?_, ?_, rfl⟩ <;> decide +kernel,
  ⟨{ active up 1 with polls := [(0, [⟨1, true⟩])], budget := [(0, 1)] }, 1, 0, true, [], by decide +kernel⟩⟩

theorem met_fetchQueuesCheckedPackets :
    (∃ (s : State) (c : Nat) (n : Nat) (rd : Rd), s.fetchable c n = true ∧ (∀ j, j < 4 → s.heldBack c j = false) ∧
      (s.ring c n).queue = [] ∧ rd = (s.setRing c n { s.ring c n with fetchAt := some s.beat }).readSlots c n (s.rg
      R.ctxRingCiCi (c * 4 + n)) 1 ∧ rd.st = 0 ∧ pkUnits (leNat rd.bs) = 1 ∧ ((s.ring c n).pi + 2 ^ 32 - s.rg
      R.ctxRingCiCi (c * 4 + n)) % 2 ^ 32 = 1) ∧ (∃ (s : State) (c : Nat) (n : Nat), s.fetchable c n = true) ∧ (∃ (s
      : State) (c : Nat) (w : Nat), pkOp w ∉ pkOpcodes) :=
  ⟨by refine ⟨(active up 1).setRing 1 0 ⟨1, [], true, none⟩, 1, 0, (((active up 1).setRing 1 0 ⟨1, [], true,
      none⟩).setRing 1 0
      { ((active up 1).setRing 1 0 ⟨1, [], true, none⟩).ring 1 0 with fetchAt := some ((active up 1).setRing 1 0 ⟨1, [], true, none⟩).beat }).readSlots
      1 0 (((active up 1).setRing 1 0 ⟨1, [], true, none⟩).rg R.ctxRingCiCi (1 * 4 + 0)) 1, ?_, ?_, ?_, rfl, ?_⟩ <;>
      decide +kernel,
  ⟨(active up 1).setRing 1 3 ⟨1, [], true, none⟩, 1, 3, by decide +kernel⟩,
  ⟨up, 1, 0x05, by decide +kernel⟩⟩

theorem met_dispatchTakesTheHeadPacket :
    (∃ (s : State) (c : Nat) (n : Nat) (p : Packet) (rest : List Packet), c < 4096 ∧ n < 4 ∧ s.ctxState c = ctxActive ∧
      s.rb R.ctxStatusCqFull c = false ∧ (s.ring c n).queue = p :: rest ∧ s.ready c p = true ∧ (p.reject = none →
      pkOp p.words ≠ 0x02) ∧ (s.scarce c = true → s.turn c = some n) ∧ s.cqFree c = true ∧ (p.reject = none →
      s.denied c p.words = false)) ∧ (∃ (s : State) (c : Nat) (n : Nat) (p : Packet) (rest : List Packet), c < 4096
      ∧ n < 4 ∧ s.ctxState c = ctxActive ∧ s.rb R.ctxStatusCqFull c = false ∧ (s.ring c n).queue = p :: rest ∧
      s.ready c p = true ∧ p.reject = none ∧ pkOp p.words ≠ 0x02 ∧ (s.scarce c = true → s.turn c = some n) ∧
      s.cqFree c = true ∧ s.denied c p.words = true) ∧ (∃ (s : State) (c : Nat) (n : Nat) (p : Packet) (rest : List
      Packet), c < 4096 ∧ n < 4 ∧ s.ctxState c = ctxActive ∧ s.rb R.ctxStatusCqFull c = false ∧ (s.ring c n).queue =
      p :: rest ∧ s.ready c p = true ∧ (p.reject = none → pkOp p.words ≠ 0x02) ∧ (s.scarce c = true → s.turn c =
      some n) ∧ s.cqFree c = false) ∧ (∃ (s : State) (c : Nat) (n : Nat) (p : Packet) (rest : List Packet), (s.ring
      c n).queue = p :: rest ∧ (s.beat < p.elig ∨ s.rb R.ctxStatusCqFull c = true ∨ (p.reject = none ∧ (64 ≤ (s.ctx
      c).dispatched ∨ s.waitMet c p.words = false ∨ (pkFence p.words = true ∧ ∃ j ∈ (s.ctx c).jobs, j.pkt.ring =
      p.ring))))) :=
  ⟨⟨queued (active up 1) 1 (pkt (word 0 [])), 1, 0, pkt (word 0 []), [], by decide +kernel⟩,
  ⟨queued (active up 1) 1 (pkt (word 0x70 [(511, 256)])), 1, 0, pkt (word 0x70 [(511, 256)]), [], by decide +kernel⟩,
  ⟨(queued (active up 1) 1 (pkt (word 0 []))).setCtx 1 { CtxSt.empty with cqPi := 128 }, 1, 0, pkt (word 0 []), [],
      by decide +kernel⟩,
  ⟨queued (active up 1) 1 { pkt (word 0 []) with elig := 1 }, 1, 0, { pkt (word 0 []) with elig := 1 }, [],
      by decide +kernel⟩⟩

theorem met_signallingAndWaitingPacketsEnd :
    (∃ (s : State) (c : Nat) (n : Nat) (p : Packet) (rest : List Packet) (rd : Rd), c < 4096 ∧ n < 4 ∧ s.ctxState c =
      ctxActive ∧ s.rb R.ctxStatusCqFull c = false ∧ (s.ring c n).queue = p :: rest ∧ s.ready c p = true ∧ p.reject
      = none ∧ pkOp p.words = 0x02 ∧ s.waitDue c p = true ∧ (s.scarce c = true → s.turn c = some n) ∧ (∀ j, j < 4 →
      s.heldBack c j = false) ∧ s.cqFree c = true ∧ rd = (s.spend (s.ctx c).front 1).vread (s.frontRq c) (bits
      p.words 256 48) 8 ∧ rd.st = 0 ∧ waitCompare p.words (leNat rd.bs) = true) ∧ (∃ (s : State) (c : Nat) (n : Nat)
      (p : Packet) (rest : List Packet) (rd : Rd), c < 4096 ∧ n < 4 ∧ s.ctxState c = ctxActive ∧ s.rb
      R.ctxStatusCqFull c = false ∧ (s.ring c n).queue = p :: rest ∧ s.ready c p = true ∧ p.reject = none ∧ pkOp
      p.words = 0x02 ∧ s.waitDue c p = true ∧ (s.scarce c = true → s.turn c = some n) ∧ (∀ j, j < 4 → s.heldBack c j
      = false) ∧ s.cqFree c = true ∧ rd = (s.spend (s.ctx c).front 1).vread (s.frontRq c) (bits p.words 256 48) 8 ∧
      rd.st = 0 ∧ waitCompare p.words (leNat rd.bs) = false) ∧ (∃ (s : State) (c : Nat) (n : Nat) (slot : Nat) (p :
      Packet), s.running c n slot 0x00 = some p ∧ (∀ j, j < 4 → s.heldBack c j = false)) ∧ (∃ (s : State) (c : Nat)
      (n : Nat) (slot : Nat) (p : Packet), s.running c n slot 0x01 = some p ∧ (∀ j, j < 4 → s.heldBack c j = false)
      ∧ s.ctxState (bits p.words 272 12) ≠ ctxFree ∧ s.ctxState (bits p.words 272 12) ≠ ctxReady ∧ bits p.words 256
      16 < s.rg R.ctxEventCfgCount (bits p.words 272 12)) ∧ (∃ (s : State) (c : Nat) (n : Nat) (slot : Nat) (p :
      Packet), s.running c n slot 0x01 = some p ∧ (∀ j, j < 4 → s.heldBack c j = false) ∧ (s.ctxState (bits p.words
      272 12) = ctxFree ∨ s.ctxState (bits p.words 272 12) = ctxReady ∨ s.rg R.ctxEventCfgCount (bits p.words 272
      12) ≤ bits p.words 256 16)) ∧ (∃ (s : State) (c : Nat) (n : Nat) (slot : Nat) (p : Packet), s.running c n slot
      0x50 = some p ∧ (∀ j, j < 4 → s.heldBack c j = false) ∧ bit p.words 269 = false) :=
  ⟨by refine ⟨put8 (queued (active up 1) 1 (pkt (word 0x02 [(0x60000, 256), (7, 320)]))) 0x60000 7, 1, 0, pkt (word
      0x02 [(0x60000, 256), (7, 320)]), [], ((put8 (queued (active up 1) 1 (pkt (word 0x02 [(0x60000, 256), (7,
      320)]))) 0x60000 7).spend ((put8 (queued (active up 1) 1 (pkt (word 0x02 [(0x60000, 256), (7, 320)]))) 0x60000
      7).ctx 1).front 1).vread ((put8 (queued (active up 1) 1 (pkt (word 0x02 [(0x60000, 256), (7, 320)]))) 0x60000
      7).frontRq 1) (bits (pkt (word 0x02 [(0x60000, 256), (7, 320)])).words 256 48) 8, ?_, ?_, ?_, ?_, ?_, ?_, ?_,
      ?_, by decide +kernel, ?_, ?_, ?_, rfl, ?_⟩ <;> decide +kernel,
  by refine ⟨put8 (queued (active up 1) 1 (pkt (word 0x02 [(0x60000, 256), (7, 320)]))) 0x60000 6, 1, 0, pkt (word
      0x02 [(0x60000, 256), (7, 320)]), [], ((put8 (queued (active up 1) 1 (pkt (word 0x02 [(0x60000, 256), (7,
      320)]))) 0x60000 6).spend ((put8 (queued (active up 1) 1 (pkt (word 0x02 [(0x60000, 256), (7, 320)]))) 0x60000
      6).ctx 1).front 1).vread ((put8 (queued (active up 1) 1 (pkt (word 0x02 [(0x60000, 256), (7, 320)]))) 0x60000
      6).frontRq 1) (bits (pkt (word 0x02 [(0x60000, 256), (7, 320)])).words 256 48) 8, ?_, ?_, ?_, ?_, ?_, ?_, ?_,
      ?_, by decide +kernel, ?_, ?_, ?_, rfl, ?_⟩ <;> decide +kernel,
  ⟨runs 0 [], 1, 0, 0, pkt (word 0 []), by decide +kernel⟩,
  ⟨runs 1 [(3, 256), (1, 272), (5, 320)], 1, 0, 0, pkt (word 1 [(3, 256), (1, 272), (5, 320)]), by decide +kernel⟩,
  ⟨runs 1 [(4, 256), (1, 272), (5, 320)], 1, 0, 0, pkt (word 1 [(4, 256), (1, 272), (5, 320)]), by decide +kernel⟩,
  ⟨runs 0x50 [(1, 256), (0x40000000, 320), (1, 384)], 1, 0, 0, pkt (word 0x50 [(1, 256), (0x40000000, 320), (1,
      384)]), by decide +kernel⟩⟩

theorem met_completionsRecordsAndMessages :
    (∃ (s : State) (c : Nat) (n : Nat) (slot : Nat) (p : Packet), (s.ctx c).jobs = [⟨p, some ⟨0, 0, 0⟩⟩] ∧ p.ring = n ∧
      p.slot = slot ∧ pkCmpl p.words = false ∧ s.rg R.ctxEventCfgCount c ≤ pkSignal p.words) ∧ (∃ (s : State) (c :
      Nat) (n : Nat) (slot : Nat) (p : Packet) (d : Done), (s.ctx c).jobs = [⟨p, some d⟩] ∧ p.ring = n ∧ p.slot =
      slot ∧ (∀ j, j < 4 → s.heldBack c j = false) ∧ d.status < 2 ^ 16 ∧ d.status ≠ 0 ∧ isErrorStatus d.status =
      true ∧ s.ctxState c = ctxActive ∧ s.rg R.ctxEventCfgCount c ≤ pkSignal p.words) ∧ (∃ (s : State) (c : Nat) (r
      : Nat), (s.ctx c).msiDue = true ∧ (s.ctx c).lastMsi = some r ∧ r + s.rg R.ctxCqCfgModerate c ≤ s.beat) ∧ (∃ (s
      : State) (c : Nat) (p : Packet) (rest : List Packet), (s.ctx c).flushed = p :: rest ∧ s.cqFree c = true ∧ (∀ j
      ∈ (s.ctx c).jobs, j.pkt.ring ≠ p.ring) ∧ (∀ j, j < 4 → s.heldBack c j = false)) :=
  ⟨⟨dispatched (active up 1) 1 (pkt (word 0 [])) (some ⟨0, 0, 0⟩), 1, 0, 0, pkt (word 0 []), by decide +kernel⟩,
  ⟨dispatched (active up 1) 1 (pkt (word 0 [])) (some ⟨stCmdDenied, 0, 0⟩), 1, 0, 0, pkt (word 0 []), (⟨stCmdDenied,
      0, 0⟩ : Done), by decide +kernel⟩,
  ⟨atBeat (((active up 1).setCtx 1 { CtxSt.empty with msiDue := true, lastMsi := some 4 }).rset R.ctxCqCfgModerate 1
      5) 9, 1, 4, by decide +kernel⟩,
  ⟨(active up 1).setCtx 1 { CtxSt.empty with flushed := [pkt (word 0 [])] }, 1, pkt (word 0 []), [],
      by decide +kernel⟩⟩

theorem met_writeImmAndTimestampStoreEightBytes :
    (∃ (s : State) (c : Nat) (n : Nat) (slot : Nat) (p : Packet) (l : TlbEnt), (∀ j, j < 4 → s.heldBack c j = false) ∧
      s.rb R.ctxPtRootValid c = true ∧ bits p.words 256 48 % 8 = 0 ∧ s.leaf (s.frontRq c) (bits p.words 256 48) =
      some l ∧ (s.walk c (bits p.words 256 48) true).2 = some l ∧ l.write = true ∧ l.pa % 4096 = 0 ∧ 12 ≤ l.log2 ∧
      s.writeStatus (l.pa + bits p.words 256 48 % 2 ^ l.log2) = 0 ∧ s.running c n slot 0x03 = some p) ∧ (∃ (s :
      State) (c : Nat) (n : Nat) (slot : Nat) (p : Packet) (l : TlbEnt), (∀ j, j < 4 → s.heldBack c j = false) ∧
      s.rb R.ctxPtRootValid c = true ∧ bits p.words 256 48 % 8 = 0 ∧ s.leaf (s.frontRq c) (bits p.words 256 48) =
      some l ∧ (s.walk c (bits p.words 256 48) true).2 = some l ∧ l.write = true ∧ l.pa % 4096 = 0 ∧ 12 ≤ l.log2 ∧
      s.writeStatus (l.pa + bits p.words 256 48 % 2 ^ l.log2) = 0 ∧ s.running c n slot 0x04 = some p ∧ pkCmpl
      p.words = false ∧ s.rg R.ctxEventCfgCount c ≤ pkSignal p.words) :=
  ⟨⟨runs 3 [(0x60FF8, 256), (0x1122334455667788, 320)], 1, 0, 0, pkt (word 3 [(0x60FF8, 256), (0x1122334455667788,
      320)]), leaf 1, by decide +kernel⟩,
  ⟨atRound (runs 4 [(0x60FF8, 256)]) 1000, 1, 0, 0, pkt (word 4 [(0x60FF8, 256)]), leaf 1, by decide +kernel⟩⟩

theorem met_fillAndCopyWriteTheirDestination :
    (∃ (s : State) (c : Nat) (n : Nat) (slot : Nat) (p : Packet) (l : TlbEnt) (va : Nat) (len : Nat), (∀ j, j < 4 →
      s.heldBack c j = false) ∧ s.running c n slot 0x11 = some p ∧ s.rb R.ctxPtRootValid c = true ∧ va = bits
      p.words 256 48 ∧ len = bits p.words 384 40 ∧ 0 < len ∧ va % 64 + len ≤ 64 ∧ s.leaf (s.frontRq c) va = some l ∧
      (s.walk c va true).2 = some l ∧ l.write = true ∧ l.pa % 4096 = 0 ∧ 12 ≤ l.log2 ∧ s.writeStatus (l.pa + va % 2
      ^ l.log2) = 0) ∧ (∃ (s : State) (c : Nat) (n : Nat) (slot : Nat) (p : Packet) (ls : TlbEnt) (ld : TlbEnt) (src
      : Nat) (dst : Nat) (len : Nat), (∀ j, j < 4 → s.heldBack c j = false) ∧ s.running c n slot 0x10 = some p ∧
      s.rb R.ctxPtRootValid c = true ∧ bits p.words 424 4 = 0 ∧ src = bits p.words 256 48 ∧ dst = bits p.words 320
      48 ∧ len = bits p.words 384 40 ∧ 0 < len ∧ src % 64 + len ≤ 64 ∧ dst % 64 + len ≤ 64 ∧ (src + len ≤ dst ∨ dst
      + len ≤ src) ∧ s.ms.bad = [] ∧ s.ms.badWords = [] ∧ s.leaf (s.frontRq c) src = some ls ∧ (s.walk c src
      false).2 = some ls ∧ ls.pa % 4096 = 0 ∧ 12 ≤ ls.log2 ∧ s.readStatus (ls.pa + src % 2 ^ ls.log2) len = 0 ∧
      s.leaf (s.frontRq c) dst = some ld ∧ (s.walk c dst true).2 = some ld ∧ ld.write = true ∧ ld.pa % 4096 = 0 ∧ 12
      ≤ ld.log2 ∧ s.writeStatus (ld.pa + dst % 2 ^ ld.log2) = 0) :=
  ⟨⟨runs 0x11 [(0x6103F, 256), (0x1122334455667788, 320), (1, 384)], 1, 0, 0, pkt (word 0x11 [(0x6103F, 256),
      (0x1122334455667788, 320), (1, 384)]), leaf 1, 0x6103F, 1, by decide +kernel⟩,
  ⟨runs 0x10 [(0x61000, 256), (0x61040, 320), (64, 384)], 1, 0, 0, pkt (word 0x10 [(0x61000, 256), (0x61040, 320),
      (64, 384)]), leaf 1, leaf 1, 0x61000, 0x61040, 64, by decide +kernel⟩⟩

theorem met_weaveRunWaitsOrEnds :
    (∃ (s : State) (c : Nat) (n : Nat) (slot : Nat) (p : Packet), s.running c n slot 0x20 = some p ∧ p.ring = n ∧ p.slot
      = slot ∧ (∀ w ∈ s.waiting, w.ctx ≠ c) ∧ (∀ w ∈ s.weaves, w.ctx ≠ c) ∧ s.weaveAhead c n slot = false ∧ (∀ st ∈
      upFrom (bits p.words 320 11) (bits p.words 336 11), s.mayStake c st = true) ∧ bits p.words 352 32 ≠ 0 ∧ (c ≠ 0
      → bits p.words 352 32 ≤ s.rg R.partCfgMaxRunBound (s.rg R.ctxCfgPartition c))) ∧ (∃ (s : State) (c : Nat) (n :
      Nat) (slot : Nat) (p : Packet), s.running c n slot 0x20 = some p ∧ p.ring = n ∧ p.slot = slot ∧ (∀ w ∈
      s.waiting, w.ctx ≠ c) ∧ (∀ w ∈ s.weaves, w.ctx ≠ c) ∧ s.weaveAhead c n slot = false ∧ (∃ st ∈ upFrom (bits
      p.words 320 11) (bits p.words 336 11), s.mayStake c st = false)) ∧ (∃ (s : State) (c : Nat) (n : Nat) (slot :
      Nat) (p : Packet), s.running c n slot 0x20 = some p ∧ p.ring = n ∧ p.slot = slot ∧ (∀ w ∈ s.waiting, w.ctx ≠
      c) ∧ (∀ w ∈ s.weaves, w.ctx ≠ c) ∧ s.weaveAhead c n slot = false ∧ (∀ st ∈ upFrom (bits p.words 320 11) (bits
      p.words 336 11), s.mayStake c st = true) ∧ (bits p.words 352 32 = 0 ∨ (c ≠ 0 ∧ s.rg R.partCfgMaxRunBound (s.rg
      R.ctxCfgPartition c) < bits p.words 352 32))) ∧ (∃ (s : State) (c : Nat) (n : Nat) (slot : Nat), s.weaveAhead
      c n slot = true) :=
  ⟨⟨((runs 0x20 [(0x60000, 256), (0, 320), (0x60, 336), (9, 352)]).rset R.partSkeinsSkeins 0 15).rset
      R.partCfgMaxRunBound 0 9, 1, 0, 0, pkt (word 0x20 [(0x60000, 256), (0, 320), (0x60, 336), (9, 352)]),
      by decide +kernel⟩,
  ⟨(runs 0x20 [(0x60000, 256), (0, 320), (0x61, 336), (9, 352)]).rset R.partSkeinsSkeins 0 15, 1, 0, 0, pkt (word 0x20
      [(0x60000, 256), (0, 320), (0x61, 336), (9, 352)]), by decide +kernel⟩,
  ⟨((runs 0x20 [(0x60000, 256), (0, 320), (0x60, 336), (10, 352)]).rset R.partSkeinsSkeins 0 15).rset
      R.partCfgMaxRunBound 0 9, 1, 0, 0, pkt (word 0x20 [(0x60000, 256), (0, 320), (0x60, 336), (10, 352)]),
      by decide +kernel⟩,
  ⟨(active up 1).setCtx 1
      { CtxSt.empty with jobs := [⟨pkt (word 0x20 []), none⟩, ⟨{ pkt (word 0x20 []) with slot := 1 }, none⟩] }, 1,
      0, 1, by decide +kernel⟩⟩

theorem met_collectiveIsCheckedAndPosted :
    (∃ (s : State) (c : Nat) (n : Nat) (slot : Nat) (p : Packet), s.tabTurn c n slot 0x30 = some p ∧ (∀ o ∈ s.collOps
      (coChan p.words), o.ctx ≠ c) ∧ (s.collOps (coChan p.words)).length < 16 ∧ s.collCheck c p.words = 0) ∧ (∃ (s :
      State) (c : Nat) (n : Nat) (slot : Nat) (p : Packet), s.tabTurn c n slot 0x30 = some p ∧ (∀ o ∈ s.collOps
      (coChan p.words), o.ctx ≠ c) ∧ (s.collOps (coChan p.words)).length < 16 ∧ s.collCheck c p.words ≠ 0) ∧ (∃ (s :
      State) (c : Nat) (n : Nat) (slot : Nat) (p : Packet), s.tabTurn c n slot 0x30 = some p ∧ (∀ o ∈ s.collOps
      (coChan p.words), o.ctx ≠ c) ∧ (s.collOps (coChan p.words)).length < 16) :=
  ⟨⟨(group (runs 0x30 [(5, 256), (2, 272), (1, 320), (1, 328), (16, 336), (0x60000, 512), (0x70000, 576)]) 2 4).rset
      R.partResCollChannels 0 32, 1, 0, 0, pkt (word 0x30 [(5, 256), (2, 272), (1, 320), (1, 328), (16, 336),
      (0x60000, 512), (0x70000, 576)]), by decide +kernel⟩,
  ⟨(group (runs 0x30 [(5, 256), (2, 272), (1, 320), (1, 328), (16, 336), (0x60000, 512), (0x70000, 576)]) 1 4).rset
      R.partResCollChannels 0 32, 1, 0, 0, pkt (word 0x30 [(5, 256), (2, 272), (1, 320), (1, 328), (16, 336),
      (0x60000, 512), (0x70000, 576)]), by decide +kernel⟩,
  ⟨dispatched (active up 0) 0 (pkt (word 0x30 [(3, 256)])) none, 0, 0, 0, pkt (word 0x30 [(3, 256)]),
      by decide +kernel⟩⟩

theorem met_listPlaceAndUnparkPackets :
    (∃ (s : State) (c : Nat) (n : Nat) (slot : Nat) (p : Packet), s.running c n slot 0x40 = some p ∧ s.lists = []) ∧ (∃
      (s : State) (c : Nat) (n : Nat) (slot : Nat) (p : Packet), s.running c n slot 0x41 = some p ∧ (∀ j, j < 4 →
      s.heldBack c j = false) ∧ s.entryFrames c (bits p.words 256 48 * 2 ^ 64 + bits p.words 320 40 * 2 ^ 128) = [])
      ∧ (∃ (s : State) (c : Nat) (n : Nat) (slot : Nat) (p : Packet) (va : Nat) (k : Nat) (i : Nat), s.running c n
      slot 0x41 = some p ∧ (∀ j, j < 4 → s.heldBack c j = false) ∧ s.entryFrames c (bits p.words 256 48 * 2 ^ 64 +
      bits p.words 320 40 * 2 ^ 128) = [va] ∧ s.poolFrameAt c va = some (k, i) ∧ (i < s.poolNh k ↔ bits p.words 360
      2 = 0)) ∧ (∃ (s : State) (c : Nat) (n : Nat) (slot : Nat) (p : Packet) (va : Nat) (k : Nat) (i : Nat) (j :
      Nat) (rest : List Nat) (u : State), s.running c n slot 0x41 = some p ∧ (∀ j, j < 4 → s.heldBack c j = false) ∧
      s.entryFrames c (bits p.words 256 48 * 2 ^ 64 + bits p.words 320 40 * 2 ^ 128) = [va] ∧ s.poolFrameAt c va =
      some (k, i) ∧ i < s.poolNh k ∧ bits p.words 360 2 ≠ 0 ∧ s.hampFree k = j :: rest ∧ (s.setHampFree k
      rest).moveFrame c k i j = (u, none)) ∧ (∃ (s : State) (c : Nat) (n : Nat) (slot : Nat) (p : Packet) (va : Nat)
      (k : Nat) (i : Nat) (j : Nat) (rest : List Nat) (u : State), s.running c n slot 0x41 = some p ∧ (∀ j, j < 4 →
      s.heldBack c j = false) ∧ s.entryFrames c (bits p.words 256 48 * 2 ^ 64 + bits p.words 320 40 * 2 ^ 128) =
      [va] ∧ s.poolFrameAt c va = some (k, i) ∧ s.poolNh k ≤ i ∧ bits p.words 360 2 = 0 ∧ s.hbmFree k = j :: rest ∧
      (s.setHbmFree k rest).moveFrame c k i j = (u, none)) ∧ (∃ (s : State) (c : Nat) (n : Nat) (slot : Nat) (p :
      Packet) (va : Nat) (k : Nat) (i : Nat), s.running c n slot 0x41 = some p ∧ (∀ j, j < 4 → s.heldBack c j =
      false) ∧ s.entryFrames c (bits p.words 256 48 * 2 ^ 64 + bits p.words 320 40 * 2 ^ 128) = [va] ∧ s.poolFrameAt
      c va = some (k, i) ∧ i < s.poolNh k ∧ bits p.words 360 2 ≠ 0 ∧ s.hampFree k = []) :=
  ⟨⟨runs 0x40 [(0x60000, 256), (3, 320)], 1, 0, 0, pkt (word 0x40 [(0x60000, 256), (3, 320)]), by decide +kernel⟩,
  ⟨runs 0x41 [(0x60000, 256), (4096, 320)], 1, 0, 0, pkt (word 0x41 [(0x60000, 256), (4096, 320)]), by decide +kernel⟩,
  ⟨framed (runs 0x41 (placing 0)) 0, 1, 0, 0, pkt (word 0x41 (placing 0)), 0x40000000, 0, 0, by decide +kernel⟩,
  by refine ⟨freed (framed (runs 0x41 (placing 1)) 0) 1, 1, 0, 0, pkt (word 0x41 (placing 1)), 0x40000000, 0, 0, 1,
      [], (((freed (framed (runs 0x41 (placing 1)) 0) 1).setHampFree 0 ([])).moveFrame 1 0 0 1).1, ?_, ?_, ?_, ?_,
      ?_, ?_, ?_, pair_eq (by decide +kernel)⟩ <;> decide +kernel,
  by refine ⟨freed (framed (runs 0x41 (placing 0)) 1) 0, 1, 0, 0, pkt (word 0x41 (placing 0)), 0x40000000, 0, 1, 0,
      [], (((freed (framed (runs 0x41 (placing 0)) 1) 0).setHbmFree 0 ([])).moveFrame 1 0 1 0).1, ?_, ?_, ?_, ?_,
      ?_, ?_, ?_, pair_eq (by decide +kernel)⟩ <;> decide +kernel,
  ⟨framed (runs 0x41 (placing 1)) 0, 1, 0, 0, pkt (word 0x41 (placing 1)), 0x40000000, 0, 0, by decide +kernel⟩⟩

theorem met_listPlaceAndUnparkPackets_2 :
    (∃ (s : State) (c : Nat) (n : Nat) (slot : Nat) (p : Packet) (rd : Rd) (re : Rd) (wr : Wr), s.running c n slot 0x80
      = some p ∧ (∀ j, j < 4 → s.heldBack c j = false) ∧ rd = s.vread (s.frontRq c) (bits p.words 256 48) 64 ∧ rd.st
      = 0 ∧ bhOpen (leNat rd.bs) = false ∧ rd.s.headerBad (leNat rd.bs) = false ∧ bit p.words 336 = false ∧ bits
      p.words 320 16 < bhCount (leNat rd.bs) ∧ re = rd.s.vread (rd.s.frontRq c) (bits p.words 256 48 + 64 + 64 *
      bits p.words 320 16) 64 ∧ re.st = 0 ∧ beReserved (leNat re.bs) = false ∧ wr = re.s.vwrite (re.s.frontRq c)
      (bits p.words 256 48 + 64 + 64 * bits p.words 320 16 + 32) (natLe 1 (putBits (bits (leNat re.bs) 256 8) 1 1
      0)) ∧ wr.st = 0) ∧ (∃ (s : State) (c : Nat) (n : Nat) (slot : Nat) (p : Packet) (rd : Rd), s.running c n slot
      0x80 = some p ∧ (∀ j, j < 4 → s.heldBack c j = false) ∧ rd = s.vread (s.frontRq c) (bits p.words 256 48) 64 ∧
      rd.st = 0 ∧ bhOpen (leNat rd.bs) = true) :=
  ⟨by refine ⟨((runs 0x80 [(0x60000, 256)]).rset R.poolCfgFrameLog2 0 12).setBytes 0x60000 (natLe 64 (batch 0)), 1, 0,
      0, pkt (word 0x80 [(0x60000, 256)]), (((runs 0x80 [(0x60000, 256)]).rset R.poolCfgFrameLog2 0 12).setBytes
      0x60000 (natLe 64 (batch 0))).vread ((((runs 0x80 [(0x60000, 256)]).rset R.poolCfgFrameLog2 0 12).setBytes
      0x60000 (natLe 64 (batch 0))).frontRq 1) (bits (pkt (word 0x80 [(0x60000, 256)])).words 256 48) 64, ((((runs
      0x80 [(0x60000, 256)]).rset R.poolCfgFrameLog2 0 12).setBytes 0x60000 (natLe 64 (batch 0))).vread ((((runs
      0x80 [(0x60000, 256)]).rset R.poolCfgFrameLog2 0 12).setBytes 0x60000 (natLe 64 (batch 0))).frontRq 1) (bits
      (pkt (word 0x80 [(0x60000, 256)])).words 256 48) 64).s.vread (((((runs 0x80 [(0x60000, 256)]).rset
      R.poolCfgFrameLog2 0 12).setBytes 0x60000 (natLe 64 (batch 0))).vread ((((runs 0x80 [(0x60000, 256)]).rset
      R.poolCfgFrameLog2 0 12).setBytes 0x60000 (natLe 64 (batch 0))).frontRq 1) (bits (pkt (word 0x80 [(0x60000,
      256)])).words 256 48) 64).s.frontRq 1) (bits (pkt (word 0x80 [(0x60000, 256)])).words 256 48 + 64 + 64 * bits
      (pkt (word 0x80 [(0x60000, 256)])).words 320 16) 64, (((((runs 0x80 [(0x60000, 256)]).rset R.poolCfgFrameLog2
      0 12).setBytes 0x60000 (natLe 64 (batch 0))).vread ((((runs 0x80 [(0x60000, 256)]).rset R.poolCfgFrameLog2 0
      12).setBytes 0x60000 (natLe 64 (batch 0))).frontRq 1) (bits (pkt (word 0x80 [(0x60000, 256)])).words 256 48)
      64).s.vread (((((runs 0x80 [(0x60000, 256)]).rset R.poolCfgFrameLog2 0 12).setBytes 0x60000 (natLe 64 (batch
      0))).vread ((((runs 0x80 [(0x60000, 256)]).rset R.poolCfgFrameLog2 0 12).setBytes 0x60000 (natLe 64 (batch
      0))).frontRq 1) (bits (pkt (word 0x80 [(0x60000, 256)])).words 256 48) 64).s.frontRq 1) (bits (pkt (word 0x80
      [(0x60000, 256)])).words 256 48 + 64 + 64 * bits (pkt (word 0x80 [(0x60000, 256)])).words 320 16) 64).s.vwrite
      ((((((runs 0x80 [(0x60000, 256)]).rset R.poolCfgFrameLog2 0 12).setBytes 0x60000 (natLe 64 (batch 0))).vread
      ((((runs 0x80 [(0x60000, 256)]).rset R.poolCfgFrameLog2 0 12).setBytes 0x60000 (natLe 64 (batch 0))).frontRq
      1) (bits (pkt (word 0x80 [(0x60000, 256)])).words 256 48) 64).s.vread (((((runs 0x80 [(0x60000, 256)]).rset
      R.poolCfgFrameLog2 0 12).setBytes 0x60000 (natLe 64 (batch 0))).vread ((((runs 0x80 [(0x60000, 256)]).rset
      R.poolCfgFrameLog2 0 12).setBytes 0x60000 (natLe 64 (batch 0))).frontRq 1) (bits (pkt (word 0x80 [(0x60000,
      256)])).words 256 48) 64).s.frontRq 1) (bits (pkt (word 0x80 [(0x60000, 256)])).words 256 48 + 64 + 64 * bits
      (pkt (word 0x80 [(0x60000, 256)])).words 320 16) 64).s.frontRq 1) (bits (pkt (word 0x80 [(0x60000,
      256)])).words 256 48 + 64 + 64 * bits (pkt (word 0x80 [(0x60000, 256)])).words 320 16 + 32) (natLe 1 (putBits
      (bits (leNat (((((runs 0x80 [(0x60000, 256)]).rset R.poolCfgFrameLog2 0 12).setBytes 0x60000 (natLe 64 (batch
      0))).vread ((((runs 0x80 [(0x60000, 256)]).rset R.poolCfgFrameLog2 0 12).setBytes 0x60000 (natLe 64 (batch
      0))).frontRq 1) (bits (pkt (word 0x80 [(0x60000, 256)])).words 256 48) 64).s.vread (((((runs 0x80 [(0x60000,
      256)]).rset R.poolCfgFrameLog2 0 12).setBytes 0x60000 (natLe 64 (batch 0))).vread ((((runs 0x80 [(0x60000,
      256)]).rset R.poolCfgFrameLog2 0 12).setBytes 0x60000 (natLe 64 (batch 0))).frontRq 1) (bits (pkt (word 0x80
      [(0x60000, 256)])).words 256 48) 64).s.frontRq 1) (bits (pkt (word 0x80 [(0x60000, 256)])).words 256 48 + 64 +
      64 * bits (pkt (word 0x80 [(0x60000, 256)])).words 320 16) 64).bs) 256 8) 1 1 0)), ?_, ?_, rfl, ?_, ?_, ?_,
      ?_, ?_, rfl, ?_, ?_, rfl, ?_⟩ <;> decide +kernel,
  by refine ⟨((runs 0x80 [(0x60000, 256)]).rset R.poolCfgFrameLog2 0 12).setBytes 0x60000 (natLe 64 (batch 1)), 1, 0,
      0, pkt (word 0x80 [(0x60000, 256)]), (((runs 0x80 [(0x60000, 256)]).rset R.poolCfgFrameLog2 0 12).setBytes
      0x60000 (natLe 64 (batch 1))).vread ((((runs 0x80 [(0x60000, 256)]).rset R.poolCfgFrameLog2 0 12).setBytes
      0x60000 (natLe 64 (batch 1))).frontRq 1) (bits (pkt (word 0x80 [(0x60000, 256)])).words 256 48) 64, ?_, ?_,
      rfl, ?_⟩ <;> decide +kernel⟩

theorem met_sfuTablePacketsLoadAndBind :
    (∃ (s : State) (u : State) (c : Nat) (n : Nat) (slot : Nat) (p : Packet) (body : List Byte) (sig : List Byte),
      s.tabTurn c n slot 0x60 = some p ∧ (∀ j, j < 4 → s.heldBack c j = false) ∧ s.readImageTable (s.frontRq c)
      (bits p.words 256 48) = (u, .ok (body, sig)) ∧ u.keyOf (tbKey (leNat body)) = none) ∧ (∃ (s : State) (c : Nat)
      (n : Nat) (slot : Nat) (p : Packet), s.tabTurn c n slot 0x61 = some p ∧ s.sfu.pend = [] ∧ bits p.words 256 8 ≠
      0 ∧ (∀ st ∈ s.sfuStakes c (bits p.words 320 16), s.rb R.sfuSlotLoaded (st * 8 + bits p.words 264 3) = true ∧
      s.slotFn st (bits p.words 264 3) = bits p.words 256 8 ∧ ∀ j ∈ s.sfuBinding st (bits p.words 256 8), s.slotHeld
      st j = false)) ∧ (∃ (s : State) (c : Nat) (n : Nat) (slot : Nat) (p : Packet), s.tabTurn c n slot 0x61 = some
      p ∧ s.sfu.pend = [] ∧ bits p.words 256 8 ≠ 0 ∧ (∃ st ∈ s.sfuStakes c (bits p.words 320 16), s.rb
      R.sfuSlotLoaded (st * 8 + bits p.words 264 3) = false)) :=
  ⟨by refine ⟨(runsOn 0x60 [(0x60000, 256), (1, 320), (7, 304)]).setBytes 0x60000 (natLe 64 (sfuBody + 2 ^ 52)),
      (((runsOn 0x60 [(0x60000, 256), (1, 320), (7, 304)]).setBytes 0x60000 (natLe 64 (sfuBody + 2 ^
      52))).readImageTable (((runsOn 0x60 [(0x60000, 256), (1, 320), (7, 304)]).setBytes 0x60000 (natLe 64 (sfuBody
      + 2 ^ 52))).frontRq 1) (bits (pkt (word 0x60 [(0x60000, 256), (1, 320), (7, 304)])).words 256 48)).1, 1, 0, 0,
      pkt (word 0x60 [(0x60000, 256), (1, 320), (7, 304)]), natLe 64 (sfuBody + 2 ^ 52), List.replicate 2820 0, ?_,
      ?_, pair_eq (by decide +kernel), ?_⟩ <;> decide +kernel,
  ⟨(upFrom 0 24).foldl (fun s st => (s.rset R.sfuSlotLoaded (st * 8 + 7) 1).rset R.sfuSlotFunction (st * 8 + 7) 5)
      (runsOn 0x61 [(5, 256), (7, 264), (1, 320)]), 1, 0, 0, pkt (word 0x61 [(5, 256), (7, 264), (1, 320)]),
      by decide +kernel⟩,
  ⟨runsOn 0x61 [(5, 256), (7, 264), (1, 320)], 1, 0, 0, pkt (word 0x61 [(5, 256), (7, 264), (1, 320)]),
      by decide +kernel⟩⟩

theorem met_plaitTableLoadClosesAndWritesSlots :
    (∃ (s : State) (u : State) (c : Nat) (n : Nat) (slot : Nat) (p : Packet) (bs : List Byte), s.tabTurn c n slot 0x62 =
      some p ∧ s.plait.loads = [] ∧ (∀ j, j < 4 → s.heldBack c j = false) ∧ s.placeRead ⟨1, 0, s.frontRq c, bits
      p.words 256 48⟩ 0 576 = (u, .ok bs) ∧ u.plait.loads = [] ∧ tableMalformed (leNat bs) = false ∧ u.denied c
      p.words = false ∧ loadKeys p.words ≠ []) ∧ (∃ (s : State) (key : Nat) (l : PlaitLoad), s.plait.loads = [l] ∧
      l.left = [key]) ∧ (∃ (s : State) (key : Nat) (other : Nat) (l : PlaitLoad), s.plait.loads = [l] ∧ l.left =
      [key, other] ∧ key ≠ other) :=
  ⟨by refine ⟨((runs 0x62 [(0x60000, 256), (5, 304), (3, 320)]).rset R.partSkeinsSkeins 0 255).setBytes 0x60000 (natLe
      576 plaitObj), ((((runs 0x62 [(0x60000, 256), (5, 304), (3, 320)]).rset R.partSkeinsSkeins 0 255).setBytes
      0x60000 (natLe 576 plaitObj)).placeRead ⟨1, 0, (((runs 0x62 [(0x60000, 256), (5, 304), (3, 320)]).rset
      R.partSkeinsSkeins 0 255).setBytes 0x60000 (natLe 576 plaitObj)).frontRq 1, bits (pkt (word 0x62 [(0x60000,
      256), (5, 304), (3, 320)])).words 256 48⟩ 0 576).1, 1, 0, 0, pkt (word 0x62 [(0x60000, 256), (5, 304), (3,
      320)]), natLe 576 plaitObj, ?_, ?_, ?_, pair_eq (by decide +kernel), ?_⟩ <;> decide +kernel,
  ⟨{ up with plait := ⟨[], [⟨1, 0, 0, plaitObj, [5]⟩]⟩ }, 5, (⟨1, 0, 0, plaitObj, [5]⟩ : PlaitLoad),
      by decide +kernel⟩,
  ⟨{ up with plait := ⟨[], [⟨1, 0, 0, plaitObj, [5, 21]⟩]⟩ }, 5, 21, (⟨1, 0, 0, plaitObj, [5, 21]⟩ : PlaitLoad),
      by decide +kernel⟩⟩

theorem met_videoPacketsOpenQueueAndClose :
    (∃ (s : State) (c : Nat) (n : Nat) (slot : Nat) (k : Nat) (b : Nat) (r : Nat) (p : Packet) (rd : Rd), s.running c n
      slot 0x70 = some p ∧ (∀ j, j < 4 → s.heldBack c j = false) ∧ rd = s.vread (s.frontRq c) (bits p.words 320 48)
      64 ∧ rd.st = 0 ∧ r = leNat rd.bs ∧ openMalformed r = false ∧ bit r 21 = false ∧ k = bits p.words 256 9 ∧
      rd.s.sessState k = 0 ∧ (bit r 16 = true → bits r 17 2 ≠ 1 ∧ bits r 24 16 ≤ 8192 ∧ bits r 40 16 ≤ 4352) ∧ bits
      r 24 16 * bits r 40 16 ≤ 35651584 ∧ rd.s.openCluster r = some b ∧ workNeed (bits r 24 16) (bits r 40 16) (bit
      r 22) (bit r 16) ≤ bits r 128 48) ∧ (∃ (s : State) (c : Nat) (n : Nat) (slot : Nat) (r : Nat) (p : Packet) (rd
      : Rd), s.running c n slot 0x70 = some p ∧ (∀ j, j < 4 → s.heldBack c j = false) ∧ rd = s.vread (s.frontRq c)
      (bits p.words 320 48) 64 ∧ rd.st = 0 ∧ r = leNat rd.bs ∧ openMalformed r = false ∧ bit r 21 = false ∧
      rd.s.sessState (bits p.words 256 9) ≠ 0) ∧ (∃ (s : State) (c : Nat) (n : Nat) (slot : Nat) (k : Nat) (r : Nat)
      (p : Packet) (rd : Rd) (rc : Rd), s.running c n slot 0x71 = some p ∧ p.ring = n ∧ p.slot = slot ∧ (∀ j, j < 4
      → s.heldBack c j = false) ∧ (∀ b, b < 2 → ∀ j ∈ s.vidJobs b, ¬ (j.ctx = c ∧ j.ring = n ∧ j.slot = slot)) ∧ k =
      bits p.words 256 9 ∧ s.sessUsable c k = true ∧ s.rb R.vidSessionEncode k = false ∧ rd = s.vread (s.frontRq c)
      (bits p.words 320 48) 128 ∧ rd.st = 0 ∧ r = leNat rd.bs ∧ decodeMalformed r = false ∧ rc = rd.s.vread
      (rd.s.frontRq c) (bits r 448 48) 96 ∧ rc.st = 0 ∧ colourBad ((pieces 4 rc.bs).map leNat) (below (bits r 21 2 +
      1)) (bit r 20) = false) ∧ (∃ (s : State) (c : Nat) (n : Nat) (slot : Nat) (k : Nat) (r : Nat) (p : Packet) (rd
      : Rd) (rc : Rd), s.running c n slot 0x72 = some p ∧ p.ring = n ∧ p.slot = slot ∧ (∀ j, j < 4 → s.heldBack c j
      = false) ∧ (∀ b, b < 2 → ∀ j ∈ s.vidJobs b, ¬ (j.ctx = c ∧ j.ring = n ∧ j.slot = slot)) ∧ k = bits p.words 256
      9 ∧ s.sessUsable c k = true ∧ s.rb R.vidSessionEncode k = true ∧ rd = s.vread (s.frontRq c) (bits p.words 320
      48) 128 ∧ rd.st = 0 ∧ r = leNat rd.bs ∧ rd.s.encodeMalformed k r = false ∧ rc = rd.s.vread (rd.s.frontRq c)
      (bits r 304 48) 96 ∧ rc.st = 0 ∧ colourBad ((pieces 4 rc.bs).map leNat) [0, 1, 2] false = false) ∧ (∃ (s :
      State) (c : Nat) (n : Nat) (slot : Nat) (p : Packet), s.running c n slot 0x73 = some p ∧ s.sessUsable c (bits
      p.words 256 9) = true) ∧ (∃ (s : State) (c : Nat) (n : Nat) (slot : Nat) (p : Packet), s.running c n slot 0x73
      = some p ∧ s.sessState (bits p.words 256 9) = 0) :=
  ⟨by refine ⟨syntaxBuf ((runs 0x70 [(5, 256), (0x60000, 320)]).setBytes 0x60000 (natLe 64 openRec)), 1, 0, 0, 5, 0,
      openRec, pkt (word 0x70 [(5, 256), (0x60000, 320)]), (syntaxBuf ((runs 0x70 [(5, 256), (0x60000,
      320)]).setBytes 0x60000 (natLe 64 openRec))).vread ((syntaxBuf ((runs 0x70 [(5, 256), (0x60000,
      320)]).setBytes 0x60000 (natLe 64 openRec))).frontRq 1) (bits (pkt (word 0x70 [(5, 256), (0x60000,
      320)])).words 320 48) 64, ?_, ?_, rfl, ?_⟩ <;> decide +kernel,
  by refine ⟨session ((runs 0x70 [(5, 256), (0x60000, 320)]).setBytes 0x60000 (natLe 64 openRec)) 1 0, 1, 0, 0,
      openRec, pkt (word 0x70 [(5, 256), (0x60000, 320)]), (session ((runs 0x70 [(5, 256), (0x60000, 320)]).setBytes
      0x60000 (natLe 64 openRec)) 1 0).vread ((session ((runs 0x70 [(5, 256), (0x60000, 320)]).setBytes 0x60000
      (natLe 64 openRec)) 1 0).frontRq 1) (bits (pkt (word 0x70 [(5, 256), (0x60000, 320)])).words 320 48) 64, ?_,
      ?_, rfl, ?_⟩ <;> decide +kernel,
  by refine ⟨session ((runs 0x71 [(5, 256), (0x60000, 320)]).setBytes 0x60000 (natLe 128 decodeRec)) 1 0, 1, 0, 0, 5,
      decodeRec, pkt (word 0x71 [(5, 256), (0x60000, 320)]), (session ((runs 0x71 [(5, 256), (0x60000,
      320)]).setBytes 0x60000 (natLe 128 decodeRec)) 1 0).vread ((session ((runs 0x71 [(5, 256), (0x60000,
      320)]).setBytes 0x60000 (natLe 128 decodeRec)) 1 0).frontRq 1) (bits (pkt (word 0x71 [(5, 256), (0x60000,
      320)])).words 320 48) 128, ((session ((runs 0x71 [(5, 256), (0x60000, 320)]).setBytes 0x60000 (natLe 128
      decodeRec)) 1 0).vread ((session ((runs 0x71 [(5, 256), (0x60000, 320)]).setBytes 0x60000 (natLe 128
      decodeRec)) 1 0).frontRq 1) (bits (pkt (word 0x71 [(5, 256), (0x60000, 320)])).words 320 48) 128).s.vread
      (((session ((runs 0x71 [(5, 256), (0x60000, 320)]).setBytes 0x60000 (natLe 128 decodeRec)) 1 0).vread
      ((session ((runs 0x71 [(5, 256), (0x60000, 320)]).setBytes 0x60000 (natLe 128 decodeRec)) 1 0).frontRq 1)
      (bits (pkt (word 0x71 [(5, 256), (0x60000, 320)])).words 320 48) 128).s.frontRq 1) (bits decodeRec 448 48) 96,
      ?_, ?_, ?_, ?_, ?_, ?_, ?_, ?_, rfl, ?_, ?_, ?_, rfl, ?_⟩ <;> decide +kernel,
  by refine ⟨session ((runs 0x72 [(5, 256), (0x60000, 320)]).setBytes 0x60000 (natLe 128 encodeRec)) 1 1, 1, 0, 0, 5,
      encodeRec, pkt (word 0x72 [(5, 256), (0x60000, 320)]), (session ((runs 0x72 [(5, 256), (0x60000,
      320)]).setBytes 0x60000 (natLe 128 encodeRec)) 1 1).vread ((session ((runs 0x72 [(5, 256), (0x60000,
      320)]).setBytes 0x60000 (natLe 128 encodeRec)) 1 1).frontRq 1) (bits (pkt (word 0x72 [(5, 256), (0x60000,
      320)])).words 320 48) 128, ((session ((runs 0x72 [(5, 256), (0x60000, 320)]).setBytes 0x60000 (natLe 128
      encodeRec)) 1 1).vread ((session ((runs 0x72 [(5, 256), (0x60000, 320)]).setBytes 0x60000 (natLe 128
      encodeRec)) 1 1).frontRq 1) (bits (pkt (word 0x72 [(5, 256), (0x60000, 320)])).words 320 48) 128).s.vread
      (((session ((runs 0x72 [(5, 256), (0x60000, 320)]).setBytes 0x60000 (natLe 128 encodeRec)) 1 1).vread
      ((session ((runs 0x72 [(5, 256), (0x60000, 320)]).setBytes 0x60000 (natLe 128 encodeRec)) 1 1).frontRq 1)
      (bits (pkt (word 0x72 [(5, 256), (0x60000, 320)])).words 320 48) 128).s.frontRq 1) (bits encodeRec 304 48) 96,
      ?_, ?_, ?_, ?_, ?_, ?_, ?_, ?_, rfl, ?_, ?_, ?_, rfl, ?_⟩ <;> decide +kernel,
  ⟨session (runs 0x73 [(5, 256)]) 2 0, 1, 0, 0, pkt (word 0x73 [(5, 256)]), by decide +kernel⟩,
  ⟨runs 0x73 [(511, 256)], 1, 0, 0, pkt (word 0x73 [(511, 256)]), by decide +kernel⟩⟩

theorem met_videoPacketsOpenQueueAndClose_2 :
    (∃ (s : State) (k : Nat) (j : Job), s.sessState k = 3 ∧ (∀ b, b < 2 → ∀ x ∈ s.vidJobs b, x.session ≠ k) ∧ (s.ctx
      (s.rg R.vidSessionContext k)).jobs = [j] ∧ j.fin = none ∧ pkOp j.pkt.words = 0x73 ∧ bits j.pkt.words 256 9 =
      k) :=
  ⟨session (runs 0x73 [(5, 256)]) 3 0, 5, (⟨pkt (word 0x73 [(5, 256)]), none⟩ : Job), by decide +kernel⟩

theorem met_partitionWritesAreCheckedWhole :
    (∃ (s : State) (p : Nat) (v : Nat), s.barOpen 0x400000 = true ∧ p < 64 ∧ bits v 0 1 ≠ s.rg R.partCfgEnable p ∧
      s.partHeld p = false ∧ s.ctxsOf p = [] ∧ ((s.putPart p 0 v).rb R.partCfgEnable p = true → (s.putPart p 0
      v).partBad p = false)) ∧ (∃ (s : State) (p : Nat) (reg : Nat) (v : Nat), s.barOpen 0x400000 = true ∧ p < 64 ∧
      1 ≤ reg ∧ reg ≤ 3 ∧ s.partHeld p = false ∧ ((s.putPart p reg v).rb R.partCfgEnable p = true → (s.putPart p reg
      v).partBad p = false)) ∧ (∃ (s : State) (p : Nat) (v : Nat), s.barOpen 0x400000 = true ∧ p < 64 ∧ bits v 0 1 ≠
      s.rg R.partCfgEnable p ∧ (s.partHeld p = true ∨ s.ctxsOf p ≠ [] ∨ ((s.putPart p 0 v).rb R.partCfgEnable p =
      true ∧ (s.putPart p 0 v).partBad p = true))) ∧ (∃ (s : State) (p : Nat) (reg : Nat) (v : Nat), s.barOpen
      0x400000 = true ∧ p < 64 ∧ 1 ≤ reg ∧ reg ≤ 3 ∧ (s.partHeld p = true ∨ ((s.putPart p reg v).rb R.partCfgEnable
      p = true ∧ (s.putPart p reg v).partBad p = true))) :=
  ⟨⟨up, 63, 1, by decide +kernel⟩,
  ⟨up, 63, 1, 2 ^ 64 - 1, by decide +kernel⟩,
  ⟨(up.rset R.partCfgEnable 0 1).rset R.partSkeinsSkeins 0 1 |> fun s => s.rset R.partSkeinsSkeins 1 1, 1, 1,
      by decide +kernel⟩,
  ⟨(((up.rset R.partCfgEnable 0 1).rset R.partSkeinsSkeins 0 1).rset R.partCfgEnable 1 1), 1, 1, 1, by decide +kernel⟩⟩

theorem met_overBoundsUrgencyAndEnergy :
    (∃ (s : State) (w : Weave), s.weaves = [w] ∧ w.overBound = false ∧ w.start + w.bound ≤ s.beat) ∧ (∃ (s : State) (w :
      Weave), s.weaves = [w] ∧ s.beat < w.start + w.bound) ∧ (∃ (s : State) (c : Nat) (w : WaitWeave), w ∈ s.waiting
      ∧ w.ctx = c ∧ c ≠ 0 ∧ s.rg R.partCfgUrgency (s.rg R.ctxCfgPartition c) ≤ s.beat - (s.ctx c).ageFrom ∧ s.rb
      R.partCtxStateUrgent c = false) ∧ (∃ (s : State) (e : Nat), s.round % 1024 = 0 ∧ s.round ≠ s.parts.lastAttr ∧
      s.acctCtxs = []) ∧ (∃ (s : State) (e : Nat) (c : Nat), s.round % 1024 = 0 ∧ s.round ≠ s.parts.lastAttr ∧
      s.acctCtxs = [c] ∧ 0 < s.modelled c ∧ s.rg R.partEnergyCoefCoef 7 = 0 ∧ s.ctxState c ≠ ctxFree) ∧ (∃ (s :
      State) (e : Nat), s.round % 1024 ≠ 0) :=
  ⟨⟨{ atBeat up 105 with weaves := [{ weave with ctx := 0 }] }, { weave with ctx := 0 }, by decide +kernel⟩,
  ⟨{ atBeat up 104 with weaves := [weave] }, weave, by decide +kernel⟩,
  ⟨{ atBeat (active up 1) 10000 with waiting := [⟨1, 0, 0, 0, 0, 1, 1, 0⟩] }, 1, (⟨1, 0, 0, 0, 0, 1, 1, 0⟩ :
      WaitWeave), by decide +kernel⟩,
  ⟨atRound up 1024, 100, by decide +kernel⟩,
  ⟨metered, 7, 1, by decide +kernel⟩,
  ⟨atRound up 1025, 100, by decide +kernel⟩⟩

theorem met_creelRequestReadsAndWritesMemory :
    (∃ (s : State) (src : Nat) (c : Nat) (a : Nat) (n : Nat) (na : Bool) (data : List Byte), s.memUp = true ∧ 0 < n ∧ a
      % 64 + n ≤ 64 ∧ data.length = n ∧ s.readStatus a n = 0 ∧ s.region a ≠ .host) ∧ (∃ (s : State) (src : Nat) (c :
      Nat) (a : Nat) (n : Nat) (na : Bool) (data : List Byte), s.memUp = true ∧ 0 < n ∧ a % 64 + n ≤ 64 ∧
      data.length = n ∧ s.writeStatus a = 0 ∧ s.region a ≠ .host) ∧ (∃ (s : State) (src : Nat) (c : Nat) (a : Nat)
      (n : Nat) (na : Bool) (data : List Byte) (k : Nat) (l : Line), s.memUp = true ∧ 0 < n ∧ a % 64 + n ≤ 64 ∧
      data.length = n ∧ s.region a = .hbm ∧ s.coilOf a = some k ∧ s.readStatus a n = 0 ∧ (smGetD s.ms.creel (k *
      262144 + creelSet (a / 128)) []).find? (fun x => x.la == a / 128) = some l ∧ l.valid (a / 64 % 2) = true) ∧ (∃
      (s : State) (src : Nat) (c : Nat) (a : Nat) (n : Nat) (na : Bool) (data : List Byte), s.memUp = true ∧ 0 < n ∧
      a % 64 + n ≤ 64 ∧ data.length = n ∧ s.region a = .unbacked) ∧ (∃ (s : State) (src : Nat) (c : Nat) (a : Nat)
      (n : Nat) (err : Nat) (ch : Nat) (ca : Nat) (k : Nat) (na : Bool), s.memUp = true ∧ 0 < n ∧ a % 64 + n ≤ 64 ∧
      s.region a = .hbm ∧ s.coilOf a = some k ∧ s.channelOf a = some (ch, ca) ∧ s.cached a = false ∧ 3 ≤ err ∧ err ≤
      36) ∧ (∃ (s : State) (src : Nat) (c : Nat) (a : Nat) (n : Nat) (err : Nat) (w : Bool) (na : Bool) (data : List
      Byte), s.memUp = false) :=
  ⟨⟨put8 (hbm up) 0x60038 9, 0, 1, 0x6003F, 1, false, [7], by decide +kernel⟩,
  ⟨hbm up, 0, 1, 0x60000, 64, false, List.replicate 64 7, by decide +kernel⟩,
  ⟨{ hbm up with ms := { up.ms with creel := smPut [] [] (creelSet (0x60000 / 128)) [⟨0x60000 / 128, true, false, false, false⟩] } },
      0, 1, 0x60000, 1, false, [7], 0, (⟨0x60000 / 128, true, false, false, false⟩ : Line), by decide +kernel⟩,
  ⟨up, 0, 1, 0x60000, 1, false, [7], by decide +kernel⟩,
  ⟨hbm up, 0, 1, 0x60000, 1, 36, (((hbm up).channelOf 0x60000).getD (0, 0)).1, (((hbm up).channelOf 0x60000).getD (0,
      0)).2, 0, false, by decide +kernel⟩,
  ⟨State.reset, 0, 1, 0, 1, 0, false, false, [], by decide +kernel⟩⟩

theorem met_creelRequestReadsAndWritesMemory_2 :
    (∃ (a : Nat) (b : Nat) (x : Crossing), a < 16 ∧ b < 16) ∧ (∃ (c : Nat) (die : Nat) (x : Crossing), c < 16 ∧ die < 2) :=
  ⟨⟨3, 12, .symbol, by decide +kernel⟩,
  ⟨6, 1, .access 4096, by decide +kernel⟩⟩

theorem met_channelHealthFollowsErrors :
    (∃ (s : State) (v : Nat), s.barOpen 0x600000 = true ∧ bit v 31 = true ∧ s.healthOf (bits v 0 10) ≤ 1) ∧ (∃ (s :
      State), s.round % 2 ^ s.rg R.memHealthCfgWindowLog2 0 = 0) ∧ (∃ (s : State) (ch : Nat) (ca : Nat) (a : Nat)
      (last : Bool), s.rb R.memScrubCfgEnable 0 = true ∧ s.memUp = true ∧ ca < 0xC0000000 ∧ s.chanAddr ch ca = some
      a ∧ s.ms.bad.contains (a / 64) = false) ∧ (∃ (s : State) (ch : Nat) (ca : Nat) (a : Nat) (last : Bool) (err :
      Nat), s.rb R.memScrubCfgEnable 0 = true ∧ s.memUp = true ∧ ca < 0xC0000000 ∧ s.chanAddr ch ca = some a ∧ 3 ≤
      err ∧ s.region a = .hbm ∧ (s.channelOf a).isSome = true) ∧ (∃ (s : State) (ch : Nat) (ca : Nat) (a : Nat)
      (last : Bool), s.rb R.memScrubCfgEnable 0 = true ∧ s.memUp = true ∧ ca < 0xC0000000 ∧ s.chanAddr ch ca = some
      a) :=
  ⟨⟨up, 2 ^ 31 + 1023, by decide +kernel⟩,
  ⟨up, by decide +kernel⟩,
  ⟨(hbm up).rset R.memScrubCfgEnable 0 1, 5, 0xBFFFFFFF, (((hbm up).rset R.memScrubCfgEnable 0 1).chanAddr 5
      0xBFFFFFFF).getD 0, true, by decide +kernel⟩,
  ⟨(hbm up).rset R.memScrubCfgEnable 0 1, 5, 4095, (((hbm up).rset R.memScrubCfgEnable 0 1).chanAddr 5 4095).getD 0,
      false, 3, by decide +kernel⟩,
  ⟨(hbm up).rset R.memScrubCfgEnable 0 1, 5, 4095, (((hbm up).rset R.memScrubCfgEnable 0 1).chanAddr 5 4095).getD 0,
      false, by decide +kernel⟩⟩

theorem met_waysConvertBetweenCacheAndScratch :
    (∃ (s : State) (k : Nat) (v : Nat), s.barOpen 0x700000 = true ∧ k < 16 ∧ s.rb R.creelWaycfgBusy k = false ∧ bits v 0
      16 = s.rg R.creelWaycfgScratch k) ∧ (∃ (s : State) (k : Nat) (v : Nat), s.barOpen 0x700000 = true ∧ k < 16 ∧
      s.rb R.creelWaycfgBusy k = false ∧ s.rg R.creelWaycfgScratch k = 0 ∧ bits v 0 16 = 1 ∧ s.ms.creel = []) ∧ (∃
      (s : State) (k : Nat), k < 16 ∧ s.rb R.creelWaycfgBusy k = true ∧ smGetD s.ms.converting k 0 = 1 ∧ s.rg
      R.creelWaycfgScratch k = 1 ∧ s.imgBase = 0) :=
  ⟨⟨up.rset R.creelWaycfgScratch 15 1, 15, 1, by decide +kernel⟩,
  ⟨up, 15, 1, by decide +kernel⟩,
  ⟨{ (up.rset R.creelWaycfgScratch 15 1).rset R.creelWaycfgBusy 15 1 with ms := { up.ms with converting := [(15, 1)] } },
      15, by decide +kernel⟩⟩

theorem met_addersApplyRequestsInTheirOrder :
    (∃ (s : State) (r : AddReq), s.addReady r.id = some r ∧ r.marker = false ∧ (∀ j, j < 4 → s.heldBack r.ctx j = false)
      ∧ r.ordered = false) ∧ (∃ (s : State) (r : AddReq), s.addReady r.id = some r ∧ r.marker = false ∧ (∀ j, j < 4
      → s.heldBack r.ctx j = false) ∧ r.ordered = true ∧ r.held = false ∧ s.hoopBad r = false ∧ r.tag = s.rg
      R.memHoopStateNextTag (hoopElem r.coil r.hoop)) ∧ (∃ (s : State) (r : AddReq), s.addReady r.id = some r ∧
      r.marker = false ∧ (∀ j, j < 4 → s.heldBack r.ctx j = false) ∧ r.held = true ∧ r.tag = s.rg
      R.memHoopStateNextTag (hoopElem r.coil r.hoop)) ∧ (∃ (s : State) (r : AddReq), s.addReady r.id = some r ∧
      r.marker = false ∧ r.ordered = true ∧ r.held = false ∧ s.hoopBad r = true) ∧ (∃ (s : State) (r : AddReq),
      s.addReady r.id = some r ∧ r.marker = false ∧ r.ordered = true ∧ r.held = false ∧ s.hoopBad r = false ∧ s.rg
      R.memHoopStateNextTag (hoopElem r.coil r.hoop) < r.tag ∧ s.ms.adds = [r]) ∧ (∃ (s : State) (r : AddReq),
      s.addReady r.id = some r ∧ r.marker = true ∧ r.tag = s.rg R.memHoopStateNextTag (hoopElem r.coil r.hoop) ∧
      r.tag + 1 < s.rg R.memHoopCfgN (hoopElem r.coil r.hoop)) :=
  ⟨⟨adding addReq, addReq, by decide +kernel⟩,
  ⟨hoop (adding { addReq with ordered := true }), { addReq with ordered := true }, by decide +kernel⟩,
  ⟨hoop (adding { addReq with ordered := true, held := true }), { addReq with ordered := true, held := true },
      by decide +kernel⟩,
  ⟨hoop (adding { addReq with ordered := true, tag := 5 }), { addReq with ordered := true, tag := 5 },
      by decide +kernel⟩,
  ⟨hoop (adding { addReq with ordered := true, tag := 4 }), { addReq with ordered := true, tag := 4 },
      by decide +kernel⟩,
  ⟨(hoop (adding { addReq with marker := true, ordered := true, who := 2048, tag := 3 })).rset R.memHoopStateNextTag 3
      3, { addReq with marker := true, ordered := true, who := 2048, tag := 3 }, by decide +kernel⟩⟩

theorem met_addersApplyRequestsInTheirOrder_2 :
    (∃ (s : State) (r : AddReq), s.addReady r.id = some r ∧ r.marker = true ∧ r.tag = s.rg R.memHoopStateNextTag
      (hoopElem r.coil r.hoop) ∧ s.rg R.memHoopCfgN (hoopElem r.coil r.hoop) ≤ r.tag + 1) ∧ (∃ (s : State) (id :
      Nat), s.addReady id = none) :=
  ⟨⟨(hoop (adding { addReq with marker := true, ordered := true, who := 2048, tag := 4 })).rset R.memHoopStateNextTag 3
      4, { addReq with marker := true, ordered := true, who := 2048, tag := 4 }, by decide +kernel⟩,
  ⟨up, 0, by decide +kernel⟩⟩

theorem met_adderSumsElementsOfOneSector :
    (∃ (s : State) (r : AddReq) (x : Nat) (c : Nat), r.fmt = 0x10 ∧ r.src = 0x10 ∧ r.mask = 1 ∧ r.addends = [x] ∧ x < 2
      ^ 32 ∧ r.addr % 64 = 0 ∧ s.region r.addr = .hbm ∧ s.coilOf r.addr = some c ∧ s.ms.bad.contains (r.addr / 64) =
      false ∧ s.addReady r.id = some r ∧ r.marker = false ∧ r.ordered = false ∧ (∀ j, j < 4 → s.heldBack r.ctx j =
      false)) :=
  ⟨put8 (adding addReq) 0x60000 3, addReq, 0xFFFFFFFF, 0, by decide +kernel⟩

theorem met_hamperFailsAndPoolsAreEnabled :
    (∃ (s : State) (ch : Nat), ch < 64 ∧ s.rb R.hampChanStateLive ch = true ∧ s.rb R.hampChanStateFailed ch = false) ∧
      (∃ (s : State) (a : Nat) (n : Nat) (ch : Nat) (ca : Nat), s.region a = .hamper ∧ s.hamperOf a = some (ch, ca)
      ∧ s.rb R.hampChanStateFailed ch = true) ∧ (∃ (s : State) (p : Nat) (v : Nat) (F : Nat) (nh : Nat) (nl : Nat),
      s.barOpen 0x800000 = true ∧ p < 1024 ∧ s.rb R.poolCfgEnable p = false ∧ bits v 0 3 = 1 ∧ 12 ≤ bits v 12 5 ∧
      bits v 12 5 ≤ 21 ∧ F = 2 ^ bits v 12 5 ∧ nh = s.rg R.poolCountsHbmFrames p ∧ nl = s.rg R.poolCountsHampFrames
      p ∧ s.rg R.poolHbmBase p % F = 0 ∧ s.rg R.poolHampBase p % F = 0 ∧ s.rg R.poolTableBase p % 64 = 0 ∧ 0 < nh +
      nl ∧ nh + nl ≤ 0xFFFFFFFE ∧ (nh ≠ 0 → s.rg R.memWindowBaseBase (bits v 8 4) ≤ s.rg R.poolHbmBase p ∧ s.rg
      R.poolHbmBase p + nh * F ≤ s.rg R.memWindowBaseBase (bits v 8 4) + s.rg R.memWindowSizeSize (bits v 8 4)) ∧
      (nl ≠ 0 → 0x100000000000 ≤ s.rg R.poolHampBase p ∧ s.rg R.poolHampBase p + nl * F ≤ s.rg R.hampEndEnd 0) ∧
      s.rg R.poolTableBase p + 32 * (nh + nl) ≤ s.rg R.memHbmEndEnd 0) ∧ (∃ (s : State) (p : Nat) (v : Nat) (F :
      Nat) (nh : Nat) (nl : Nat), s.barOpen 0x800000 = true ∧ p < 1024 ∧ s.rb R.poolCfgEnable p = false ∧ bits v 0 3
      = 1 ∧ 12 ≤ bits v 12 5 ∧ bits v 12 5 ≤ 21 ∧ F = 2 ^ bits v 12 5 ∧ nh = s.rg R.poolCountsHbmFrames p ∧ nl =
      s.rg R.poolCountsHampFrames p ∧ s.rg R.poolHbmBase p % F = 0 ∧ s.rg R.poolHampBase p % F ≠ 0) ∧ (∃ (s : State)
      (p : Nat) (v : Nat), s.barOpen 0x800000 = true ∧ p < 1024 ∧ s.rb R.poolCfgEnable p = true ∧ bits v 0 3 = 0 ∧
      (s.hbmFree p).length + (s.hampFree p).length = s.poolN p) ∧ (∃ (s : State) (p : Nat) (v : Nat), s.barOpen
      0x800000 = true ∧ p < 1024 ∧ s.rb R.poolCfgEnable p = false ∧ bits v 0 3 = 0 ∧ 12 ≤ bits v 12 5 ∧ bits v 12 5
      ≤ 21) :=
  ⟨⟨up.rset R.hampChanStateLive 63 1, 63, by decide +kernel⟩,
  ⟨((up.rset R.hampChanStateLive 3 1).rset R.hampChanStateFailed 3 1).rset R.hampEndEnd 0 0x100001000000,
      0x100000000FFF, 64, 3, (((((up.rset R.hampChanStateLive 3 1).rset R.hampChanStateFailed 3 1).rset R.hampEndEnd
      0 0x100001000000).hamperOf 0x100000000FFF).getD (0, 0)).2, by decide +kernel⟩,
  ⟨(((hbm up).rset R.poolCountsHbmFrames 1023 2).rset R.poolHbmBase 1023 0x400000).rset R.poolHampBase 1023
      0x100000000000, 1023, 1 + 12 * 2 ^ 12, 4096, 2, 0, by decide +kernel⟩,
  ⟨(((hbm up).rset R.poolCountsHbmFrames 1023 2).rset R.poolHbmBase 1023 0x400000).rset R.poolHampBase 1023 2048,
      1023, 1 + 12 * 2 ^ 12, 4096, 2, 0, by decide +kernel⟩,
  ⟨up.rset R.poolCfgEnable 1023 1, 1023, 0, by decide +kernel⟩,
  ⟨up, 1023, 21 * 2 ^ 12 + 5 * 2 ^ 8 + 63 * 2 ^ 24, by decide +kernel⟩⟩

theorem met_listEntriesTakeEffectInOrder :
    (∃ (s : State) (u : State) (id : Nat) (e : Nat) (l : PfList) (n : PfList) (rq : Rq) (rd : Rd), s.list id = some l ∧
      (∀ j, j < 4 → s.heldBack l.ctx j = false) ∧ rq = s.frontRq l.ctx ∧ rd = s.vread rq (l.va + 32 * l.next) 32 ∧
      rd.st = 0 ∧ u = rd.s ∧ e = leNat rd.bs ∧ u.entryMalformed e = false ∧ l.next + 1 < l.count ∧ n =
      { l with next := l.next + 1 } ∧ u.entryFrames l.ctx e = [] ∧ leOp e = 0) ∧ (∃ (s : State) (u : State) (id :
      Nat) (e : Nat) (l : PfList) (n : PfList) (rq : Rq) (rd : Rd), s.list id = some l ∧ (∀ j, j < 4 → s.heldBack
      l.ctx j = false) ∧ rq = s.frontRq l.ctx ∧ rd = s.vread rq (l.va + 32 * l.next) 32 ∧ rd.st = 0 ∧ u = rd.s ∧ e =
      leNat rd.bs ∧ u.entryMalformed e = false ∧ l.next + 1 < l.count ∧ n = { l with next := l.next + 1 } ∧
      u.entryFrames l.ctx e = [] ∧ leOp e = 1) ∧ (∃ (s : State) (u : State) (id : Nat) (e : Nat) (l : PfList) (n :
      PfList) (rq : Rq) (rd : Rd), s.list id = some l ∧ (∀ j, j < 4 → s.heldBack l.ctx j = false) ∧ rq = s.frontRq
      l.ctx ∧ rd = s.vread rq (l.va + 32 * l.next) 32 ∧ rd.st = 0 ∧ u = rd.s ∧ e = leNat rd.bs ∧ u.entryMalformed e
      = false ∧ l.next + 1 < l.count ∧ n = { l with next := l.next + 1 } ∧ u.entryFrames l.ctx e = [] ∧ leOp e = 4)
      ∧ (∃ (s : State) (u : State) (id : Nat) (e : Nat) (l : PfList) (n : PfList) (rq : Rq) (rd : Rd) (va : Nat) (k
      : Nat) (i : Nat), s.list id = some l ∧ (∀ j, j < 4 → s.heldBack l.ctx j = false) ∧ rq = s.frontRq l.ctx ∧ rd =
      s.vread rq (l.va + 32 * l.next) 32 ∧ rd.st = 0 ∧ u = rd.s ∧ e = leNat rd.bs ∧ u.entryMalformed e = false ∧
      l.next + 1 < l.count ∧ n = { l with next := l.next + 1 } ∧ u.entryFrames l.ctx e = [va] ∧ u.poolFrameAt l.ctx
      va = some (k, i) ∧ leOp e = 0 ∧ i < u.poolNh k ∧ bits e 3 2 = 0) ∧ (∃ (s : State) (u : State) (id : Nat) (e :
      Nat) (l : PfList) (n : PfList) (rq : Rq) (rd : Rd) (va : Nat) (k : Nat) (i : Nat), s.list id = some l ∧ (∀ j,
      j < 4 → s.heldBack l.ctx j = false) ∧ rq = s.frontRq l.ctx ∧ rd = s.vread rq (l.va + 32 * l.next) 32 ∧ rd.st =
      0 ∧ u = rd.s ∧ e = leNat rd.bs ∧ u.entryMalformed e = false ∧ l.next + 1 < l.count ∧ n =
      { l with next := l.next + 1 } ∧ u.entryFrames l.ctx e = [va] ∧ u.poolFrameAt l.ctx va = some (k, i) ∧ leOp e =
      1 ∧ u.poolNh k ≤ i ∧ bits e 3 2 = 0) ∧ (∃ (s : State) (u : State) (id : Nat) (e : Nat) (l : PfList) (n :
      PfList) (rq : Rq) (rd : Rd) (va : Nat) (k : Nat) (i : Nat) (j : Nat) (rest : List Nat) (v : State), s.list id
      = some l ∧ (∀ j, j < 4 → s.heldBack l.ctx j = false) ∧ rq = s.frontRq l.ctx ∧ rd = s.vread rq (l.va + 32 *
      l.next) 32 ∧ rd.st = 0 ∧ u = rd.s ∧ e = leNat rd.bs ∧ u.entryMalformed e = false ∧ l.next + 1 < l.count ∧ n =
      { l with next := l.next + 1 } ∧ u.entryFrames l.ctx e = [va] ∧ u.poolFrameAt l.ctx va = some (k, i) ∧ leOp e =
      0 ∧ u.poolNh k ≤ i ∧ bits e 3 2 = 0 ∧ u.hbmFree k = j :: rest ∧ (u.setHbmFree k rest).moveFrame l.ctx k i j =
      (v, none)) :=
  ⟨by refine ⟨listed (0x60000 * 2 ^ 64 + 4096 * 2 ^ 128), ((listed (0x60000 * 2 ^ 64 + 4096 * 2 ^ 128)).vread ((listed
      (0x60000 * 2 ^ 64 + 4096 * 2 ^ 128)).frontRq (pfList 2).ctx) ((pfList 2).va + 32 * (pfList 2).next) 32).s, 0,
      leNat ((listed (0x60000 * 2 ^ 64 + 4096 * 2 ^ 128)).vread ((listed (0x60000 * 2 ^ 64 + 4096 * 2 ^
      128)).frontRq (pfList 2).ctx) ((pfList 2).va + 32 * (pfList 2).next) 32).bs, pfList 2,
      { (pfList 2) with next := (pfList 2).next + 1 }, (listed (0x60000 * 2 ^ 64 + 4096 * 2 ^ 128)).frontRq (pfList
      2).ctx, (listed (0x60000 * 2 ^ 64 + 4096 * 2 ^ 128)).vread ((listed (0x60000 * 2 ^ 64 + 4096 * 2 ^
      128)).frontRq (pfList 2).ctx) ((pfList 2).va + 32 * (pfList 2).next) 32, ?_, ?_, rfl, rfl, ?_, rfl, rfl, ?_,
      ?_, rfl, ?_⟩ <;> decide +kernel,
  by refine ⟨listed (1 + 0x60000 * 2 ^ 64 + 4096 * 2 ^ 128), ((listed (1 + 0x60000 * 2 ^ 64 + 4096 * 2 ^ 128)).vread
      ((listed (1 + 0x60000 * 2 ^ 64 + 4096 * 2 ^ 128)).frontRq (pfList 2).ctx) ((pfList 2).va + 32 * (pfList
      2).next) 32).s, 0, leNat ((listed (1 + 0x60000 * 2 ^ 64 + 4096 * 2 ^ 128)).vread ((listed (1 + 0x60000 * 2 ^
      64 + 4096 * 2 ^ 128)).frontRq (pfList 2).ctx) ((pfList 2).va + 32 * (pfList 2).next) 32).bs, pfList 2,
      { (pfList 2) with next := (pfList 2).next + 1 }, (listed (1 + 0x60000 * 2 ^ 64 + 4096 * 2 ^ 128)).frontRq
      (pfList 2).ctx, (listed (1 + 0x60000 * 2 ^ 64 + 4096 * 2 ^ 128)).vread ((listed (1 + 0x60000 * 2 ^ 64 + 4096 *
      2 ^ 128)).frontRq (pfList 2).ctx) ((pfList 2).va + 32 * (pfList 2).next) 32, ?_, ?_, rfl, rfl, ?_, rfl, rfl,
      ?_, ?_, rfl, ?_⟩ <;> decide +kernel,
  by refine ⟨listed (4 + 0x60000 * 2 ^ 64 + 4096 * 2 ^ 128), ((listed (4 + 0x60000 * 2 ^ 64 + 4096 * 2 ^ 128)).vread
      ((listed (4 + 0x60000 * 2 ^ 64 + 4096 * 2 ^ 128)).frontRq (pfList 2).ctx) ((pfList 2).va + 32 * (pfList
      2).next) 32).s, 0, leNat ((listed (4 + 0x60000 * 2 ^ 64 + 4096 * 2 ^ 128)).vread ((listed (4 + 0x60000 * 2 ^
      64 + 4096 * 2 ^ 128)).frontRq (pfList 2).ctx) ((pfList 2).va + 32 * (pfList 2).next) 32).bs, pfList 2,
      { (pfList 2) with next := (pfList 2).next + 1 }, (listed (4 + 0x60000 * 2 ^ 64 + 4096 * 2 ^ 128)).frontRq
      (pfList 2).ctx, (listed (4 + 0x60000 * 2 ^ 64 + 4096 * 2 ^ 128)).vread ((listed (4 + 0x60000 * 2 ^ 64 + 4096 *
      2 ^ 128)).frontRq (pfList 2).ctx) ((pfList 2).va + 32 * (pfList 2).next) 32, ?_, ?_, rfl, rfl, ?_, rfl, rfl,
      ?_, ?_, rfl, ?_⟩ <;> decide +kernel,
  by refine ⟨framed (listed (pfEntry 0 0)) 0, ((framed (listed (pfEntry 0 0)) 0).vread ((framed (listed (pfEntry 0 0))
      0).frontRq (pfList 2).ctx) ((pfList 2).va + 32 * (pfList 2).next) 32).s, 0, leNat ((framed (listed (pfEntry 0
      0)) 0).vread ((framed (listed (pfEntry 0 0)) 0).frontRq (pfList 2).ctx) ((pfList 2).va + 32 * (pfList 2).next)
      32).bs, pfList 2, { (pfList 2) with next := (pfList 2).next + 1 }, (framed (listed (pfEntry 0 0)) 0).frontRq
      (pfList 2).ctx, (framed (listed (pfEntry 0 0)) 0).vread ((framed (listed (pfEntry 0 0)) 0).frontRq (pfList
      2).ctx) ((pfList 2).va + 32 * (pfList 2).next) 32, 0x40000000, 0, 0, ?_, ?_, rfl, rfl, ?_, rfl, rfl, ?_, ?_,
      rfl, ?_⟩ <;> decide +kernel,
  by refine ⟨framed (listed (pfEntry 1 0)) 1, ((framed (listed (pfEntry 1 0)) 1).vread ((framed (listed (pfEntry 1 0))
      1).frontRq (pfList 2).ctx) ((pfList 2).va + 32 * (pfList 2).next) 32).s, 0, leNat ((framed (listed (pfEntry 1
      0)) 1).vread ((framed (listed (pfEntry 1 0)) 1).frontRq (pfList 2).ctx) ((pfList 2).va + 32 * (pfList 2).next)
      32).bs, pfList 2, { (pfList 2) with next := (pfList 2).next + 1 }, (framed (listed (pfEntry 1 0)) 1).frontRq
      (pfList 2).ctx, (framed (listed (pfEntry 1 0)) 1).vread ((framed (listed (pfEntry 1 0)) 1).frontRq (pfList
      2).ctx) ((pfList 2).va + 32 * (pfList 2).next) 32, 0x40000000, 0, 1, ?_, ?_, rfl, rfl, ?_, rfl, rfl, ?_, ?_,
      rfl, ?_⟩ <;> decide +kernel,
  by refine ⟨freed (framed (listed (pfEntry 0 0)) 1) 0, ((freed (framed (listed (pfEntry 0 0)) 1) 0).vread ((freed
      (framed (listed (pfEntry 0 0)) 1) 0).frontRq (pfList 2).ctx) ((pfList 2).va + 32 * (pfList 2).next) 32).s, 0,
      leNat ((freed (framed (listed (pfEntry 0 0)) 1) 0).vread ((freed (framed (listed (pfEntry 0 0)) 1) 0).frontRq
      (pfList 2).ctx) ((pfList 2).va + 32 * (pfList 2).next) 32).bs, pfList 2,
      { (pfList 2) with next := (pfList 2).next + 1 }, (freed (framed (listed (pfEntry 0 0)) 1) 0).frontRq (pfList
      2).ctx, (freed (framed (listed (pfEntry 0 0)) 1) 0).vread ((freed (framed (listed (pfEntry 0 0)) 1) 0).frontRq
      (pfList 2).ctx) ((pfList 2).va + 32 * (pfList 2).next) 32, 0x40000000, 0, 1, 0, [], (((((freed (framed (listed
      (pfEntry 0 0)) 1) 0).vread ((freed (framed (listed (pfEntry 0 0)) 1) 0).frontRq (pfList 2).ctx) ((pfList 2).va
      + 32 * (pfList 2).next) 32).s).setHbmFree 0 ([])).moveFrame (pfList 2).ctx 0 1 0).1, ?_, ?_, rfl, rfl, ?_,
      rfl, rfl, ?_, ?_, rfl, ?_, ?_, ?_, ?_, ?_, ?_, pair_eq (by decide +kernel)⟩ <;> decide +kernel⟩

theorem met_listEntriesTakeEffectInOrder_2 :
    (∃ (s : State) (u : State) (id : Nat) (e : Nat) (l : PfList) (n : PfList) (rq : Rq) (rd : Rd) (va : Nat) (k : Nat)
      (i : Nat) (j : Nat) (rest : List Nat) (v : State), s.list id = some l ∧ (∀ j, j < 4 → s.heldBack l.ctx j =
      false) ∧ rq = s.frontRq l.ctx ∧ rd = s.vread rq (l.va + 32 * l.next) 32 ∧ rd.st = 0 ∧ u = rd.s ∧ e = leNat
      rd.bs ∧ u.entryMalformed e = false ∧ l.next + 1 < l.count ∧ n = { l with next := l.next + 1 } ∧ u.entryFrames
      l.ctx e = [va] ∧ u.poolFrameAt l.ctx va = some (k, i) ∧ leOp e = 1 ∧ i < u.poolNh k ∧ bits e 3 2 = 0 ∧
      u.hampFree k = j :: rest ∧ (u.setHampFree k rest).moveFrame l.ctx k i j = (v, none)) ∧ (∃ (s : State) (u :
      State) (id : Nat) (e : Nat) (l : PfList) (n : PfList) (rq : Rq) (rd : Rd) (va : Nat) (k : Nat) (i : Nat),
      s.list id = some l ∧ (∀ j, j < 4 → s.heldBack l.ctx j = false) ∧ rq = s.frontRq l.ctx ∧ rd = s.vread rq (l.va
      + 32 * l.next) 32 ∧ rd.st = 0 ∧ u = rd.s ∧ e = leNat rd.bs ∧ u.entryMalformed e = false ∧ l.next + 1 < l.count
      ∧ n = { l with next := l.next + 1 } ∧ u.entryFrames l.ctx e = [va] ∧ u.poolFrameAt l.ctx va = some (k, i) ∧
      leOp e = 4) ∧ (∃ (s : State) (u : State) (id : Nat) (e : Nat) (l : PfList) (n : PfList) (rq : Rq) (rd : Rd) (i
      : Nat) (rest : List Nat), s.list id = some l ∧ (∀ j, j < 4 → s.heldBack l.ctx j = false) ∧ rq = s.frontRq
      l.ctx ∧ rd = s.vread rq (l.va + 32 * l.next) 32 ∧ rd.st = 0 ∧ u = rd.s ∧ e = leNat rd.bs ∧ u.entryMalformed e
      = false ∧ l.next + 1 < l.count ∧ n = { l with next := l.next + 1 } ∧ leOp e = 3 ∧ u.rb R.poolCfgEnable (bits e
      16 10) = true ∧ (l.ctx = 0 ∨ u.rg R.poolCfgPartition (bits e 16 10) = u.rg R.ctxCfgPartition l.ctx) ∧ leLen e
      = u.poolF (bits e 16 10) ∧ bit e 5 = false ∧ u.hbmFree (bits e 16 10) = i :: rest ∧ (u.leafSlots l.ctx (leAddr
      e) (u.poolLog (bits e 16 10)) true).isSome = true) ∧ (∃ (s : State) (u : State) (id : Nat) (e : Nat) (l :
      PfList) (n : PfList) (rq : Rq) (rd : Rd), s.list id = some l ∧ (∀ j, j < 4 → s.heldBack l.ctx j = false) ∧ rq
      = s.frontRq l.ctx ∧ rd = s.vread rq (l.va + 32 * l.next) 32 ∧ rd.st = 0 ∧ u = rd.s ∧ e = leNat rd.bs ∧
      u.entryMalformed e = false ∧ l.next + 1 < l.count ∧ n = { l with next := l.next + 1 } ∧ leOp e = 3 ∧ u.rb
      R.poolCfgEnable (bits e 16 10) = true ∧ (l.ctx = 0 ∨ u.rg R.poolCfgPartition (bits e 16 10) = u.rg
      R.ctxCfgPartition l.ctx) ∧ leLen e = u.poolF (bits e 16 10) ∧ bit e 5 = false ∧ u.hbmFree (bits e 16 10) = []
      ∧ u.ageList (bits e 16 10) = []) ∧ (∃ (s : State) (u : State) (id : Nat) (e : Nat) (l : PfList) (n : PfList)
      (rq : Rq) (rd : Rd) (ls : TlbEnt) (ld : TlbEnt) (src : Nat) (dst : Nat), s.list id = some l ∧ (∀ j, j < 4 →
      s.heldBack l.ctx j = false) ∧ rq = s.frontRq l.ctx ∧ rd = s.vread rq (l.va + 32 * l.next) 32 ∧ rd.st = 0 ∧ u =
      rd.s ∧ e = leNat rd.bs ∧ u.entryMalformed e = false ∧ l.next + 1 < l.count ∧ n = { l with next := l.next + 1 }
      ∧ leOp e = 2 ∧ src = leAddr e ∧ dst = bits e 192 48 ∧ leLen e = 64 ∧ dst % 64 = 0 ∧ src ≠ dst ∧ u.ms.bad = []
      ∧ u.ms.badWords = [] ∧ u.rb R.ctxPtRootValid l.ctx = true ∧ u.leaf rq src = some ls ∧ (u.walk l.ctx src
      false).2 = some ls ∧ ls.pa % 4096 = 0 ∧ 12 ≤ ls.log2 ∧ u.readStatus (ls.pa + src % 2 ^ ls.log2) 64 = 0 ∧
      u.leaf rq dst = some ld ∧ (u.walk l.ctx dst true).2 = some ld ∧ ld.write = true ∧ ld.pa % 4096 = 0 ∧ 12 ≤
      ld.log2 ∧ u.writeStatus (ld.pa + dst % 2 ^ ld.log2) = 0) ∧ (∃ (s : State) (u : State) (id : Nat) (e : Nat)
      (ring : Nat) (slot : Nat) (l : PfList) (rd : Rd), s.list id = some l ∧ (∀ j, j < 4 → s.heldBack l.ctx j =
      false) ∧ rd = s.vread (s.frontRq l.ctx) (l.va + 32 * l.next) 32 ∧ rd.st = 0 ∧ u = rd.s ∧ e = leNat rd.bs ∧
      u.entryMalformed e = false ∧ l.count ≤ l.next + 1 ∧ l.packet = some (ring, slot) ∧ leOp e = 0 ∧ u.entryFrames
      l.ctx e = []) :=
  ⟨by refine ⟨freed (framed (listed (pfEntry 1 0)) 0) 1, ((freed (framed (listed (pfEntry 1 0)) 0) 1).vread ((freed
      (framed (listed (pfEntry 1 0)) 0) 1).frontRq (pfList 2).ctx) ((pfList 2).va + 32 * (pfList 2).next) 32).s, 0,
      leNat ((freed (framed (listed (pfEntry 1 0)) 0) 1).vread ((freed (framed (listed (pfEntry 1 0)) 0) 1).frontRq
      (pfList 2).ctx) ((pfList 2).va + 32 * (pfList 2).next) 32).bs, pfList 2,
      { (pfList 2) with next := (pfList 2).next + 1 }, (freed (framed (listed (pfEntry 1 0)) 0) 1).frontRq (pfList
      2).ctx, (freed (framed (listed (pfEntry 1 0)) 0) 1).vread ((freed (framed (listed (pfEntry 1 0)) 0) 1).frontRq
      (pfList 2).ctx) ((pfList 2).va + 32 * (pfList 2).next) 32, 0x40000000, 0, 0, 1, [], (((((freed (framed (listed
      (pfEntry 1 0)) 0) 1).vread ((freed (framed (listed (pfEntry 1 0)) 0) 1).frontRq (pfList 2).ctx) ((pfList 2).va
      + 32 * (pfList 2).next) 32).s).setHampFree 0 ([])).moveFrame (pfList 2).ctx 0 0 1).1, ?_, ?_, rfl, rfl, ?_,
      rfl, rfl, ?_, ?_, rfl, ?_, ?_, ?_, ?_, ?_, ?_, pair_eq (by decide +kernel)⟩ <;> decide +kernel,
  by refine ⟨framed (listed (pfEntry 4 0)) 1, ((framed (listed (pfEntry 4 0)) 1).vread ((framed (listed (pfEntry 4 0))
      1).frontRq (pfList 2).ctx) ((pfList 2).va + 32 * (pfList 2).next) 32).s, 0, leNat ((framed (listed (pfEntry 4
      0)) 1).vread ((framed (listed (pfEntry 4 0)) 1).frontRq (pfList 2).ctx) ((pfList 2).va + 32 * (pfList 2).next)
      32).bs, pfList 2, { (pfList 2) with next := (pfList 2).next + 1 }, (framed (listed (pfEntry 4 0)) 1).frontRq
      (pfList 2).ctx, (framed (listed (pfEntry 4 0)) 1).vread ((framed (listed (pfEntry 4 0)) 1).frontRq (pfList
      2).ctx) ((pfList 2).va + 32 * (pfList 2).next) 32, 0x40000000, 0, 1, ?_, ?_, rfl, rfl, ?_, rfl, rfl, ?_, ?_,
      rfl, ?_⟩ <;> decide +kernel,
  by refine ⟨freed (framed (listed (pfEntry 3 1)) 1) 0, ((freed (framed (listed (pfEntry 3 1)) 1) 0).vread ((freed
      (framed (listed (pfEntry 3 1)) 1) 0).frontRq (pfList 2).ctx) ((pfList 2).va + 32 * (pfList 2).next) 32).s, 0,
      leNat ((freed (framed (listed (pfEntry 3 1)) 1) 0).vread ((freed (framed (listed (pfEntry 3 1)) 1) 0).frontRq
      (pfList 2).ctx) ((pfList 2).va + 32 * (pfList 2).next) 32).bs, pfList 2,
      { (pfList 2) with next := (pfList 2).next + 1 }, (freed (framed (listed (pfEntry 3 1)) 1) 0).frontRq (pfList
      2).ctx, (freed (framed (listed (pfEntry 3 1)) 1) 0).vread ((freed (framed (listed (pfEntry 3 1)) 1) 0).frontRq
      (pfList 2).ctx) ((pfList 2).va + 32 * (pfList 2).next) 32, 0, [], ?_, ?_, rfl, rfl, ?_, rfl, rfl, ?_, ?_, rfl,
      ?_⟩ <;> decide +kernel,
  by refine ⟨framed (listed (pfEntry 3 1)) 0, ((framed (listed (pfEntry 3 1)) 0).vread ((framed (listed (pfEntry 3 1))
      0).frontRq (pfList 2).ctx) ((pfList 2).va + 32 * (pfList 2).next) 32).s, 0, leNat ((framed (listed (pfEntry 3
      1)) 0).vread ((framed (listed (pfEntry 3 1)) 0).frontRq (pfList 2).ctx) ((pfList 2).va + 32 * (pfList 2).next)
      32).bs, pfList 2, { (pfList 2) with next := (pfList 2).next + 1 }, (framed (listed (pfEntry 3 1)) 0).frontRq
      (pfList 2).ctx, (framed (listed (pfEntry 3 1)) 0).vread ((framed (listed (pfEntry 3 1)) 0).frontRq (pfList
      2).ctx) ((pfList 2).va + 32 * (pfList 2).next) 32, ?_, ?_, rfl, rfl, ?_, rfl, rfl, ?_, ?_, rfl, ?_⟩ <;> decide
      +kernel,
  by refine ⟨listed (2 + 0x60000 * 2 ^ 64 + 64 * 2 ^ 128 + 0x61000 * 2 ^ 192), ((listed (2 + 0x60000 * 2 ^ 64 + 64 * 2
      ^ 128 + 0x61000 * 2 ^ 192)).vread ((listed (2 + 0x60000 * 2 ^ 64 + 64 * 2 ^ 128 + 0x61000 * 2 ^ 192)).frontRq
      (pfList 2).ctx) ((pfList 2).va + 32 * (pfList 2).next) 32).s, 0, leNat ((listed (2 + 0x60000 * 2 ^ 64 + 64 * 2
      ^ 128 + 0x61000 * 2 ^ 192)).vread ((listed (2 + 0x60000 * 2 ^ 64 + 64 * 2 ^ 128 + 0x61000 * 2 ^ 192)).frontRq
      (pfList 2).ctx) ((pfList 2).va + 32 * (pfList 2).next) 32).bs, pfList 2,
      { (pfList 2) with next := (pfList 2).next + 1 }, (listed (2 + 0x60000 * 2 ^ 64 + 64 * 2 ^ 128 + 0x61000 * 2 ^
      192)).frontRq (pfList 2).ctx, (listed (2 + 0x60000 * 2 ^ 64 + 64 * 2 ^ 128 + 0x61000 * 2 ^ 192)).vread
      ((listed (2 + 0x60000 * 2 ^ 64 + 64 * 2 ^ 128 + 0x61000 * 2 ^ 192)).frontRq (pfList 2).ctx) ((pfList 2).va +
      32 * (pfList 2).next) 32, leaf 1, leaf 1, 0x60000, 0x61000, ?_, ?_, rfl, rfl, ?_, rfl, rfl, ?_, ?_, rfl, ?_⟩
      <;> decide +kernel,
  by refine ⟨{ listed (0x60000 * 2 ^ 64 + 4096 * 2 ^ 128) with lists := [{ pfList 1 with packet := some (0, 0) }] },
      (({ listed (0x60000 * 2 ^ 64 + 4096 * 2 ^ 128) with lists := [{ pfList 1 with packet := some (0, 0) }] }).vread
      (({ listed (0x60000 * 2 ^ 64 + 4096 * 2 ^ 128) with lists := [{ pfList 1 with packet := some (0, 0) }] }).frontRq
      ({ pfList 1 with packet := some (0, 0) }).ctx) (({ pfList 1 with packet := some (0, 0) }).va + 32 *
      ({ pfList 1 with packet := some (0, 0) }).next) 32).s, 0, leNat
      (({ listed (0x60000 * 2 ^ 64 + 4096 * 2 ^ 128) with lists := [{ pfList 1 with packet := some (0, 0) }] }).vread
      (({ listed (0x60000 * 2 ^ 64 + 4096 * 2 ^ 128) with lists := [{ pfList 1 with packet := some (0, 0) }] }).frontRq
      ({ pfList 1 with packet := some (0, 0) }).ctx) (({ pfList 1 with packet := some (0, 0) }).va + 32 *
      ({ pfList 1 with packet := some (0, 0) }).next) 32).bs, 0, 0, { pfList 1 with packet := some (0, 0) },
      ({ listed (0x60000 * 2 ^ 64 + 4096 * 2 ^ 128) with lists := [{ pfList 1 with packet := some (0, 0) }] }).vread
      (({ listed (0x60000 * 2 ^ 64 + 4096 * 2 ^ 128) with lists := [{ pfList 1 with packet := some (0, 0) }] }).frontRq
      ({ pfList 1 with packet := some (0, 0) }).ctx) (({ pfList 1 with packet := some (0, 0) }).va + 32 *
      ({ pfList 1 with packet := some (0, 0) }).next) 32, ?_, ?_, rfl, ?_, rfl, rfl, ?_⟩ <;> decide +kernel⟩

theorem met_listEntriesTakeEffectInOrder_3 :
    (∃ (s : State) (id : Nat) (l : PfList) (rd : Rd), s.list id = some l ∧ (∀ j, j < 4 → s.heldBack l.ctx j = false) ∧
      rd = s.vread (s.frontRq l.ctx) (l.va + 32 * l.next) 32 ∧ rd.st = 0 ∧ rd.s.entryMalformed (leNat rd.bs) = true) :=
  by refine ⟨listed 7, 0, pfList 2, (listed 7).vread ((listed 7).frontRq (pfList 2).ctx) ((pfList 2).va + 32 * (pfList
      2).next) 32, ?_, ?_, rfl, ?_⟩ <;> decide +kernel

theorem met_partitionResetsAndVirtualFunctions :
    (∃ (s : State) (v : Nat) (p : Nat), p = bits v 0 6 ∧ bit v 6 = true ∧ s.barOpen 0x1000000 = true ∧ s.rb
      R.pwrStatusReady 0 = true ∧ s.rg R.pwrStatusHoldState 0 = 0) ∧ (∃ (s : State) (u : State) (p : Nat), s.pwr.off
      = false ∧ s.pwr.stage = 0 ∧ p ∉ s.pwr.partReset ∧ u = (s.resetPartition p).logEntry 2 1 p 0) ∧ (∃ (s : State)
      (p : Nat), p ∈ s.pwr.partReset) ∧ (∃ (s : State) (p : Nat), s.pwr.partReset = [p]) ∧ (∃ (s : State) (vf : Nat)
      (p : Nat), vf ≠ 0 ∧ vf ≤ s.numVfs ∧ s.vfPart vf = some p) ∧ (∃ (s : State) (n : Nat), s.pwr.off = false ∧
      s.recovery = false ∧ n ≤ 63 ∧ s.numVfs < n) :=
  ⟨⟨up, 64 + 63, 63, by decide +kernel⟩,
  by refine ⟨up, (up.resetPartition 63).logEntry 2 1 63 0, 63, ?_, ?_, ?_, rfl⟩ <;> decide +kernel,
  ⟨{ up with pwr := { up.pwr with partReset := [63] } }, 63, by decide +kernel⟩,
  ⟨{ up with pwr := { up.pwr with partReset := [63] } }, 63, by decide +kernel⟩,
  ⟨({ up with numVfs := 63 }.rset R.partCfgEnable 5 1).rset R.partCfgFunction 5 63, 63, 5, by decide +kernel⟩,
  ⟨up, 63, by decide +kernel⟩⟩

theorem met_partitionResetsAndVirtualFunctions_2 :
    (∃ (s : State) (n : Nat), n < s.numVfs ∧ (∀ vf, vf ≤ s.numVfs → n < vf → s.vfPart vf = none)) ∧ (∃ (s : State) (u :
      State) (n : Nat) (p : Nat), s.numVfs = n + 1 ∧ s.vfPart (n + 1) = some p ∧ u =
      { s with numVfs := n }.startPartition p) ∧ (∃ (s : State) (t : State) (n : Nat) (vf : Nat), exec (.vfEnable n)
      s = .next t ∧ s.pwr.off = false ∧ s.recovery = false ∧ n ≤ 63 ∧ s.numVfs < n) :=
  ⟨⟨{ up with numVfs := 63 }, 0, by decide +kernel⟩,
  by refine ⟨({ up with numVfs := 63 }.rset R.partCfgEnable 5 1).rset R.partCfgFunction 5 63,
      { (({ up with numVfs := 63 }.rset R.partCfgEnable 5 1).rset R.partCfgFunction 5 63) with numVfs := 62 }.startPartition
      5, 62, 5, ?_, ?_, rfl⟩ <;> decide +kernel,
  ⟨up, nextOf (exec (.vfEnable 63) up), 63, 63, eq_nextOf (by decide +kernel), by decide +kernel⟩⟩

theorem met_descriptorsAndWeavesComplete :
    (∃ (s : State) (u : State) (st : Nat) (w : Nat) (x : StakeSt) (wv : Weave) (rd : Rd), smGet s.stakes st = some x ∧
      s.weaveOf st = some wv ∧ wv.stop = none ∧ (∀ q ∈ x.queued, x.clear q.1 q.2 = false) ∧ x.fetched = [] ∧ x.next
      < x.total ∧ x.held < 64 ∧ (wv.launch = true ∨ ∀ j, j < 4 → s.heldBack wv.ctx j = false) ∧ rd = s.vread
      (stakeRq wv st) (x.stream + 128 * x.next) 128 ∧ rd.st = 0 ∧ w = leNat rd.bs ∧ descMalformed wv w = false ∧
      opMalformed wv w = false ∧ u = (if dWaitCount w = 0 then rd.s else rd.s.setCredit st (dWaitCredit w)
      (rd.s.credit st (dWaitCredit w) - dWaitCount w)) ∧ s.mayDispatch st x w = true ∧ x.clear x.next w = true) ∧ (∃
      (s : State) (u : State) (st : Nat) (w : Nat) (x : StakeSt) (wv : Weave) (rd : Rd), smGet s.stakes st = some x
      ∧ s.weaveOf st = some wv ∧ wv.stop = none ∧ (∀ q ∈ x.queued, x.clear q.1 q.2 = false) ∧ x.fetched = [] ∧
      x.next < x.total ∧ x.held < 64 ∧ (wv.launch = true ∨ ∀ j, j < 4 → s.heldBack wv.ctx j = false) ∧ rd = s.vread
      (stakeRq wv st) (x.stream + 128 * x.next) 128 ∧ rd.st = 0 ∧ w = leNat rd.bs ∧ descMalformed wv w = false ∧
      opMalformed wv w = false ∧ u = (if dWaitCount w = 0 then rd.s else rd.s.setCredit st (dWaitCredit w)
      (rd.s.credit st (dWaitCredit w) - dWaitCount w)) ∧ s.mayDispatch st x w = true ∧ x.clear x.next w = false) ∧
      (∃ (s : State) (u : State) (st : Nat) (w : Nat) (x : StakeSt) (wv : Weave) (rd : Rd), smGet s.stakes st = some
      x ∧ s.weaveOf st = some wv ∧ wv.stop = none ∧ (∀ q ∈ x.queued, x.clear q.1 q.2 = false) ∧ x.fetched = [] ∧
      x.next < x.total ∧ x.held < 64 ∧ (wv.launch = true ∨ ∀ j, j < 4 → s.heldBack wv.ctx j = false) ∧ rd = s.vread
      (stakeRq wv st) (x.stream + 128 * x.next) 128 ∧ rd.st = 0 ∧ w = leNat rd.bs ∧ descMalformed wv w = false ∧
      opMalformed wv w = false ∧ u = (if dWaitCount w = 0 then rd.s else rd.s.setCredit st (dWaitCredit w)
      (rd.s.credit st (dWaitCredit w) - dWaitCount w)) ∧ s.mayDispatch st x w = false) ∧ (∃ (s : State) (u : State)
      (st : Nat) (w : Nat) (ws : List Nat) (x : StakeSt) (wv : Weave), smGet s.stakes st = some x ∧ s.weaveOf st =
      some wv ∧ wv.stop = none ∧ (∀ q ∈ x.queued, x.clear q.1 q.2 = false) ∧ x.fetched = w :: ws ∧ u = (if
      dWaitCount w = 0 then s else s.setCredit st (dWaitCredit w) (s.credit st (dWaitCredit w) - dWaitCount w)) ∧
      s.mayDispatch st x w = true ∧ x.clear x.next w = true) ∧ (∃ (s : State) (u : State) (st : Nat) (w : Nat) (ws :
      List Nat) (x : StakeSt) (wv : Weave), smGet s.stakes st = some x ∧ s.weaveOf st = some wv ∧ wv.stop = none ∧
      (∀ q ∈ x.queued, x.clear q.1 q.2 = false) ∧ x.fetched = w :: ws ∧ u = (if dWaitCount w = 0 then s else
      s.setCredit st (dWaitCredit w) (s.credit st (dWaitCredit w) - dWaitCount w)) ∧ s.mayDispatch st x w = false ∧
      x.total ≤ x.next + x.fetched.length) ∧ (∃ (s : State) (u : State) (st : Nat) (q : Nat × Nat) (x : StakeSt) (wv
      : Weave), smGet s.stakes st = some x ∧ s.weaveOf st = some wv ∧ wv.stop = none ∧ x.queued = [q] ∧ x.clear q.1
      q.2 = true ∧ u = (if dWaitCount q.2 = 0 then s else s.setCredit st (dWaitCredit q.2) (s.credit st (dWaitCredit
      q.2) - dWaitCount q.2))) :=
  ⟨by refine ⟨streamed (works (desc 0x01 gemm)) (psel 0 []), (if dWaitCount (psel 0 []) = 0 then ((streamed (works
      (desc 0x01 gemm)) (psel 0 [])).vread (stakeRq weave 1) ((stk (desc 0x01 gemm) [] none none).stream + 128 *
      (stk (desc 0x01 gemm) [] none none).next) 128).s else ((streamed (works (desc 0x01 gemm)) (psel 0 [])).vread
      (stakeRq weave 1) ((stk (desc 0x01 gemm) [] none none).stream + 128 * (stk (desc 0x01 gemm) [] none
      none).next) 128).s.setCredit 1 (dWaitCredit (psel 0 [])) (((streamed (works (desc 0x01 gemm)) (psel 0
      [])).vread (stakeRq weave 1) ((stk (desc 0x01 gemm) [] none none).stream + 128 * (stk (desc 0x01 gemm) [] none
      none).next) 128).s.credit 1 (dWaitCredit (psel 0 [])) - dWaitCount (psel 0 []))), 1, psel 0 [], stk (desc 0x01
      gemm) [] none none, weave, (streamed (works (desc 0x01 gemm)) (psel 0 [])).vread (stakeRq weave 1) ((stk (desc
      0x01 gemm) [] none none).stream + 128 * (stk (desc 0x01 gemm) [] none none).next) 128, ?_, ?_, ?_, ?_, ?_, ?_,
      ?_, ?_, rfl, ?_, ?_, ?_, ?_, rfl, ?_⟩ <;> decide +kernel,
  by refine ⟨streamed (works (desc 0x01 gemm)) (desc 0x01 gemm), (if dWaitCount (desc 0x01 gemm) = 0 then ((streamed
      (works (desc 0x01 gemm)) (desc 0x01 gemm)).vread (stakeRq weave 1) ((stk (desc 0x01 gemm) [] none none).stream
      + 128 * (stk (desc 0x01 gemm) [] none none).next) 128).s else ((streamed (works (desc 0x01 gemm)) (desc 0x01
      gemm)).vread (stakeRq weave 1) ((stk (desc 0x01 gemm) [] none none).stream + 128 * (stk (desc 0x01 gemm) []
      none none).next) 128).s.setCredit 1 (dWaitCredit (desc 0x01 gemm)) (((streamed (works (desc 0x01 gemm)) (desc
      0x01 gemm)).vread (stakeRq weave 1) ((stk (desc 0x01 gemm) [] none none).stream + 128 * (stk (desc 0x01 gemm)
      [] none none).next) 128).s.credit 1 (dWaitCredit (desc 0x01 gemm)) - dWaitCount (desc 0x01 gemm))), 1, desc
      0x01 gemm, stk (desc 0x01 gemm) [] none none, weave, (streamed (works (desc 0x01 gemm)) (desc 0x01
      gemm)).vread (stakeRq weave 1) ((stk (desc 0x01 gemm) [] none none).stream + 128 * (stk (desc 0x01 gemm) []
      none none).next) 128, ?_, ?_, ?_, ?_, ?_, ?_, ?_, ?_, rfl, ?_, ?_, ?_, ?_, rfl, ?_⟩ <;> decide +kernel,
  by refine ⟨streamed (works (desc 0x01 gemm)) (psel 0 [(3, 16), (1, 12)]), (if dWaitCount (psel 0 [(3, 16), (1, 12)])
      = 0 then ((streamed (works (desc 0x01 gemm)) (psel 0 [(3, 16), (1, 12)])).vread (stakeRq weave 1) ((stk (desc
      0x01 gemm) [] none none).stream + 128 * (stk (desc 0x01 gemm) [] none none).next) 128).s else ((streamed
      (works (desc 0x01 gemm)) (psel 0 [(3, 16), (1, 12)])).vread (stakeRq weave 1) ((stk (desc 0x01 gemm) [] none
      none).stream + 128 * (stk (desc 0x01 gemm) [] none none).next) 128).s.setCredit 1 (dWaitCredit (psel 0 [(3,
      16), (1, 12)])) (((streamed (works (desc 0x01 gemm)) (psel 0 [(3, 16), (1, 12)])).vread (stakeRq weave 1)
      ((stk (desc 0x01 gemm) [] none none).stream + 128 * (stk (desc 0x01 gemm) [] none none).next) 128).s.credit 1
      (dWaitCredit (psel 0 [(3, 16), (1, 12)])) - dWaitCount (psel 0 [(3, 16), (1, 12)]))), 1, psel 0 [(3, 16), (1,
      12)], stk (desc 0x01 gemm) [] none none, weave, (streamed (works (desc 0x01 gemm)) (psel 0 [(3, 16), (1,
      12)])).vread (stakeRq weave 1) ((stk (desc 0x01 gemm) [] none none).stream + 128 * (stk (desc 0x01 gemm) []
      none none).next) 128, ?_, ?_, ?_, ?_, ?_, ?_, ?_, ?_, rfl, ?_, ?_, ?_, ?_, rfl, ?_⟩ <;> decide +kernel,
  by refine ⟨(onStake 0 [] none none).setStake 1 { stk 0 [] none none with fetched := [desc 0x0A []] }, (if dWaitCount
      (desc 0x0A []) = 0 then ((onStake 0 [] none none).setStake 1
      { stk 0 [] none none with fetched := [desc 0x0A []] }) else ((onStake 0 [] none none).setStake 1
      { stk 0 [] none none with fetched := [desc 0x0A []] }).setCredit 1 (dWaitCredit (desc 0x0A [])) (((onStake 0
      [] none none).setStake 1 { stk 0 [] none none with fetched := [desc 0x0A []] }).credit 1 (dWaitCredit (desc
      0x0A [])) - dWaitCount (desc 0x0A []))), 1, desc 0x0A [], [],
      { stk 0 [] none none with fetched := [desc 0x0A []] }, weave, ?_, ?_, ?_, ?_, ?_, rfl, ?_⟩ <;> decide +kernel,
  by refine ⟨(onStake 0 [] none none).setStake 1
      { stk 0 [] none none with total := 7, fetched := [desc 0x0A [(1, 8)]] }, (if dWaitCount (desc 0x0A [(1, 8)]) =
      0 then ((onStake 0 [] none none).setStake 1
      { stk 0 [] none none with total := 7, fetched := [desc 0x0A [(1, 8)]] }) else ((onStake 0 [] none
      none).setStake 1 { stk 0 [] none none with total := 7, fetched := [desc 0x0A [(1, 8)]] }).setCredit 1
      (dWaitCredit (desc 0x0A [(1, 8)])) (((onStake 0 [] none none).setStake 1
      { stk 0 [] none none with total := 7, fetched := [desc 0x0A [(1, 8)]] }).credit 1 (dWaitCredit (desc 0x0A [(1,
      8)])) - dWaitCount (desc 0x0A [(1, 8)]))), 1, desc 0x0A [(1, 8)], [],
      { stk 0 [] none none with total := 7, fetched := [desc 0x0A [(1, 8)]] }, weave, ?_, ?_, ?_, ?_, ?_, rfl, ?_⟩
      <;> decide +kernel,
  by refine
      ⟨{ works 0 with stakes := [(1, { stk 0 [] none none with next := 7, started := [], queued := [(6, desc 0x0A [(2, 16), (3, 12)])] })] }.setCredit
      1 3 5, (if dWaitCount (6, desc 0x0A [(2, 16), (3, 12)]).2 = 0 then
      ({ works 0 with stakes := [(1, { stk 0 [] none none with next := 7, started := [], queued := [(6, desc 0x0A [(2, 16), (3, 12)])] })] }.setCredit
      1 3 5) else
      ({ works 0 with stakes := [(1, { stk 0 [] none none with next := 7, started := [], queued := [(6, desc 0x0A [(2, 16), (3, 12)])] })] }.setCredit
      1 3 5).setCredit 1 (dWaitCredit (6, desc 0x0A [(2, 16), (3, 12)]).2)
      (({ works 0 with stakes := [(1, { stk 0 [] none none with next := 7, started := [], queued := [(6, desc 0x0A [(2, 16), (3, 12)])] })] }.setCredit
      1 3 5).credit 1 (dWaitCredit (6, desc 0x0A [(2, 16), (3, 12)]).2) - dWaitCount (6, desc 0x0A [(2, 16), (3,
      12)]).2)), 1, (6, desc 0x0A [(2, 16), (3, 12)]),
      { stk 0 [] none none with next := 7, started := [], queued := [(6, desc 0x0A [(2, 16), (3, 12)])] }, weave,
      ?_, ?_, ?_, ?_, ?_, rfl⟩ <;> decide +kernel⟩

theorem met_descriptorsAndWeavesComplete_2 :
    (∃ (s : State) (st : Nat) (w : Nat) (x : StakeSt) (wv : Weave) (rd : Rd), smGet s.stakes st = some x ∧ s.weaveOf st
      = some wv ∧ wv.stop = none ∧ (∀ q ∈ x.queued, x.clear q.1 q.2 = false) ∧ x.fetched = [] ∧ x.next < x.total ∧
      x.held < 64 ∧ (wv.launch = true ∨ ∀ j, j < 4 → s.heldBack wv.ctx j = false) ∧ rd = s.vread (stakeRq wv st)
      (x.stream + 128 * x.next) 128 ∧ rd.st = 0 ∧ w = leNat rd.bs ∧ (descMalformed wv w = true ∨ opMalformed wv w =
      true)) ∧ (∃ (s : State) (u : State) (st : Nat) (idx : Nat) (w : Nat) (x : StakeSt) (wv : Weave) (b : List (Nat
      × Nat)) (d : Done) (y : StakeSt), smGet s.stakes st = some x ∧ s.weaveOf st = some wv ∧ x.desc idx = some
      ⟨idx, w, b, some d⟩ ∧ (∀ e ∈ x.started, e.idx < idx → sameQueue (dOp e.words) (dOp w) = false) ∧ y = (if
      stopsWeave d.status then { x.leave idx with next := min x.next idx, fetched := [] } else
      { x.leave idx with done := x.done + 1 }) ∧ u = (if stopsWeave d.status then (s.setStake st y).rset
      R.stakeStatusDescIndex st y.oldest else ((s.setStake st y).rset R.stakeStatusDescIndex st y.oldest).radd
      R.stakeDescriptorsCount st 1) ∧ stopsWeave d.status = true) ∧ (∃ (s : State) (u : State) (st : Nat) (idx :
      Nat) (w : Nat) (x : StakeSt) (wv : Weave) (b : List (Nat × Nat)) (d : Done) (y : StakeSt), smGet s.stakes st =
      some x ∧ s.weaveOf st = some wv ∧ x.desc idx = some ⟨idx, w, b, some d⟩ ∧ (∀ e ∈ x.started, e.idx < idx →
      sameQueue (dOp e.words) (dOp w) = false) ∧ y = (if stopsWeave d.status then
      { x.leave idx with next := min x.next idx, fetched := [] } else { x.leave idx with done := x.done + 1 }) ∧ u =
      (if stopsWeave d.status then (s.setStake st y).rset R.stakeStatusDescIndex st y.oldest else ((s.setStake st
      y).rset R.stakeStatusDescIndex st y.oldest).radd R.stakeDescriptorsCount st 1) ∧ stopsWeave d.status = false ∧
      bit w 28 = true) ∧ (∃ (s : State) (u : State) (st : Nat) (idx : Nat) (w : Nat) (x : StakeSt) (wv : Weave) (b :
      List (Nat × Nat)) (d : Done) (y : StakeSt), smGet s.stakes st = some x ∧ s.weaveOf st = some wv ∧ x.desc idx =
      some ⟨idx, w, b, some d⟩ ∧ (∀ e ∈ x.started, e.idx < idx → sameQueue (dOp e.words) (dOp w) = false) ∧ y = (if
      stopsWeave d.status then { x.leave idx with next := min x.next idx, fetched := [] } else
      { x.leave idx with done := x.done + 1 }) ∧ u = (if stopsWeave d.status then (s.setStake st y).rset
      R.stakeStatusDescIndex st y.oldest else ((s.setStake st y).rset R.stakeStatusDescIndex st y.oldest).radd
      R.stakeDescriptorsCount st 1) ∧ stopsWeave d.status = false ∧ bit w 28 = false) ∧ (∃ (s : State) (u : State)
      (w : Weave), s.weaves.find? (fun x => x.id == w.id) = some w ∧ w.doneAt = none ∧ s.weaveEnded w = true ∧ w.cut
      = false ∧ u = s.setWeave { w with doneAt := some s.beat } ∧ w.launch = false ∧ w.stop = none) ∧ (∃ (s : State)
      (u : State) (w : Weave) (st : Nat) (stake : Nat) (info : Nat), s.weaves.find? (fun x => x.id == w.id) = some w
      ∧ w.doneAt = none ∧ s.weaveEnded w = true ∧ w.cut = false ∧ u = s.setWeave { w with doneAt := some s.beat } ∧
      w.launch = false ∧ w.stop = some (st, stake, info)) :=
  ⟨by refine ⟨streamed (works 0) 0, 1, 0, stk 0 [] none none, weave, (streamed (works 0) 0).vread (stakeRq weave 1)
      ((stk 0 [] none none).stream + 128 * (stk 0 [] none none).next) 128, ?_, ?_, ?_, ?_, ?_, ?_, ?_, ?_, rfl, ?_⟩
      <;> decide +kernel,
  by refine ⟨onStake (desc 0x0A []) [] (some (⟨stWeaveImage, 5, 9⟩ : Done)) none, (if stopsWeave (⟨stWeaveImage, 5, 9⟩
      : Done).status then ((onStake (desc 0x0A []) [] (some (⟨stWeaveImage, 5, 9⟩ : Done)) none).setStake 1 (if
      stopsWeave (⟨stWeaveImage, 5, 9⟩ : Done).status then
      { (stk (desc 0x0A []) [] (some (⟨stWeaveImage, 5, 9⟩ : Done)) none).leave 5 with next := min (stk (desc 0x0A []) [] (some (⟨stWeaveImage, 5, 9⟩ : Done)) none).next 5, fetched := [] }
      else
      { (stk (desc 0x0A []) [] (some (⟨stWeaveImage, 5, 9⟩ : Done)) none).leave 5 with done := (stk (desc 0x0A []) [] (some (⟨stWeaveImage, 5, 9⟩ : Done)) none).done + 1 })).rset
      R.stakeStatusDescIndex 1 (if stopsWeave (⟨stWeaveImage, 5, 9⟩ : Done).status then
      { (stk (desc 0x0A []) [] (some (⟨stWeaveImage, 5, 9⟩ : Done)) none).leave 5 with next := min (stk (desc 0x0A []) [] (some (⟨stWeaveImage, 5, 9⟩ : Done)) none).next 5, fetched := [] }
      else
      { (stk (desc 0x0A []) [] (some (⟨stWeaveImage, 5, 9⟩ : Done)) none).leave 5 with done := (stk (desc 0x0A []) [] (some (⟨stWeaveImage, 5, 9⟩ : Done)) none).done + 1 }).oldest
      else (((onStake (desc 0x0A []) [] (some (⟨stWeaveImage, 5, 9⟩ : Done)) none).setStake 1 (if stopsWeave
      (⟨stWeaveImage, 5, 9⟩ : Done).status then
      { (stk (desc 0x0A []) [] (some (⟨stWeaveImage, 5, 9⟩ : Done)) none).leave 5 with next := min (stk (desc 0x0A []) [] (some (⟨stWeaveImage, 5, 9⟩ : Done)) none).next 5, fetched := [] }
      else
      { (stk (desc 0x0A []) [] (some (⟨stWeaveImage, 5, 9⟩ : Done)) none).leave 5 with done := (stk (desc 0x0A []) [] (some (⟨stWeaveImage, 5, 9⟩ : Done)) none).done + 1 })).rset
      R.stakeStatusDescIndex 1 (if stopsWeave (⟨stWeaveImage, 5, 9⟩ : Done).status then
      { (stk (desc 0x0A []) [] (some (⟨stWeaveImage, 5, 9⟩ : Done)) none).leave 5 with next := min (stk (desc 0x0A []) [] (some (⟨stWeaveImage, 5, 9⟩ : Done)) none).next 5, fetched := [] }
      else
      { (stk (desc 0x0A []) [] (some (⟨stWeaveImage, 5, 9⟩ : Done)) none).leave 5 with done := (stk (desc 0x0A []) [] (some (⟨stWeaveImage, 5, 9⟩ : Done)) none).done + 1 }).oldest).radd
      R.stakeDescriptorsCount 1 1), 1, 5, desc 0x0A [], stk (desc 0x0A []) [] (some (⟨stWeaveImage, 5, 9⟩ : Done))
      none, weave, [], (⟨stWeaveImage, 5, 9⟩ : Done), (if stopsWeave (⟨stWeaveImage, 5, 9⟩ : Done).status then
      { (stk (desc 0x0A []) [] (some (⟨stWeaveImage, 5, 9⟩ : Done)) none).leave 5 with next := min (stk (desc 0x0A []) [] (some (⟨stWeaveImage, 5, 9⟩ : Done)) none).next 5, fetched := [] }
      else
      { (stk (desc 0x0A []) [] (some (⟨stWeaveImage, 5, 9⟩ : Done)) none).leave 5 with done := (stk (desc 0x0A []) [] (some (⟨stWeaveImage, 5, 9⟩ : Done)) none).done + 1 }),
      ?_, ?_, ?_, ?_, rfl, rfl, ?_⟩ <;> decide +kernel,
  by refine ⟨onStake (desc 0x0A [(1, 28), (1, 32), (15, 24), (255, 48)]) [] (some (⟨0, 0, 0⟩ : Done)) none, (if
      stopsWeave (⟨0, 0, 0⟩ : Done).status then ((onStake (desc 0x0A [(1, 28), (1, 32), (15, 24), (255, 48)]) []
      (some (⟨0, 0, 0⟩ : Done)) none).setStake 1 (if stopsWeave (⟨0, 0, 0⟩ : Done).status then
      { (stk (desc 0x0A [(1, 28), (1, 32), (15, 24), (255, 48)]) [] (some (⟨0, 0, 0⟩ : Done)) none).leave 5 with next := min (stk (desc 0x0A [(1, 28), (1, 32), (15, 24), (255, 48)]) [] (some (⟨0, 0, 0⟩ : Done)) none).next 5, fetched := [] }
      else
      { (stk (desc 0x0A [(1, 28), (1, 32), (15, 24), (255, 48)]) [] (some (⟨0, 0, 0⟩ : Done)) none).leave 5 with done := (stk (desc 0x0A [(1, 28), (1, 32), (15, 24), (255, 48)]) [] (some (⟨0, 0, 0⟩ : Done)) none).done + 1 })).rset
      R.stakeStatusDescIndex 1 (if stopsWeave (⟨0, 0, 0⟩ : Done).status then
      { (stk (desc 0x0A [(1, 28), (1, 32), (15, 24), (255, 48)]) [] (some (⟨0, 0, 0⟩ : Done)) none).leave 5 with next := min (stk (desc 0x0A [(1, 28), (1, 32), (15, 24), (255, 48)]) [] (some (⟨0, 0, 0⟩ : Done)) none).next 5, fetched := [] }
      else
      { (stk (desc 0x0A [(1, 28), (1, 32), (15, 24), (255, 48)]) [] (some (⟨0, 0, 0⟩ : Done)) none).leave 5 with done := (stk (desc 0x0A [(1, 28), (1, 32), (15, 24), (255, 48)]) [] (some (⟨0, 0, 0⟩ : Done)) none).done + 1 }).oldest
      else (((onStake (desc 0x0A [(1, 28), (1, 32), (15, 24), (255, 48)]) [] (some (⟨0, 0, 0⟩ : Done))
      none).setStake 1 (if stopsWeave (⟨0, 0, 0⟩ : Done).status then
      { (stk (desc 0x0A [(1, 28), (1, 32), (15, 24), (255, 48)]) [] (some (⟨0, 0, 0⟩ : Done)) none).leave 5 with next := min (stk (desc 0x0A [(1, 28), (1, 32), (15, 24), (255, 48)]) [] (some (⟨0, 0, 0⟩ : Done)) none).next 5, fetched := [] }
      else
      { (stk (desc 0x0A [(1, 28), (1, 32), (15, 24), (255, 48)]) [] (some (⟨0, 0, 0⟩ : Done)) none).leave 5 with done := (stk (desc 0x0A [(1, 28), (1, 32), (15, 24), (255, 48)]) [] (some (⟨0, 0, 0⟩ : Done)) none).done + 1 })).rset
      R.stakeStatusDescIndex 1 (if stopsWeave (⟨0, 0, 0⟩ : Done).status then
      { (stk (desc 0x0A [(1, 28), (1, 32), (15, 24), (255, 48)]) [] (some (⟨0, 0, 0⟩ : Done)) none).leave 5 with next := min (stk (desc 0x0A [(1, 28), (1, 32), (15, 24), (255, 48)]) [] (some (⟨0, 0, 0⟩ : Done)) none).next 5, fetched := [] }
      else
      { (stk (desc 0x0A [(1, 28), (1, 32), (15, 24), (255, 48)]) [] (some (⟨0, 0, 0⟩ : Done)) none).leave 5 with done := (stk (desc 0x0A [(1, 28), (1, 32), (15, 24), (255, 48)]) [] (some (⟨0, 0, 0⟩ : Done)) none).done + 1 }).oldest).radd
      R.stakeDescriptorsCount 1 1), 1, 5, desc 0x0A [(1, 28), (1, 32), (15, 24), (255, 48)], stk (desc 0x0A [(1,
      28), (1, 32), (15, 24), (255, 48)]) [] (some (⟨0, 0, 0⟩ : Done)) none, weave, [], (⟨0, 0, 0⟩ : Done), (if
      stopsWeave (⟨0, 0, 0⟩ : Done).status then
      { (stk (desc 0x0A [(1, 28), (1, 32), (15, 24), (255, 48)]) [] (some (⟨0, 0, 0⟩ : Done)) none).leave 5 with next := min (stk (desc 0x0A [(1, 28), (1, 32), (15, 24), (255, 48)]) [] (some (⟨0, 0, 0⟩ : Done)) none).next 5, fetched := [] }
      else
      { (stk (desc 0x0A [(1, 28), (1, 32), (15, 24), (255, 48)]) [] (some (⟨0, 0, 0⟩ : Done)) none).leave 5 with done := (stk (desc 0x0A [(1, 28), (1, 32), (15, 24), (255, 48)]) [] (some (⟨0, 0, 0⟩ : Done)) none).done + 1 }),
      ?_, ?_, ?_, ?_, rfl, rfl, ?_⟩ <;> decide +kernel,
  by refine ⟨onStake (desc 0x0A []) [] (some (⟨0, 0, 0⟩ : Done)) none, (if stopsWeave (⟨0, 0, 0⟩ : Done).status then
      ((onStake (desc 0x0A []) [] (some (⟨0, 0, 0⟩ : Done)) none).setStake 1 (if stopsWeave (⟨0, 0, 0⟩ :
      Done).status then
      { (stk (desc 0x0A []) [] (some (⟨0, 0, 0⟩ : Done)) none).leave 5 with next := min (stk (desc 0x0A []) [] (some (⟨0, 0, 0⟩ : Done)) none).next 5, fetched := [] }
      else
      { (stk (desc 0x0A []) [] (some (⟨0, 0, 0⟩ : Done)) none).leave 5 with done := (stk (desc 0x0A []) [] (some (⟨0, 0, 0⟩ : Done)) none).done + 1 })).rset
      R.stakeStatusDescIndex 1 (if stopsWeave (⟨0, 0, 0⟩ : Done).status then
      { (stk (desc 0x0A []) [] (some (⟨0, 0, 0⟩ : Done)) none).leave 5 with next := min (stk (desc 0x0A []) [] (some (⟨0, 0, 0⟩ : Done)) none).next 5, fetched := [] }
      else
      { (stk (desc 0x0A []) [] (some (⟨0, 0, 0⟩ : Done)) none).leave 5 with done := (stk (desc 0x0A []) [] (some (⟨0, 0, 0⟩ : Done)) none).done + 1 }).oldest
      else (((onStake (desc 0x0A []) [] (some (⟨0, 0, 0⟩ : Done)) none).setStake 1 (if stopsWeave (⟨0, 0, 0⟩ :
      Done).status then
      { (stk (desc 0x0A []) [] (some (⟨0, 0, 0⟩ : Done)) none).leave 5 with next := min (stk (desc 0x0A []) [] (some (⟨0, 0, 0⟩ : Done)) none).next 5, fetched := [] }
      else
      { (stk (desc 0x0A []) [] (some (⟨0, 0, 0⟩ : Done)) none).leave 5 with done := (stk (desc 0x0A []) [] (some (⟨0, 0, 0⟩ : Done)) none).done + 1 })).rset
      R.stakeStatusDescIndex 1 (if stopsWeave (⟨0, 0, 0⟩ : Done).status then
      { (stk (desc 0x0A []) [] (some (⟨0, 0, 0⟩ : Done)) none).leave 5 with next := min (stk (desc 0x0A []) [] (some (⟨0, 0, 0⟩ : Done)) none).next 5, fetched := [] }
      else
      { (stk (desc 0x0A []) [] (some (⟨0, 0, 0⟩ : Done)) none).leave 5 with done := (stk (desc 0x0A []) [] (some (⟨0, 0, 0⟩ : Done)) none).done + 1 }).oldest).radd
      R.stakeDescriptorsCount 1 1), 1, 5, desc 0x0A [], stk (desc 0x0A []) [] (some (⟨0, 0, 0⟩ : Done)) none, weave,
      [], (⟨0, 0, 0⟩ : Done), (if stopsWeave (⟨0, 0, 0⟩ : Done).status then
      { (stk (desc 0x0A []) [] (some (⟨0, 0, 0⟩ : Done)) none).leave 5 with next := min (stk (desc 0x0A []) [] (some (⟨0, 0, 0⟩ : Done)) none).next 5, fetched := [] }
      else
      { (stk (desc 0x0A []) [] (some (⟨0, 0, 0⟩ : Done)) none).leave 5 with done := (stk (desc 0x0A []) [] (some (⟨0, 0, 0⟩ : Done)) none).done + 1 }),
      ?_, ?_, ?_, ?_, rfl, rfl, ?_⟩ <;> decide +kernel,
  by refine ⟨ended weave, (ended weave).setWeave { weave with doneAt := some (ended weave).beat }, weave, ?_, ?_, ?_,
      ?_, rfl, ?_⟩ <;> decide +kernel,
  by refine ⟨ended ({ weave with stop := some (0x30, 1, 7) }), (ended
      ({ weave with stop := some (0x30, 1, 7) })).setWeave
      { ({ weave with stop := some (0x30, 1, 7) }) with doneAt := some (ended ({ weave with stop := some (0x30, 1, 7) })).beat },
      { weave with stop := some (0x30, 1, 7) }, 0x30, 1, 7, ?_, ?_, ?_, ?_, rfl, ?_⟩ <;> decide +kernel⟩

theorem met_descriptorsAndWeavesComplete_3 :
    (∃ (s : State) (u : State) (w : Weave), s.weaves.find? (fun x => x.id == w.id) = some w ∧ w.doneAt = none ∧
      s.weaveEnded w = true ∧ w.cut = false ∧ u = s.setWeave { w with doneAt := some s.beat } ∧ w.launch = true ∧
      w.stop = none ∧ w.event < s.rg R.ctxEventCfgCount w.ctx ∧ w.event ≠ 0xFFFF) ∧ (∃ (s : State) (u : State) (w :
      Weave) (st : Nat) (stake : Nat) (info : Nat), s.weaves.find? (fun x => x.id == w.id) = some w ∧ w.doneAt =
      none ∧ s.weaveEnded w = true ∧ w.cut = false ∧ u = s.setWeave { w with doneAt := some s.beat } ∧ w.launch =
      true ∧ w.stop = some (st, stake, info)) :=
  ⟨by refine ⟨ended ({ weave with launch := true, event := 3 }), (ended
      ({ weave with launch := true, event := 3 })).setWeave
      { ({ weave with launch := true, event := 3 }) with doneAt := some (ended ({ weave with launch := true, event := 3 })).beat },
      { weave with launch := true, event := 3 }, ?_, ?_, ?_, ?_, rfl, ?_⟩ <;> decide +kernel,
  by refine ⟨ended ({ weave with launch := true, stop := some (0x30, 1, 7) }), (ended
      ({ weave with launch := true, stop := some (0x30, 1, 7) })).setWeave
      { ({ weave with launch := true, stop := some (0x30, 1, 7) }) with doneAt := some (ended ({ weave with launch := true, stop := some (0x30, 1, 7) })).beat },
      { weave with launch := true, stop := some (0x30, 1, 7) }, 0x30, 1, 7, ?_, ?_, ?_, ?_, rfl, ?_⟩ <;> decide
      +kernel⟩

theorem met_descriptorsDoTheirWork :
    (∃ (s : State) (u : State) (st : Nat) (idx : Nat) (x : StakeSt) (wv : Weave) (d : DescRun), (wv.launch = true ∨ ∀ j,
      j < 4 → s.heldBack wv.ctx j = false) ∧ s.descReady st idx 0x01 = some (x, wv, d) ∧ s.mm wv st d = (u, .ok ()))
      ∧ (∃ (s : State) (u : State) (st : Nat) (idx : Nat) (x : StakeSt) (wv : Weave) (d : DescRun), (wv.launch =
      true ∨ ∀ j, j < 4 → s.heldBack wv.ctx j = false) ∧ s.descReady st idx 0x01 = some (x, wv, d) ∧ mmMalformed wv
      true d.words = true) ∧ (∃ (s : State) (u : State) (st : Nat) (idx : Nat) (x : StakeSt) (wv : Weave) (d :
      DescRun), (wv.launch = true ∨ ∀ j, j < 4 → s.heldBack wv.ctx j = false) ∧ s.descReady st idx 0x02 = some (x,
      wv, d) ∧ s.mmr wv st d = (u, .ok ())) :=
  ⟨by refine ⟨works (desc 0x01 gemm), ((works (desc 0x01 gemm)).mm weave 1 (⟨5, desc 0x01 gemm, [], none⟩ :
      DescRun)).1, 1, 5, stk (desc 0x01 gemm) [] none none, weave, (⟨5, desc 0x01 gemm, [], none⟩ : DescRun), ?_,
      ?_, pair_eq (by decide +kernel)⟩ <;> decide +kernel,
  ⟨works (desc 0x01 []), (works (desc 0x01 [])), 1, 5, stk (desc 0x01 []) [] none none, weave, (⟨5, desc 0x01 [], [],
      none⟩ : DescRun), by decide +kernel⟩,
  by refine ⟨group ((works (desc 0x02 (gemm ++ [opnd 2 1 0x60000, (1, 71), (5, 832), (2, 848), (9, 864)]))).setOps 5
      [⟨1, 0, 1, word 0x30 [(5, 256), (2, 272), (9, 288), (1, 327), (1, 328), (1, 336), (0x60000, 512), (0x60000,
      576)], false, 0, [], [], [], 0⟩]) 2 4, ((group ((works (desc 0x02 (gemm ++ [opnd 2 1 0x60000, (1, 71), (5,
      832), (2, 848), (9, 864)]))).setOps 5 [⟨1, 0, 1, word 0x30 [(5, 256), (2, 272), (9, 288), (1, 327), (1, 328),
      (1, 336), (0x60000, 512), (0x60000, 576)], false, 0, [], [], [], 0⟩]) 2 4).mmr weave 1 (⟨5, desc 0x02 (gemm ++
      [opnd 2 1 0x60000, (1, 71), (5, 832), (2, 848), (9, 864)]), [], none⟩ : DescRun)).1, 1, 5, stk (desc 0x02
      (gemm ++ [opnd 2 1 0x60000, (1, 71), (5, 832), (2, 848), (9, 864)])) [] none none, weave, (⟨5, desc 0x02 (gemm
      ++ [opnd 2 1 0x60000, (1, 71), (5, 832), (2, 848), (9, 864)]), [], none⟩ : DescRun), ?_, ?_, pair_eq
      (by decide +kernel)⟩ <;> decide +kernel⟩

theorem met_descriptorsDoTheirWork_2 :
    (∃ (s : State) (u : State) (st : Nat) (idx : Nat) (x : StakeSt) (wv : Weave) (d : DescRun), (wv.launch = true ∨ ∀ j,
      j < 4 → s.heldBack wv.ctx j = false) ∧ s.descReady st idx 0x03 = some (x, wv, d) ∧ s.conv wv st d = (u, .ok
      ())) ∧ (∃ (s : State) (u : State) (st : Nat) (idx : Nat) (x : StakeSt) (wv : Weave) (d : DescRun), (wv.launch
      = true ∨ ∀ j, j < 4 → s.heldBack wv.ctx j = false) ∧ s.descReady st idx 0x04 = some (x, wv, d) ∧ s.wconv wv st
      d = (u, .ok ())) ∧ (∃ (s : State) (u : State) (st : Nat) (idx : Nat) (x : StakeSt) (wv : Weave) (d : DescRun),
      (wv.launch = true ∨ ∀ j, j < 4 → s.heldBack wv.ctx j = false) ∧ s.descReady st idx 0x05 = some (x, wv, d) ∧
      s.attn wv st d = (u, .ok ())) :=
  ⟨by refine ⟨works (desc 0x03 (convol 1)), ((works (desc 0x03 (convol 1))).conv weave 1 (⟨5, desc 0x03 (convol 1), [],
      none⟩ : DescRun)).1, 1, 5, stk (desc 0x03 (convol 1)) [] none none, weave, (⟨5, desc 0x03 (convol 1), [],
      none⟩ : DescRun), ?_, ?_, pair_eq (by decide +kernel)⟩ <;> decide +kernel,
  by refine ⟨works (desc 0x04 (convol 3 ++ [(3, 66)])), ((works (desc 0x04 (convol 3 ++ [(3, 66)]))).wconv weave 1
      (⟨5, desc 0x04 (convol 3 ++ [(3, 66)]), [], none⟩ : DescRun)).1, 1, 5, stk (desc 0x04 (convol 3 ++ [(3, 66)]))
      [] none none, weave, (⟨5, desc 0x04 (convol 3 ++ [(3, 66)]), [], none⟩ : DescRun), ?_, ?_, pair_eq
      (by decide +kernel)⟩ <;> decide +kernel,
  by refine ⟨works (desc 0x05 (gemm ++ [opnd 2 0 128, (3, 66), (1, 71), (1, 176), (0x3F800000, 812)])), ((works (desc
      0x05 (gemm ++ [opnd 2 0 128, (3, 66), (1, 71), (1, 176), (0x3F800000, 812)]))).attn weave 1 (⟨5, desc 0x05
      (gemm ++ [opnd 2 0 128, (3, 66), (1, 71), (1, 176), (0x3F800000, 812)]), [], none⟩ : DescRun)).1, 1, 5, stk
      (desc 0x05 (gemm ++ [opnd 2 0 128, (3, 66), (1, 71), (1, 176), (0x3F800000, 812)])) [] none none, weave, (⟨5,
      desc 0x05 (gemm ++ [opnd 2 0 128, (3, 66), (1, 71), (1, 176), (0x3F800000, 812)]), [], none⟩ : DescRun), ?_,
      ?_, pair_eq (by decide +kernel)⟩ <;> decide +kernel⟩

theorem met_descriptorsDoTheirWork_3 :
    (∃ (s : State) (u : State) (st : Nat) (idx : Nat) (x : StakeSt) (wv : Weave) (d : DescRun), (wv.launch = true ∨ ∀ j,
      j < 4 → s.heldBack wv.ctx j = false) ∧ s.descReady st idx 0x06 = some (x, wv, d) ∧ s.norm wv st d = (u, .ok
      ())) ∧ (∃ (s : State) (u : State) (st : Nat) (idx : Nat) (x : StakeSt) (wv : Weave) (d : DescRun), (wv.launch
      = true ∨ ∀ j, j < 4 → s.heldBack wv.ctx j = false) ∧ s.descReady st idx 0x07 = some (x, wv, d) ∧ s.smax wv st
      d = (u, .ok ())) ∧ (∃ (s : State) (u : State) (st : Nat) (idx : Nat) (x : StakeSt) (wv : Weave) (d : DescRun),
      (wv.launch = true ∨ ∀ j, j < 4 → s.heldBack wv.ctx j = false) ∧ s.descReady st idx 0x08 = some (x, wv, d) ∧
      s.sfu_ wv st d = (u, .ok ())) :=
  ⟨by refine ⟨works (desc 0x06 (grid ++ [(1, 768)])), ((works (desc 0x06 (grid ++ [(1, 768)]))).norm weave 1 (⟨5, desc
      0x06 (grid ++ [(1, 768)]), [], none⟩ : DescRun)).1, 1, 5, stk (desc 0x06 (grid ++ [(1, 768)])) [] none none,
      weave, (⟨5, desc 0x06 (grid ++ [(1, 768)]), [], none⟩ : DescRun), ?_, ?_, pair_eq (by decide +kernel)⟩ <;>
      decide +kernel,
  by refine ⟨works (desc 0x07 grid), ((works (desc 0x07 grid)).smax weave 1 (⟨5, desc 0x07 grid, [], none⟩ :
      DescRun)).1, 1, 5, stk (desc 0x07 grid) [] none none, weave, (⟨5, desc 0x07 grid, [], none⟩ : DescRun), ?_,
      ?_, pair_eq (by decide +kernel)⟩ <;> decide +kernel,
  by refine ⟨onStake (desc 0x08 (grid ++ [(5, 768)])) [(5, 7)] none none, ((onStake (desc 0x08 (grid ++ [(5, 768)]))
      [(5, 7)] none none).sfu_ weave 1 (⟨5, desc 0x08 (grid ++ [(5, 768)]), [(5, 7)], none⟩ : DescRun)).1, 1, 5, stk
      (desc 0x08 (grid ++ [(5, 768)])) [(5, 7)] none none, weave, (⟨5, desc 0x08 (grid ++ [(5, 768)]), [(5, 7)],
      none⟩ : DescRun), ?_, ?_, pair_eq (by decide +kernel)⟩ <;> decide +kernel⟩

theorem met_descriptorsDoTheirWork_4 :
    (∃ (s : State) (u : State) (st : Nat) (idx : Nat) (x : StakeSt) (wv : Weave) (d : DescRun), (wv.launch = true ∨ ∀ j,
      j < 4 → s.heldBack wv.ctx j = false) ∧ s.descReady st idx 0x0C = some (x, wv, d) ∧ s.crop wv st d = (u, .ok
      ())) ∧ (∃ (s : State) (u : State) (st : Nat) (idx : Nat) (x : StakeSt) (wv : Weave) (d : DescRun), (wv.launch
      = true ∨ ∀ j, j < 4 → s.heldBack wv.ctx j = false) ∧ s.descReady st idx 0x0D = some (x, wv, d) ∧ s.pool wv st
      d = (u, .ok ())) ∧ (∃ (s : State) (u : State) (st : Nat) (idx : Nat) (x : StakeSt) (wv : Weave) (d : DescRun)
      (k : Nat), (wv.launch = true ∨ ∀ j, j < 4 → s.heldBack wv.ctx j = false) ∧ s.descReady st idx 0x0B = some (x,
      wv, d) ∧ packMalformed wv d.words = false ∧ pkKind d.words = 0 ∧ bit d.words 770 = false ∧ s.packTensor
      (placeOf wv st (bits d.words 800 11) (dOpnd d.words 0)) (placeOf wv st (bits d.words 800 11) (dOpnd d.words
      2)) (dFmtA d.words) (pkLength d.words) 0 none = (u, .ok k)) :=
  ⟨by refine ⟨(works (desc 0x0C (grid ++ [opnd 1 0 64, (1, 768), (1, 784)]))).setTrayN 1 64 (natLe 16 (2 ^ 32 + 2 ^
      48)), (((works (desc 0x0C (grid ++ [opnd 1 0 64, (1, 768), (1, 784)]))).setTrayN 1 64 (natLe 16 (2 ^ 32 + 2 ^
      48))).crop weave 1 (⟨5, desc 0x0C (grid ++ [opnd 1 0 64, (1, 768), (1, 784)]), [], none⟩ : DescRun)).1, 1, 5,
      stk (desc 0x0C (grid ++ [opnd 1 0 64, (1, 768), (1, 784)])) [] none none, weave, (⟨5, desc 0x0C (grid ++ [opnd
      1 0 64, (1, 768), (1, 784)]), [], none⟩ : DescRun), ?_, ?_, pair_eq (by decide +kernel)⟩ <;> decide +kernel,
  by refine ⟨works (desc 0x0D (grid ++ [(1, 768), (1, 776), (1, 784), (1, 792), (1, 808)])), ((works (desc 0x0D (grid
      ++ [(1, 768), (1, 776), (1, 784), (1, 792), (1, 808)]))).pool weave 1 (⟨5, desc 0x0D (grid ++ [(1, 768), (1,
      776), (1, 784), (1, 792), (1, 808)]), [], none⟩ : DescRun)).1, 1, 5, stk (desc 0x0D (grid ++ [(1, 768), (1,
      776), (1, 784), (1, 792), (1, 808)])) [] none none, weave, (⟨5, desc 0x0D (grid ++ [(1, 768), (1, 776), (1,
      784), (1, 792), (1, 808)]), [], none⟩ : DescRun), ?_, ?_, pair_eq (by decide +kernel)⟩ <;> decide +kernel,
  by refine ⟨works (desc 0x0B ([opnd 0 0 0, opnd 2 0 4096, (3, 72), (16, 832)])), ((works (desc 0x0B ([opnd 0 0 0,
      opnd 2 0 4096, (3, 72), (16, 832)]))).packTensor (placeOf weave 1 (bits (⟨5, desc 0x0B ([opnd 0 0 0, opnd 2 0
      4096, (3, 72), (16, 832)]), [], none⟩ : DescRun).words 800 11) (dOpnd (⟨5, desc 0x0B ([opnd 0 0 0, opnd 2 0
      4096, (3, 72), (16, 832)]), [], none⟩ : DescRun).words 0)) (placeOf weave 1 (bits (⟨5, desc 0x0B ([opnd 0 0 0,
      opnd 2 0 4096, (3, 72), (16, 832)]), [], none⟩ : DescRun).words 800 11) (dOpnd (⟨5, desc 0x0B ([opnd 0 0 0,
      opnd 2 0 4096, (3, 72), (16, 832)]), [], none⟩ : DescRun).words 2)) (dFmtA (⟨5, desc 0x0B ([opnd 0 0 0, opnd 2
      0 4096, (3, 72), (16, 832)]), [], none⟩ : DescRun).words) (pkLength (⟨5, desc 0x0B ([opnd 0 0 0, opnd 2 0
      4096, (3, 72), (16, 832)]), [], none⟩ : DescRun).words) 0 none).1, 1, 5, stk (desc 0x0B ([opnd 0 0 0, opnd 2 0
      4096, (3, 72), (16, 832)])) [] none none, weave, (⟨5, desc 0x0B ([opnd 0 0 0, opnd 2 0 4096, (3, 72), (16,
      832)]), [], none⟩ : DescRun), 192, ?_, ?_, ?_, ?_, ?_, pair_eq (by decide +kernel)⟩ <;> decide +kernel⟩

theorem met_descriptorsDoTheirWork_5 :
    (∃ (s : State) (u : State) (st : Nat) (idx : Nat) (x : StakeSt) (wv : Weave) (d : DescRun), (wv.launch = true ∨ ∀ j,
      j < 4 → s.heldBack wv.ctx j = false) ∧ s.descReady st idx 0x0B = some (x, wv, d) ∧ packMalformed wv d.words =
      false ∧ pkKind d.words = 1 ∧ s.expandTensor (placeOf wv st (bits d.words 800 11) (dOpnd d.words 0)) (placeOf
      wv st (bits d.words 800 11) (dOpnd d.words 2)) (coilSet (st / 96)) (pkLength d.words) = (u, .ok ())) ∧ (∃ (s :
      State) (u : State) (st : Nat) (idx : Nat) (x : StakeSt) (wv : Weave) (d : DescRun) (v : State) (h : Nat) (k :
      Nat), (wv.launch = true ∨ ∀ j, j < 4 → s.heldBack wv.ctx j = false) ∧ s.descReady st idx 0x0B = some (x, wv,
      d) ∧ packMalformed wv d.words = false ∧ pkKind d.words = 2 ∧ s.readIndex (placeOf wv st (bits d.words 800 11)
      (dOpnd d.words 0)) = (v, .ok h) ∧ v.writeCompact (placeOf wv st (bits d.words 800 11) (dOpnd d.words 2))
      (ihFmt h) (ihBytes h) (bits h 128 48) (fun t b => Got.next (t.checkedBlock (placeOf wv st (bits d.words 800
      11) (dOpnd d.words 0)) h b) (fun t blk => (t.radd R.plaitStoredOutBytes 0 blk.length, .ok blk))) = (u, .ok k))
      ∧ (∃ (s : State) (u : State) (st : Nat) (idx : Nat) (x : StakeSt) (wv : Weave) (d : DescRun) (v : State) (img
      : List Byte), (wv.launch = true ∨ ∀ j, j < 4 → s.heldBack wv.ctx j = false) ∧ s.descReady st idx 0x0B = some
      (x, wv, d) ∧ packMalformed wv d.words = false ∧ pkKind d.words = 3 ∧ pkLength d.words ≤ 4096 ∧ s.placeRead
      (placeOf wv st (bits d.words 800 11) (dOpnd d.words 0)) 0 (pkLength d.words) = (v, .ok img) ∧ v.placeWrite ⟨1,
      st, (placeOf wv st (bits d.words 800 11) (dOpnd d.words 0)).rq, pkTable d.words⟩ 0 (tableObject (bits d.words
      912 16) ((countBlock (planeWidth (dFmtA d.words)) ((below (planeWidth (dFmtA d.words))).map (fun _ => (below
      256).map (fun _ => 1))) img).map (fun f => buildLens 11 64 f))) = (u, .ok ())) :=
  ⟨by refine ⟨packed (desc 0x0B [(1, 768), opnd 0 0 4096, opnd 2 0 0, (16, 832)]), ((packed (desc 0x0B [(1, 768), opnd
      0 0 4096, opnd 2 0 0, (16, 832)])).expandTensor (placeOf weave 1 (bits (⟨5, desc 0x0B ([(1, 768), opnd 0 0
      4096, opnd 2 0 0, (16, 832)]), [], none⟩ : DescRun).words 800 11) (dOpnd (⟨5, desc 0x0B ([(1, 768), opnd 0 0
      4096, opnd 2 0 0, (16, 832)]), [], none⟩ : DescRun).words 0)) (placeOf weave 1 (bits (⟨5, desc 0x0B ([(1,
      768), opnd 0 0 4096, opnd 2 0 0, (16, 832)]), [], none⟩ : DescRun).words 800 11) (dOpnd (⟨5, desc 0x0B ([(1,
      768), opnd 0 0 4096, opnd 2 0 0, (16, 832)]), [], none⟩ : DescRun).words 2)) (coilSet (1 / 96)) (pkLength (⟨5,
      desc 0x0B ([(1, 768), opnd 0 0 4096, opnd 2 0 0, (16, 832)]), [], none⟩ : DescRun).words)).1, 1, 5, stk (desc
      0x0B ([(1, 768), opnd 0 0 4096, opnd 2 0 0, (16, 832)])) [] none none, weave, (⟨5, desc 0x0B ([(1, 768), opnd
      0 0 4096, opnd 2 0 0, (16, 832)]), [], none⟩ : DescRun), ?_, ?_, ?_, ?_, pair_eq (by decide +kernel)⟩ <;>
      decide +kernel,
  by refine ⟨packed (compactW), ((((packed (compactW)).readIndex (placeOf weave 1 (bits (⟨5, compactW, [], none⟩ :
      DescRun).words 800 11) (dOpnd (⟨5, compactW, [], none⟩ : DescRun).words 0))).1).writeCompact (placeOf weave 1
      (bits (⟨5, compactW, [], none⟩ : DescRun).words 800 11) (dOpnd (⟨5, compactW, [], none⟩ : DescRun).words 2))
      (ihFmt indexHd) (ihBytes indexHd) (bits indexHd 128 48) (fun t b => Got.next (t.checkedBlock (placeOf weave 1
      (bits (⟨5, compactW, [], none⟩ : DescRun).words 800 11) (dOpnd (⟨5, compactW, [], none⟩ : DescRun).words 0))
      indexHd b) (fun t blk => (t.radd R.plaitStoredOutBytes 0 blk.length, .ok blk)))).1, 1, 5, stk (⟨5, compactW,
      [], none⟩ : DescRun).words [] none none, weave, (⟨5, compactW, [], none⟩ : DescRun), ((packed
      (compactW)).readIndex (placeOf weave 1 (bits (⟨5, compactW, [], none⟩ : DescRun).words 800 11) (dOpnd (⟨5,
      compactW, [], none⟩ : DescRun).words 0))).1, indexHd, 4288, ?_, ?_, ?_, ?_, pair_eq (by decide +kernel),
      pair_eq (by decide +kernel)⟩ <;> decide +kernel,
  by refine ⟨works (desc 0x0B ([(3, 768), opnd 0 0 0, (3, 72), (64, 832), (0x60000, 864)])), ((((works (desc 0x0B
      ([(3, 768), opnd 0 0 0, (3, 72), (64, 832), (0x60000, 864)]))).placeRead (placeOf weave 1 (bits (⟨5, desc 0x0B
      ([(3, 768), opnd 0 0 0, (3, 72), (64, 832), (0x60000, 864)]), [], none⟩ : DescRun).words 800 11) (dOpnd (⟨5,
      desc 0x0B ([(3, 768), opnd 0 0 0, (3, 72), (64, 832), (0x60000, 864)]), [], none⟩ : DescRun).words 0)) 0
      (pkLength (⟨5, desc 0x0B ([(3, 768), opnd 0 0 0, (3, 72), (64, 832), (0x60000, 864)]), [], none⟩ :
      DescRun).words)).1).placeWrite ⟨1, 1, (placeOf weave 1 (bits (⟨5, desc 0x0B ([(3, 768), opnd 0 0 0, (3, 72),
      (64, 832), (0x60000, 864)]), [], none⟩ : DescRun).words 800 11) (dOpnd (⟨5, desc 0x0B ([(3, 768), opnd 0 0 0,
      (3, 72), (64, 832), (0x60000, 864)]), [], none⟩ : DescRun).words 0)).rq, pkTable (⟨5, desc 0x0B ([(3, 768),
      opnd 0 0 0, (3, 72), (64, 832), (0x60000, 864)]), [], none⟩ : DescRun).words⟩ 0 (tableObject (bits (⟨5, desc
      0x0B ([(3, 768), opnd 0 0 0, (3, 72), (64, 832), (0x60000, 864)]), [], none⟩ : DescRun).words 912 16)
      ((countBlock (planeWidth (dFmtA (⟨5, desc 0x0B ([(3, 768), opnd 0 0 0, (3, 72), (64, 832), (0x60000, 864)]),
      [], none⟩ : DescRun).words)) ((below (planeWidth (dFmtA (⟨5, desc 0x0B ([(3, 768), opnd 0 0 0, (3, 72), (64,
      832), (0x60000, 864)]), [], none⟩ : DescRun).words))).map (fun _ => (below 256).map (fun _ => 1)))
      (List.replicate 64 0)).map (fun f => buildLens 11 64 f)))).1, 1, 5, stk (desc 0x0B ([(3, 768), opnd 0 0 0, (3,
      72), (64, 832), (0x60000, 864)])) [] none none, weave, (⟨5, desc 0x0B ([(3, 768), opnd 0 0 0, (3, 72), (64,
      832), (0x60000, 864)]), [], none⟩ : DescRun), ((works (desc 0x0B ([(3, 768), opnd 0 0 0, (3, 72), (64, 832),
      (0x60000, 864)]))).placeRead (placeOf weave 1 (bits (⟨5, desc 0x0B ([(3, 768), opnd 0 0 0, (3, 72), (64, 832),
      (0x60000, 864)]), [], none⟩ : DescRun).words 800 11) (dOpnd (⟨5, desc 0x0B ([(3, 768), opnd 0 0 0, (3, 72),
      (64, 832), (0x60000, 864)]), [], none⟩ : DescRun).words 0)) 0 (pkLength (⟨5, desc 0x0B ([(3, 768), opnd 0 0 0,
      (3, 72), (64, 832), (0x60000, 864)]), [], none⟩ : DescRun).words)).1, List.replicate 64 0, ?_, ?_, ?_, ?_, ?_,
      pair_eq (by decide +kernel), pair_eq (by decide +kernel)⟩ <;> decide +kernel⟩

theorem met_descriptorsDoTheirWork_6 :
    (∃ (s : State) (u : State) (st : Nat) (idx : Nat) (x : StakeSt) (wv : Weave) (d : DescRun), (wv.launch = true ∨ ∀ j,
      j < 4 → s.heldBack wv.ctx j = false) ∧ s.descReady st idx 0x0E = some (x, wv, d) ∧ s.adding st idx = false ∧
      s.scatterAdd wv st d = (u, .ok ()) ∧ u.adding st idx = false) ∧ (∃ (s : State) (u : State) (st : Nat) (idx :
      Nat) (x : StakeSt) (wv : Weave) (d : DescRun), (wv.launch = true ∨ ∀ j, j < 4 → s.heldBack wv.ctx j = false) ∧
      s.descReady st idx 0x0E = some (x, wv, d) ∧ s.adding st idx = false ∧ s.scatterAdd wv st d = (u, .ok ()) ∧
      u.adding st idx = true) ∧ (∃ (s : State) (u : State) (st : Nat) (idx : Nat) (x : StakeSt) (wv : Weave) (d :
      DescRun) (v : State) (a : State) (h : Nat) (es : List Nat), (wv.launch = true ∨ ∀ j, j < 4 → s.heldBack wv.ctx
      j = false) ∧ s.descReady st idx 0x0F = some (x, wv, d) ∧ pselMalformed d.words = false ∧ s.kvNum (kvPlace wv
      st) (psTable d.words) 64 = (v, .ok h) ∧ v.pselBad d.words h = false ∧ v.each (fun t i => t.kvNum (kvPlace wv
      st) (psTable d.words + 64 + 64 * i) 64) (below (bhCount h)) = (a, .ok es) ∧ psKind d.words = 0 ∧ a.stepBegin
      wv st d h es = (u, .ok ())) :=
  ⟨by refine ⟨(works (⟨5, scatterW [], [], none⟩ : DescRun).words).setTrayN 1 64 (natLe 4 0xFFFFFFFF), (((works (⟨5,
      scatterW [], [], none⟩ : DescRun).words).setTrayN 1 64 (natLe 4 0xFFFFFFFF)).scatterAdd weave 1 (⟨5, scatterW
      [], [], none⟩ : DescRun)).1, 1, 5, stk (⟨5, scatterW [], [], none⟩ : DescRun).words [] none none, weave, (⟨5,
      scatterW [], [], none⟩ : DescRun), ?_, ?_, ?_, pair_eq (by decide +kernel), ?_⟩ <;> decide +kernel,
  by refine ⟨works (⟨5, scatterW [], [], none⟩ : DescRun).words, ((works (⟨5, scatterW [], [], none⟩ :
      DescRun).words).scatterAdd weave 1 (⟨5, scatterW [], [], none⟩ : DescRun)).1, 1, 5, stk (⟨5, scatterW [], [],
      none⟩ : DescRun).words [] none none, weave, (⟨5, scatterW [], [], none⟩ : DescRun), ?_, ?_, ?_, pair_eq
      (by decide +kernel), ?_⟩ <;> decide +kernel,
  by refine ⟨batched (psel 0 []) 0, ((((((batched (psel 0 []) 0).kvNum (kvPlace weave 1) (psTable (⟨5, psel 0 [], [],
      none⟩ : DescRun).words) 64).1).each (fun t i => t.kvNum (kvPlace weave 1) (psTable (⟨5, psel 0 [], [], none⟩ :
      DescRun).words + 64 + 64 * i) 64) (below (bhCount (batch 0)))).1).stepBegin weave 1 (⟨5, psel 0 [], [], none⟩
      : DescRun) (batch 0) ([0])).1, 1, 5, stk (psel 0 []) [] none none, weave, (⟨5, psel 0 [], [], none⟩ :
      DescRun), ((batched (psel 0 []) 0).kvNum (kvPlace weave 1) (psTable (⟨5, psel 0 [], [], none⟩ :
      DescRun).words) 64).1, ((((batched (psel 0 []) 0).kvNum (kvPlace weave 1) (psTable (⟨5, psel 0 [], [], none⟩ :
      DescRun).words) 64).1).each (fun t i => t.kvNum (kvPlace weave 1) (psTable (⟨5, psel 0 [], [], none⟩ :
      DescRun).words + 64 + 64 * i) 64) (below (bhCount (batch 0)))).1, batch 0, [0], ?_, ?_, ?_, pair_eq
      (by decide +kernel), ?_, pair_eq (by decide +kernel), ?_, pair_eq (by decide +kernel)⟩ <;> decide +kernel⟩

theorem met_descriptorsDoTheirWork_7 :
    (∃ (s : State) (u : State) (st : Nat) (idx : Nat) (x : StakeSt) (wv : Weave) (d : DescRun) (v : State) (a : State)
      (h : Nat) (es : List Nat), (wv.launch = true ∨ ∀ j, j < 4 → s.heldBack wv.ctx j = false) ∧ s.descReady st idx
      0x0F = some (x, wv, d) ∧ pselMalformed d.words = false ∧ s.kvNum (kvPlace wv st) (psTable d.words) 64 = (v,
      .ok h) ∧ v.pselBad d.words h = false ∧ v.each (fun t i => t.kvNum (kvPlace wv st) (psTable d.words + 64 + 64 *
      i) 64) (below (bhCount h)) = (a, .ok es) ∧ psKind d.words = 1 ∧ a.stepEnd wv st d h es = (u, .ok ())) ∧ (∃ (s
      : State) (u : State) (st : Nat) (idx : Nat) (x : StakeSt) (wv : Weave) (d : DescRun) (v : State) (a : State)
      (h : Nat) (es : List Nat), (wv.launch = true ∨ ∀ j, j < 4 → s.heldBack wv.ctx j = false) ∧ s.descReady st idx
      0x0F = some (x, wv, d) ∧ pselMalformed d.words = false ∧ s.kvNum (kvPlace wv st) (psTable d.words) 64 = (v,
      .ok h) ∧ v.pselBad d.words h = false ∧ v.each (fun t i => t.kvNum (kvPlace wv st) (psTable d.words + 64 + 64 *
      i) 64) (below (bhCount h)) = (a, .ok es) ∧ psKind d.words = 2 ∧ a.pselWrite wv st d h es = (u, .ok ())) ∧ (∃
      (s : State) (u : State) (st : Nat) (idx : Nat) (x : StakeSt) (wv : Weave) (d : DescRun) (v : State) (a :
      State) (h : Nat) (es : List Nat), (wv.launch = true ∨ ∀ j, j < 4 → s.heldBack wv.ctx j = false) ∧ s.descReady
      st idx 0x0F = some (x, wv, d) ∧ pselMalformed d.words = false ∧ s.kvNum (kvPlace wv st) (psTable d.words) 64 =
      (v, .ok h) ∧ v.pselBad d.words h = false ∧ v.each (fun t i => t.kvNum (kvPlace wv st) (psTable d.words + 64 +
      64 * i) 64) (below (bhCount h)) = (a, .ok es) ∧ psKind d.words = 3 ∧ a.pselSelect wv st d h es = (u, .ok ())) :=
  ⟨by refine ⟨batched (psel 1 []) 1, ((((((batched (psel 1 []) 1).kvNum (kvPlace weave 1) (psTable (⟨5, psel 1 [], [],
      none⟩ : DescRun).words) 64).1).each (fun t i => t.kvNum (kvPlace weave 1) (psTable (⟨5, psel 1 [], [], none⟩ :
      DescRun).words + 64 + 64 * i) 64) (below (bhCount (batch 1)))).1).stepEnd weave 1 (⟨5, psel 1 [], [], none⟩ :
      DescRun) (batch 1) ([0])).1, 1, 5, stk (psel 1 []) [] none none, weave, (⟨5, psel 1 [], [], none⟩ : DescRun),
      ((batched (psel 1 []) 1).kvNum (kvPlace weave 1) (psTable (⟨5, psel 1 [], [], none⟩ : DescRun).words) 64).1,
      ((((batched (psel 1 []) 1).kvNum (kvPlace weave 1) (psTable (⟨5, psel 1 [], [], none⟩ : DescRun).words)
      64).1).each (fun t i => t.kvNum (kvPlace weave 1) (psTable (⟨5, psel 1 [], [], none⟩ : DescRun).words + 64 +
      64 * i) 64) (below (bhCount (batch 1)))).1, batch 1, [0], ?_, ?_, ?_, pair_eq (by decide +kernel), ?_, pair_eq
      (by decide +kernel), ?_, pair_eq (by decide +kernel)⟩ <;> decide +kernel,
  by refine ⟨batched (psel 2 [opnd 0 0 0]) 1, ((((((batched (psel 2 [opnd 0 0 0]) 1).kvNum (kvPlace weave 1) (psTable
      (⟨5, psel 2 [opnd 0 0 0], [], none⟩ : DescRun).words) 64).1).each (fun t i => t.kvNum (kvPlace weave 1)
      (psTable (⟨5, psel 2 [opnd 0 0 0], [], none⟩ : DescRun).words + 64 + 64 * i) 64) (below (bhCount (batch
      1)))).1).pselWrite weave 1 (⟨5, psel 2 [opnd 0 0 0], [], none⟩ : DescRun) (batch 1) ([0])).1, 1, 5, stk (psel
      2 [opnd 0 0 0]) [] none none, weave, (⟨5, psel 2 [opnd 0 0 0], [], none⟩ : DescRun), ((batched (psel 2 [opnd 0
      0 0]) 1).kvNum (kvPlace weave 1) (psTable (⟨5, psel 2 [opnd 0 0 0], [], none⟩ : DescRun).words) 64).1,
      ((((batched (psel 2 [opnd 0 0 0]) 1).kvNum (kvPlace weave 1) (psTable (⟨5, psel 2 [opnd 0 0 0], [], none⟩ :
      DescRun).words) 64).1).each (fun t i => t.kvNum (kvPlace weave 1) (psTable (⟨5, psel 2 [opnd 0 0 0], [], none⟩
      : DescRun).words + 64 + 64 * i) 64) (below (bhCount (batch 1)))).1, batch 1, [0], ?_, ?_, ?_, pair_eq
      (by decide +kernel), ?_, pair_eq (by decide +kernel), ?_, pair_eq (by decide +kernel)⟩ <;> decide +kernel,
  by refine ⟨batched (psel 3 [opnd 0 0 0, opnd 2 1 0x62000, (128, 160), (1, 176), (1, 72), (1, 848)]) 1, ((((((batched
      (psel 3 [opnd 0 0 0, opnd 2 1 0x62000, (128, 160), (1, 176), (1, 72), (1, 848)]) 1).kvNum (kvPlace weave 1)
      (psTable (⟨5, psel 3 [opnd 0 0 0, opnd 2 1 0x62000, (128, 160), (1, 176), (1, 72), (1, 848)], [], none⟩ :
      DescRun).words) 64).1).each (fun t i => t.kvNum (kvPlace weave 1) (psTable (⟨5, psel 3 [opnd 0 0 0, opnd 2 1
      0x62000, (128, 160), (1, 176), (1, 72), (1, 848)], [], none⟩ : DescRun).words + 64 + 64 * i) 64) (below
      (bhCount (batch 1)))).1).pselSelect weave 1 (⟨5, psel 3 [opnd 0 0 0, opnd 2 1 0x62000, (128, 160), (1, 176),
      (1, 72), (1, 848)], [], none⟩ : DescRun) (batch 1) ([0])).1, 1, 5, stk (psel 3 [opnd 0 0 0, opnd 2 1 0x62000,
      (128, 160), (1, 176), (1, 72), (1, 848)]) [] none none, weave, (⟨5, psel 3 [opnd 0 0 0, opnd 2 1 0x62000,
      (128, 160), (1, 176), (1, 72), (1, 848)], [], none⟩ : DescRun), ((batched (psel 3 [opnd 0 0 0, opnd 2 1
      0x62000, (128, 160), (1, 176), (1, 72), (1, 848)]) 1).kvNum (kvPlace weave 1) (psTable (⟨5, psel 3 [opnd 0 0
      0, opnd 2 1 0x62000, (128, 160), (1, 176), (1, 72), (1, 848)], [], none⟩ : DescRun).words) 64).1, ((((batched
      (psel 3 [opnd 0 0 0, opnd 2 1 0x62000, (128, 160), (1, 176), (1, 72), (1, 848)]) 1).kvNum (kvPlace weave 1)
      (psTable (⟨5, psel 3 [opnd 0 0 0, opnd 2 1 0x62000, (128, 160), (1, 176), (1, 72), (1, 848)], [], none⟩ :
      DescRun).words) 64).1).each (fun t i => t.kvNum (kvPlace weave 1) (psTable (⟨5, psel 3 [opnd 0 0 0, opnd 2 1
      0x62000, (128, 160), (1, 176), (1, 72), (1, 848)], [], none⟩ : DescRun).words + 64 + 64 * i) 64) (below
      (bhCount (batch 1)))).1, batch 1, [0], ?_, ?_, ?_, pair_eq (by decide +kernel), ?_, pair_eq
      (by decide +kernel), ?_, pair_eq (by decide +kernel)⟩ <;> decide +kernel⟩

theorem met_descriptorsDoTheirWork_8 :
    (∃ (s : State) (st : Nat) (idx : Nat) (w : Nat) (x : StakeSt) (wv : Weave) (d : DescRun), (wv.launch = true ∨ ∀ j, j
      < 4 → s.heldBack wv.ctx j = false) ∧ w = d.words ∧ s.descReady st idx 0x01 = some (x, wv, d) ∧ mmMalformed wv
      true w = false ∧ paramsBad w mmParams = false ∧ TrayOperand wv w 0 (dFmtA w) (dK w) (dM w) ∧ TrayOperand wv w
      1 (dFmtB w) (dN w) (dK w) ∧ dPreload w ≤ 1 ∧ (dEpilogue w = true → TrayOutput wv w (dN w) (dM w))) ∧ (∃ (s :
      State) (st : Nat) (idx : Nat) (w : Nat) (x : StakeSt) (wv : Weave) (d : DescRun), (wv.launch = true ∨ ∀ j, j <
      4 → s.heldBack wv.ctx j = false) ∧ w = d.words ∧ s.descReady st idx 0x01 = some (x, wv, d) ∧ mmMalformed wv
      true w = true) ∧ (∃ (s : State) (st : Nat) (idx : Nat) (w : Nat) (x : StakeSt) (wv : Weave) (d : DescRun),
      (wv.launch = true ∨ ∀ j, j < 4 → s.heldBack wv.ctx j = false) ∧ w = d.words ∧ s.descReady st idx 0x03 = some
      (x, wv, d) ∧ convMalformed wv w = false ∧ TrayOperand wv w 0 (dFmtA w) (dK w) (dM w) ∧ TrayOperand wv w 1
      (dFmtB w) (dN w) (dK w) ∧ dPreload w ≤ 1 ∧ (dEpilogue w = true → TrayOutput wv w (dN w) (dM w))) :=
  ⟨by refine ⟨works (desc 0x01 gemm), 1, 5, desc 0x01 gemm, stk (desc 0x01 gemm) [] none none, weave, (⟨5, (desc 0x01
      gemm), [], none⟩ : DescRun), ?_, ?_, ?_, ?_, ?_, trayAt (by decide +kernel), trayAt (by decide +kernel), ?_,
      fun h => absurd h (by decide +kernel)⟩ <;> decide +kernel,
  ⟨works (desc 0x01 []), 1, 5, desc 0x01 [], stk (desc 0x01 []) [] none none, weave, (⟨5, (desc 0x01 []), [], none⟩ :
      DescRun), by decide +kernel⟩,
  by refine ⟨works (desc 0x03 (convol 1)), 1, 5, desc 0x03 (convol 1), stk (desc 0x03 (convol 1)) [] none none, weave,
      (⟨5, (desc 0x03 (convol 1)), [], none⟩ : DescRun), ?_, ?_, ?_, ?_, trayAt (by decide +kernel), trayAt
      (by decide +kernel), ?_, fun h => absurd h (by decide +kernel)⟩ <;> decide +kernel⟩

theorem met_descriptorsDoTheirWork_9 :
    (∃ (s : State) (st : Nat) (idx : Nat) (w : Nat) (x : StakeSt) (wv : Weave) (d : DescRun), (wv.launch = true ∨ ∀ j, j
      < 4 → s.heldBack wv.ctx j = false) ∧ w = d.words ∧ s.descReady st idx 0x04 = some (x, wv, d) ∧ wconvMalformed
      wv w = false ∧ bit w 899 = false ∧ TrayOperand wv w 0 (dFmtA w) (dK w) (dM w) ∧ TrayOperand wv w 1 (dFmtB w)
      (dN w) (dK w) ∧ (dEpilogue w = true → TrayOutput wv w (dN w) (dM w))) ∧ (∃ (s : State) (st : Nat) (idx : Nat)
      (w : Nat) (x : StakeSt) (wv : Weave) (d : DescRun), (wv.launch = true ∨ ∀ j, j < 4 → s.heldBack wv.ctx j =
      false) ∧ w = d.words ∧ s.descReady st idx 0x05 = some (x, wv, d) ∧ attnMalformed wv w = false ∧ bits w 771 3 =
      0 ∧ atVOff w = 0 ∧ atStaged wv st wv.first w ⟨0, dM w, dN w, (placeOf wv st 0 (dOpnd w 1)).base⟩ = false ∧
      TrayOperand wv w 0 (dFmtA w) (dK w) (dM w) ∧ TrayOperand wv w 1 (dFmtB w) (dK w) (dN w) ∧ TrayOutput wv w (dK
      w) (dM w)) ∧ (∃ (s : State) (st : Nat) (idx : Nat) (w : Nat) (x : StakeSt) (wv : Weave) (d : DescRun),
      (wv.launch = true ∨ ∀ j, j < 4 → s.heldBack wv.ctx j = false) ∧ w = d.words ∧ s.descReady st idx 0x06 = some
      (x, wv, d) ∧ normMalformed wv w = false ∧ bits w 770 2 = 0 ∧ bit w 773 = false ∧ TrayOperand wv w 0 (dFmtA w)
      (dN w) (dM w) ∧ TrayOutput wv w (dN w) (dM w)) :=
  ⟨by refine ⟨works (desc 0x04 (convol 3 ++ [(3, 66)])), 1, 5, desc 0x04 (convol 3 ++ [(3, 66)]), stk (desc 0x04
      (convol 3 ++ [(3, 66)])) [] none none, weave, (⟨5, (desc 0x04 (convol 3 ++ [(3, 66)])), [], none⟩ : DescRun),
      ?_, ?_, ?_, ?_, ?_, trayAt (by decide +kernel), trayAt (by decide +kernel), fun h => absurd h
      (by decide +kernel)⟩ <;> decide +kernel,
  by refine ⟨works (desc 0x05 (gemm ++ [opnd 2 0 128, (3, 66), (1, 71), (1, 176), (0x3F800000, 812)])), 1, 5, desc
      0x05 (gemm ++ [opnd 2 0 128, (3, 66), (1, 71), (1, 176), (0x3F800000, 812)]), stk (desc 0x05 (gemm ++ [opnd 2
      0 128, (3, 66), (1, 71), (1, 176), (0x3F800000, 812)])) [] none none, weave, (⟨5, (desc 0x05 (gemm ++ [opnd 2
      0 128, (3, 66), (1, 71), (1, 176), (0x3F800000, 812)])), [], none⟩ : DescRun), ?_, ?_, ?_, ?_, ?_, ?_, ?_,
      trayAt (by decide +kernel), trayAt (by decide +kernel), outAt (by decide +kernel)⟩ <;> decide +kernel,
  by refine ⟨works (desc 0x06 (grid ++ [(1, 768)])), 1, 5, desc 0x06 (grid ++ [(1, 768)]), stk (desc 0x06 (grid ++
      [(1, 768)])) [] none none, weave, (⟨5, (desc 0x06 (grid ++ [(1, 768)])), [], none⟩ : DescRun), ?_, ?_, ?_, ?_,
      ?_, ?_, trayAt (by decide +kernel), outAt (by decide +kernel)⟩ <;> decide +kernel⟩

theorem met_descriptorsDoTheirWork_10 :
    (∃ (s : State) (st : Nat) (idx : Nat) (w : Nat) (x : StakeSt) (wv : Weave) (d : DescRun), (wv.launch = true ∨ ∀ j, j
      < 4 → s.heldBack wv.ctx j = false) ∧ w = d.words ∧ s.descReady st idx 0x07 = some (x, wv, d) ∧ smaxMalformed
      wv w = false ∧ bit w 768 = false ∧ TrayOperand wv w 0 (dFmtA w) (dN w) (dM w) ∧ TrayOutput wv w (dN w) (dM w))
      ∧ (∃ (s : State) (st : Nat) (idx : Nat) (w : Nat) (x : StakeSt) (wv : Weave) (d : DescRun), (wv.launch = true
      ∨ ∀ j, j < 4 → s.heldBack wv.ctx j = false) ∧ w = d.words ∧ s.descReady st idx 0x08 = some (x, wv, d) ∧
      sfuMalformed wv w = false ∧ (∃ b ∈ d.binds, b.1 = bits w 768 8) ∧ TrayOperand wv w 0 (dFmtA w) (dN w) (dM w) ∧
      TrayOutput wv w (dN w) (dM w)) ∧ (∃ (s : State) (st : Nat) (idx : Nat) (w : Nat) (x : StakeSt) (wv : Weave) (d
      : DescRun), (wv.launch = true ∨ ∀ j, j < 4 → s.heldBack wv.ctx j = false) ∧ w = d.words ∧ s.descReady st idx
      0x0C = some (x, wv, d) ∧ cropMalformed wv w = false ∧ dM w = 1 ∧ (dOpnd w 1).space = 0 ∧ (dOpnd w 1).addr % 2
      ^ 21 + 16 ≤ trayBytes ∧ boxMalformed (leNat (s.trayN st ((dOpnd w 1).addr % 2 ^ 21) 16)) = false ∧ TrayOperand
      wv w 0 (dFmtA w) (dN w) (dM w) ∧ TrayOutput wv w (dN w) (dM w)) :=
  ⟨by refine ⟨works (desc 0x07 grid), 1, 5, desc 0x07 grid, stk (desc 0x07 grid) [] none none, weave, (⟨5, (desc 0x07
      grid), [], none⟩ : DescRun), ?_, ?_, ?_, ?_, ?_, trayAt (by decide +kernel), outAt (by decide +kernel)⟩ <;>
      decide +kernel,
  by refine ⟨onStake (desc 0x08 (grid ++ [(5, 768)])) [(5, 7)] none none, 1, 5, desc 0x08 (grid ++ [(5, 768)]), stk
      (desc 0x08 (grid ++ [(5, 768)])) [(5, 7)] none none, weave, (⟨5, (desc 0x08 (grid ++ [(5, 768)])), [(5, 7)],
      none⟩ : DescRun), ?_, ?_, ?_, ?_, ?_, trayAt (by decide +kernel), outAt (by decide +kernel)⟩ <;> decide
      +kernel,
  by refine ⟨(works (desc 0x0C (grid ++ [opnd 1 0 64, (1, 768), (1, 784)]))).setTrayN 1 64 (natLe 16 (2 ^ 32 + 2 ^
      48)), 1, 5, desc 0x0C (grid ++ [opnd 1 0 64, (1, 768), (1, 784)]), stk (desc 0x0C (grid ++ [opnd 1 0 64, (1,
      768), (1, 784)])) [] none none, weave, (⟨5, (desc 0x0C (grid ++ [opnd 1 0 64, (1, 768), (1, 784)])), [], none⟩
      : DescRun), ?_, ?_, ?_, ?_, ?_, ?_, ?_, ?_, trayAt (by decide +kernel), outAt (by decide +kernel)⟩ <;> decide
      +kernel⟩

theorem met_descriptorsDoTheirWork_11 :
    (∃ (s : State) (st : Nat) (idx : Nat) (w : Nat) (x : StakeSt) (wv : Weave) (d : DescRun), (wv.launch = true ∨ ∀ j, j
      < 4 → s.heldBack wv.ctx j = false) ∧ w = d.words ∧ s.descReady st idx 0x0D = some (x, wv, d) ∧ poolMalformed
      wv w = false ∧ TrayOperand wv w 0 (dFmtA w) (dN w) (dM w) ∧ TrayOutput wv w (dN w) (dM w)) ∧ (∃ (s : State)
      (st : Nat) (idx : Nat) (w : Nat) (a : Nat) (c : Nat) (n : Nat) (x : StakeSt) (wv : Weave) (d : DescRun),
      (wv.launch = true ∨ ∀ j, j < 4 → s.heldBack wv.ctx j = false) ∧ w = d.words ∧ s.descReady st idx 0x0B = some
      (x, wv, d) ∧ packMalformed wv w = false ∧ (dOpnd w 0).space = 0 ∧ a = (dOpnd w 0).addr % 2 ^ 21 ∧ c = (dOpnd w
      2).addr % 2 ^ 21 ∧ n = pkLength w ∧ n ≤ 4096 ∧ pkKind w = 0 ∧ bit w 770 = false ∧ a + n ≤ trayBytes ∧ (dOpnd w
      2).space = 0 ∧ c + 4288 ≤ trayBytes) ∧ (∃ (s : State) (st : Nat) (idx : Nat) (w : Nat) (a : Nat) (c : Nat) (n
      : Nat) (x : StakeSt) (wv : Weave) (d : DescRun) (v : State) (h : Nat) (img : List Byte), (wv.launch = true ∨ ∀
      j, j < 4 → s.heldBack wv.ctx j = false) ∧ w = d.words ∧ s.descReady st idx 0x0B = some (x, wv, d) ∧
      packMalformed wv w = false ∧ (dOpnd w 0).space = 0 ∧ a = (dOpnd w 0).addr % 2 ^ 21 ∧ c = (dOpnd w 2).addr % 2
      ^ 21 ∧ n = pkLength w ∧ n ≤ 4096 ∧ pkKind w = 1 ∧ (dOpnd w 2).space = 0 ∧ c + n ≤ trayBytes ∧ s.readIndex
      (placeOf wv st (bits w 800 11) (dOpnd w 0)) = (s, .ok h) ∧ n ≤ ihBytes h ∧ s.expandBlock (placeOf wv st (bits
      w 800 11) (dOpnd w 0)) (coilSet (st / 96)) h 0 = (v, .ok img) ∧ img.length = 4096) :=
  ⟨by refine ⟨works (desc 0x0D (grid ++ [(1, 768), (1, 776), (1, 784), (1, 792), (1, 808)])), 1, 5, desc 0x0D (grid ++
      [(1, 768), (1, 776), (1, 784), (1, 792), (1, 808)]), stk (desc 0x0D (grid ++ [(1, 768), (1, 776), (1, 784),
      (1, 792), (1, 808)])) [] none none, weave, (⟨5, (desc 0x0D (grid ++ [(1, 768), (1, 776), (1, 784), (1, 792),
      (1, 808)])), [], none⟩ : DescRun), ?_, ?_, ?_, ?_, trayAt (by decide +kernel), outAt (by decide +kernel)⟩ <;>
      decide +kernel,
  ⟨works (desc 0x0B [opnd 0 0 0, opnd 2 0 4096, (3, 72), (16, 832)]), 1, 5, desc 0x0B [opnd 0 0 0, opnd 2 0 4096, (3,
      72), (16, 832)], 0, 4096, 16, stk (desc 0x0B [opnd 0 0 0, opnd 2 0 4096, (3, 72), (16, 832)]) [] none none,
      weave, (⟨5, (desc 0x0B [opnd 0 0 0, opnd 2 0 4096, (3, 72), (16, 832)]), [], none⟩ : DescRun),
      by decide +kernel⟩,
  by refine ⟨packed decodeW, 1, 5, decodeW, 4096, 0, 16, stk decodeW [] none none, weave, (⟨5, decodeW, [], none⟩ :
      DescRun), ((packed decodeW).expandBlock (placeOf weave 1 (bits decodeW 800 11) (dOpnd decodeW 0)) (coilSet (1
      / 96)) indexHd 0).1, indexHd, okOf ((packed decodeW).expandBlock (placeOf weave 1 (bits decodeW 800 11) (dOpnd
      decodeW 0)) (coilSet (1 / 96)) indexHd 0), ?_, ?_, ?_, ?_, ?_, ?_, ?_, ?_, by decide +kernel, ?_, ?_, ?_, ?_,
      ?_, pair_eq (by decide +kernel), ?_⟩ <;> decide +kernel⟩

theorem met_descriptorsDoTheirWork_12 :
    (∃ (s : State) (st : Nat) (idx : Nat) (w : Nat) (a : Nat) (c : Nat) (n : Nat) (x : StakeSt) (wv : Weave) (d :
      DescRun) (u : State) (v : State) (h : Nat) (blk : List Byte), (wv.launch = true ∨ ∀ j, j < 4 → s.heldBack
      wv.ctx j = false) ∧ w = d.words ∧ s.descReady st idx 0x0B = some (x, wv, d) ∧ packMalformed wv w = false ∧
      (dOpnd w 0).space = 0 ∧ a = (dOpnd w 0).addr % 2 ^ 21 ∧ c = (dOpnd w 2).addr % 2 ^ 21 ∧ n = pkLength w ∧ n ≤
      4096 ∧ pkKind w = 2 ∧ (dOpnd w 2).space = 0 ∧ c + 128 + blk.length ≤ trayBytes ∧ s.readIndex (placeOf wv st
      (bits w 800 11) (dOpnd w 0)) = (s, .ok h) ∧ ihBytes h ≤ 4096 ∧ 0 < ihBytes h ∧ u = (s.setTrayN st c
      (indexHeader (ihFmt h) 0 (ihBytes h) (bits h 128 48))).setTrayN st (c + 68) (List.replicate 60 0) ∧
      u.checkedBlock (placeOf wv st (bits w 800 11) (dOpnd w 0)) h 0 = (v, .ok blk)) ∧ (∃ (s : State) (st : Nat)
      (idx : Nat) (w : Nat) (a : Nat) (c : Nat) (n : Nat) (x : StakeSt) (wv : Weave) (d : DescRun) (wr : Wr),
      (wv.launch = true ∨ ∀ j, j < 4 → s.heldBack wv.ctx j = false) ∧ w = d.words ∧ s.descReady st idx 0x0B = some
      (x, wv, d) ∧ packMalformed wv w = false ∧ (dOpnd w 0).space = 0 ∧ a = (dOpnd w 0).addr % 2 ^ 21 ∧ c = (dOpnd w
      2).addr % 2 ^ 21 ∧ n = pkLength w ∧ n ≤ 4096 ∧ pkKind w = 3 ∧ a + n ≤ trayBytes ∧ pkTable w + 576 ≤ 2 ^ 48 ∧
      wr = s.vwrite (stakeRq wv st) (pkTable w) (tableObject (bits w 912 16) ((countBlock (planeWidth (dFmtA w))
      ((below (planeWidth (dFmtA w))).map (fun _ => (below 256).map (fun _ => 1))) (s.trayN st a n)).map (fun f =>
      buildLens 11 64 f))) ∧ wr.st = 0) ∧ (∃ (s : State) (st : Nat) (idx : Nat) (w : Nat) (i : Nat) (x : StakeSt)
      (wv : Weave) (d : DescRun), w = d.words ∧ s.descReady st idx 0x0E = some (x, wv, d) ∧ scatterMalformed wv w =
      false ∧ s.adding st idx = false ∧ dM w = 1 ∧ dN w = 1 ∧ bit w 785 = false ∧ TrayOperand wv w 0 (dFmtA w) 1 1 ∧
      (dOpnd w 1).addr % 2 ^ 21 + 4 ≤ trayBytes ∧ i = leNat (s.trayN st ((dOpnd w 1).addr % 2 ^ 21) 4) ∧ toSigned 32
      i < 0) :=
  ⟨by refine ⟨packed compactW, 1, 5, compactW, 4096, 0, 16, stk compactW [] none none, weave, (⟨5, compactW, [], none⟩
      : DescRun), ((packed compactW).setTrayN 1 0 (indexHeader (ihFmt indexHd) 0 (ihBytes indexHd) (bits indexHd 128
      48))).setTrayN 1 (0 + 68) (List.replicate 60 0), ((((packed compactW).setTrayN 1 0 (indexHeader (ihFmt
      indexHd) 0 (ihBytes indexHd) (bits indexHd 128 48))).setTrayN 1 (0 + 68) (List.replicate 60 0)).checkedBlock
      (placeOf weave 1 (bits compactW 800 11) (dOpnd compactW 0)) indexHd 0).1, indexHd, okOf ((((packed
      compactW).setTrayN 1 0 (indexHeader (ihFmt indexHd) 0 (ihBytes indexHd) (bits indexHd 128 48))).setTrayN 1 (0
      + 68) (List.replicate 60 0)).checkedBlock (placeOf weave 1 (bits compactW 800 11) (dOpnd compactW 0)) indexHd
      0), ?_, ?_, ?_, ?_, ?_, ?_, ?_, ?_, by decide +kernel, ?_, ?_, ?_, ?_, ?_, ?_, rfl, pair_eq
      (by decide +kernel)⟩ <;> decide +kernel,
  by refine ⟨works (desc 0x0B [(3, 768), opnd 0 0 0, (3, 72), (64, 832), (0x60000, 864)]), 1, 5, desc 0x0B [(3, 768),
      opnd 0 0 0, (3, 72), (64, 832), (0x60000, 864)], 0, 0, 64, stk (desc 0x0B [(3, 768), opnd 0 0 0, (3, 72), (64,
      832), (0x60000, 864)]) [] none none, weave, (⟨5, (desc 0x0B [(3, 768), opnd 0 0 0, (3, 72), (64, 832),
      (0x60000, 864)]), [], none⟩ : DescRun), (works (desc 0x0B [(3, 768), opnd 0 0 0, (3, 72), (64, 832), (0x60000,
      864)])).vwrite (stakeRq weave 1) (pkTable (desc 0x0B [(3, 768), opnd 0 0 0, (3, 72), (64, 832), (0x60000,
      864)])) (tableObject (bits (desc 0x0B [(3, 768), opnd 0 0 0, (3, 72), (64, 832), (0x60000, 864)]) 912 16)
      ((countBlock (planeWidth (dFmtA (desc 0x0B [(3, 768), opnd 0 0 0, (3, 72), (64, 832), (0x60000, 864)])))
      ((below (planeWidth (dFmtA (desc 0x0B [(3, 768), opnd 0 0 0, (3, 72), (64, 832), (0x60000, 864)])))).map (fun
      _ => (below 256).map (fun _ => 1))) ((works (desc 0x0B [(3, 768), opnd 0 0 0, (3, 72), (64, 832), (0x60000,
      864)])).trayN 1 0 64)).map (fun f => buildLens 11 64 f))), ?_, ?_, ?_, ?_, ?_, ?_, ?_, ?_, by decide +kernel,
      ?_, ?_, ?_, rfl, ?_⟩ <;> decide +kernel,
  by refine ⟨(works (scatterW [])).setTrayN 1 64 (natLe 4 0xFFFFFFFF), 1, 5, scatterW [], 0xFFFFFFFF, stk (scatterW
      []) [] none none, weave, (⟨5, (scatterW []), [], none⟩ : DescRun), ?_, ?_, ?_, ?_, ?_, ?_, ?_, trayAt
      (by decide +kernel), ?_⟩ <;> decide +kernel⟩

theorem met_descriptorsDoTheirWork_13 :
    (∃ (s : State) (st : Nat) (idx : Nat) (w : Nat) (i : Nat) (x : StakeSt) (wv : Weave) (d : DescRun) (oa : Int) (oc :
      Int) (va : Nat) (y : Xl), w = d.words ∧ s.descReady st idx 0x0E = some (x, wv, d) ∧ scatterMalformed wv w =
      false ∧ s.adding st idx = false ∧ dM w = 1 ∧ dN w = 1 ∧ bit w 785 = false ∧ TrayOperand wv w 0 (dFmtA w) 1 1 ∧
      (dOpnd w 1).addr % 2 ^ 21 + 4 ≤ trayBytes ∧ i = leNat (s.trayN st ((dOpnd w 1).addr % 2 ^ 21) 4) ∧ i < 2 ^ 31
      ∧ (agenOf wv (dOpnd w 0) 1 1).offset [0, 0] [] = some oa ∧ (agenOf wv (dOpnd w 2) 1 1).offset [0, i] [] = some
      oc ∧ ((va : Nat) : Int) = (dOpnd w 2).addr + oc * (fmtBits (dFmtOut w) / 8 : Nat) ∧ va + fmtBits (dFmtOut w) /
      8 ≤ 2 ^ 48 ∧ y = s.xlate (stakeRq wv st) (va / 64 * 64) true ∧ y.st = 0) ∧ (∃ (s : State) (v : State) (a :
      State) (st : Nat) (idx : Nat) (w : Nat) (h : Nat) (e : Nat) (x : StakeSt) (wv : Weave) (d : DescRun) (s0 :
      State) (h' : Nat) (k : KvEnt) (w1 : Wr) (w2 : Wr) (w3 : Wr), (wv.launch = true ∨ ∀ j, j < 4 → s.heldBack
      wv.ctx j = false) ∧ w = d.words ∧ s.descReady st idx 0x0F = some (x, wv, d) ∧ pselMalformed w = false ∧
      s.kvNum (kvPlace wv st) (psTable w) 64 = (v, .ok h) ∧ v.pselBad w h = false ∧ bhCount h = 1 ∧ v.kvNum (kvPlace
      wv st) (psTable w + 64) 64 = (a, .ok e) ∧ psTable w + 128 ≤ 2 ^ 48 ∧ psKind w = 0 ∧ beReq e = 0 ∧ beActive e =
      false ∧ beReserved e = false ∧ k = ⟨0, e, 0, 0, if beValid h e then 0 else stKvLength, 0⟩ ∧ h' = putAll h
      [(48, 1, 1), (320, 16, 0), (336, 16, 0), (352, 16, 0), (368, 16, 0), (384, 16, 0), (416, 32, 0)] ∧ s0 =
      ((a.radd R.poolPselFramesCount (st / 96) 0).radd R.poolPselNoPageCount (st / 96) 0).radd
      R.poolPselDeferredCount (st / 96) 0 ∧ bhLt h' + 32 ≤ 2 ^ 48 ∧ w1 = s0.vwrite (stakeRq wv st) (bhLt h') (natLe
      32 (ltEntry h' k)) ∧ w1.st = 0 ∧ w2 = w1.s.vwrite (stakeRq wv st) (psTable w + 64) (natLe 64 (putBits e 272 16
      k.st)) ∧ w2.st = 0 ∧ w3 = w2.s.vwrite (stakeRq wv st) (psTable w) (natLe 64 h') ∧ w3.st = 0) ∧ (∃ (s : State)
      (v : State) (a : State) (st : Nat) (idx : Nat) (w : Nat) (h : Nat) (e : Nat) (x : StakeSt) (wv : Weave) (d :
      DescRun) (w1 : Wr) (w2 : Wr), (wv.launch = true ∨ ∀ j, j < 4 → s.heldBack wv.ctx j = false) ∧ w = d.words ∧
      s.descReady st idx 0x0F = some (x, wv, d) ∧ pselMalformed w = false ∧ s.kvNum (kvPlace wv st) (psTable w) 64 =
      (v, .ok h) ∧ v.pselBad w h = false ∧ bhCount h = 1 ∧ v.kvNum (kvPlace wv st) (psTable w + 64) 64 = (a, .ok e)
      ∧ psTable w + 128 ≤ 2 ^ 48 ∧ psKind w = 1 ∧ beReq e ≠ 2 ∧ w1 = a.vwrite (stakeRq wv st) (psTable w + 64)
      (natLe 64 e) ∧ w1.st = 0 ∧ w2 = w1.s.vwrite (stakeRq wv st) (psTable w) (natLe 64 (putAll h [(48, 1, 0), (256,
      64, bits h 256 64 + 1), (400, 16, 0), (448, 32, 0)])) ∧ w2.st = 0) :=
  ⟨by refine ⟨works (scatterW []), 1, 5, scatterW [], 0, stk (scatterW []) [] none none, weave, (⟨5, (scatterW []), [],
      none⟩ : DescRun), 0, 0, 0x60000, (works (scatterW [])).xlate (stakeRq weave 1) (0x60000 / 64 * 64) true, ?_,
      ?_, ?_, ?_, ?_, ?_, ?_, trayAt (by decide +kernel), ?_, ?_, ?_, ?_, ?_, ?_, ?_, rfl, ?_⟩ <;> decide +kernel,
  by refine ⟨batched (psel 0 []) 0, ((batched (psel 0 []) 0).kvNum (kvPlace weave 1) (psTable (psel 0 [])) 64).1,
      ((((batched (psel 0 []) 0).kvNum (kvPlace weave 1) (psTable (psel 0 [])) 64).1).kvNum (kvPlace weave 1)
      (psTable (psel 0 []) + 64) 64).1, 1, 5, psel 0 [], batch 0, 0, stk (psel 0 []) [] none none, weave, (⟨5, (psel
      0 []), [], none⟩ : DescRun), (((((((batched (psel 0 []) 0).kvNum (kvPlace weave 1) (psTable (psel 0 []))
      64).1).kvNum (kvPlace weave 1) (psTable (psel 0 []) + 64) 64).1).radd R.poolPselFramesCount (1 / 96) 0).radd
      R.poolPselNoPageCount (1 / 96) 0).radd R.poolPselDeferredCount (1 / 96) 0, putAll (batch 0) [(48, 1, 1), (320,
      16, 0), (336, 16, 0), (352, 16, 0), (368, 16, 0), (384, 16, 0), (416, 32, 0)], (⟨0, 0, 0, 0, if beValid (batch
      0) 0 then 0 else stKvLength, 0⟩ : KvEnt), ((((((((batched (psel 0 []) 0).kvNum (kvPlace weave 1) (psTable
      (psel 0 [])) 64).1).kvNum (kvPlace weave 1) (psTable (psel 0 []) + 64) 64).1).radd R.poolPselFramesCount (1 /
      96) 0).radd R.poolPselNoPageCount (1 / 96) 0).radd R.poolPselDeferredCount (1 / 96) 0).vwrite (stakeRq weave
      1) (bhLt (putAll (batch 0) [(48, 1, 1), (320, 16, 0), (336, 16, 0), (352, 16, 0), (368, 16, 0), (384, 16, 0),
      (416, 32, 0)])) (natLe 32 (ltEntry (putAll (batch 0) [(48, 1, 1), (320, 16, 0), (336, 16, 0), (352, 16, 0),
      (368, 16, 0), (384, 16, 0), (416, 32, 0)]) (⟨0, 0, 0, 0, if beValid (batch 0) 0 then 0 else stKvLength, 0⟩ :
      KvEnt))), (((((((((batched (psel 0 []) 0).kvNum (kvPlace weave 1) (psTable (psel 0 [])) 64).1).kvNum (kvPlace
      weave 1) (psTable (psel 0 []) + 64) 64).1).radd R.poolPselFramesCount (1 / 96) 0).radd R.poolPselNoPageCount
      (1 / 96) 0).radd R.poolPselDeferredCount (1 / 96) 0).vwrite (stakeRq weave 1) (bhLt (putAll (batch 0) [(48, 1,
      1), (320, 16, 0), (336, 16, 0), (352, 16, 0), (368, 16, 0), (384, 16, 0), (416, 32, 0)])) (natLe 32 (ltEntry
      (putAll (batch 0) [(48, 1, 1), (320, 16, 0), (336, 16, 0), (352, 16, 0), (368, 16, 0), (384, 16, 0), (416, 32,
      0)]) (⟨0, 0, 0, 0, if beValid (batch 0) 0 then 0 else stKvLength, 0⟩ : KvEnt)))).s.vwrite (stakeRq weave 1)
      (psTable (psel 0 []) + 64) (natLe 64 (putBits 0 272 16 (⟨0, 0, 0, 0, if beValid (batch 0) 0 then 0 else
      stKvLength, 0⟩ : KvEnt).st)), ((((((((((batched (psel 0 []) 0).kvNum (kvPlace weave 1) (psTable (psel 0 []))
      64).1).kvNum (kvPlace weave 1) (psTable (psel 0 []) + 64) 64).1).radd R.poolPselFramesCount (1 / 96) 0).radd
      R.poolPselNoPageCount (1 / 96) 0).radd R.poolPselDeferredCount (1 / 96) 0).vwrite (stakeRq weave 1) (bhLt
      (putAll (batch 0) [(48, 1, 1), (320, 16, 0), (336, 16, 0), (352, 16, 0), (368, 16, 0), (384, 16, 0), (416, 32,
      0)])) (natLe 32 (ltEntry (putAll (batch 0) [(48, 1, 1), (320, 16, 0), (336, 16, 0), (352, 16, 0), (368, 16,
      0), (384, 16, 0), (416, 32, 0)]) (⟨0, 0, 0, 0, if beValid (batch 0) 0 then 0 else stKvLength, 0⟩ :
      KvEnt)))).s.vwrite (stakeRq weave 1) (psTable (psel 0 []) + 64) (natLe 64 (putBits 0 272 16 (⟨0, 0, 0, 0, if
      beValid (batch 0) 0 then 0 else stKvLength, 0⟩ : KvEnt).st))).s.vwrite (stakeRq weave 1) (psTable (psel 0 []))
      (natLe 64 (putAll (batch 0) [(48, 1, 1), (320, 16, 0), (336, 16, 0), (352, 16, 0), (368, 16, 0), (384, 16, 0),
      (416, 32, 0)])), ?_, ?_, ?_, ?_, pair_eq (by decide +kernel), ?_, ?_, pair_eq (by decide +kernel), ?_, ?_, ?_,
      ?_, ?_, rfl, rfl, rfl, ?_, rfl, ?_, rfl, ?_, rfl, ?_⟩ <;> decide +kernel,
  by refine ⟨batched (psel 1 []) 1, ((batched (psel 1 []) 1).kvNum (kvPlace weave 1) (psTable (psel 1 [])) 64).1,
      ((((batched (psel 1 []) 1).kvNum (kvPlace weave 1) (psTable (psel 1 [])) 64).1).kvNum (kvPlace weave 1)
      (psTable (psel 1 []) + 64) 64).1, 1, 5, psel 1 [], batch 1, 0, stk (psel 1 []) [] none none, weave, (⟨5, (psel
      1 []), [], none⟩ : DescRun), (((((batched (psel 1 []) 1).kvNum (kvPlace weave 1) (psTable (psel 1 []))
      64).1).kvNum (kvPlace weave 1) (psTable (psel 1 []) + 64) 64).1).vwrite (stakeRq weave 1) (psTable (psel 1 [])
      + 64) (natLe 64 0), ((((((batched (psel 1 []) 1).kvNum (kvPlace weave 1) (psTable (psel 1 [])) 64).1).kvNum
      (kvPlace weave 1) (psTable (psel 1 []) + 64) 64).1).vwrite (stakeRq weave 1) (psTable (psel 1 []) + 64) (natLe
      64 0)).s.vwrite (stakeRq weave 1) (psTable (psel 1 [])) (natLe 64 (putAll (batch 1) [(48, 1, 0), (256, 64,
      bits (batch 1) 256 64 + 1), (400, 16, 0), (448, 32, 0)])), ?_, ?_, ?_, ?_, pair_eq (by decide +kernel), ?_,
      ?_, pair_eq (by decide +kernel), ?_, ?_, ?_, rfl, ?_, rfl, ?_⟩ <;> decide +kernel⟩

theorem met_descriptorsDoTheirWork_14 :
    (∃ (s : State) (v : State) (a : State) (st : Nat) (idx : Nat) (w : Nat) (h : Nat) (e : Nat) (x : StakeSt) (wv :
      Weave) (d : DescRun) (b : State) (l : Nat), (wv.launch = true ∨ ∀ j, j < 4 → s.heldBack wv.ctx j = false) ∧ w
      = d.words ∧ s.descReady st idx 0x0F = some (x, wv, d) ∧ pselMalformed w = false ∧ s.kvNum (kvPlace wv st)
      (psTable w) 64 = (v, .ok h) ∧ v.pselBad w h = false ∧ bhCount h = 1 ∧ v.kvNum (kvPlace wv st) (psTable w + 64)
      64 = (a, .ok e) ∧ psTable w + 128 ≤ 2 ^ 48 ∧ a.kvNum (kvPlace wv st) (bhLt h) 32 = (b, .ok l) ∧ ltBad l =
      false ∧ (ltStatus l ≠ 0 ∨ bits l 32 32 = 0) ∧ psKind w = 2) ∧ (∃ (s : State) (v : State) (a : State) (st :
      Nat) (idx : Nat) (w : Nat) (h : Nat) (e : Nat) (x : StakeSt) (wv : Weave) (d : DescRun) (b : State) (l : Nat),
      (wv.launch = true ∨ ∀ j, j < 4 → s.heldBack wv.ctx j = false) ∧ w = d.words ∧ s.descReady st idx 0x0F = some
      (x, wv, d) ∧ pselMalformed w = false ∧ s.kvNum (kvPlace wv st) (psTable w) 64 = (v, .ok h) ∧ v.pselBad w h =
      false ∧ bhCount h = 1 ∧ v.kvNum (kvPlace wv st) (psTable w + 64) 64 = (a, .ok e) ∧ psTable w + 128 ≤ 2 ^ 48 ∧
      a.kvNum (kvPlace wv st) (bhLt h) 32 = (b, .ok l) ∧ ltBad l = false ∧ (ltStatus l ≠ 0 ∨ bits l 32 32 = 0) ∧
      psKind w = 3 ∧ (dOpnd w 0).space ≠ 3) ∧ (∃ (s : State) (v : State) (a : State) (st : Nat) (idx : Nat) (w :
      Nat) (h : Nat) (e : Nat) (x : StakeSt) (wv : Weave) (d : DescRun) (b : State) (l : Nat) (u : State) (q :
      AtSeq) (r : List Unit) (bs : List Byte), (wv.launch = true ∨ ∀ j, j < 4 → s.heldBack wv.ctx j = false) ∧ w =
      d.words ∧ s.descReady st idx 0x0F = some (x, wv, d) ∧ pselMalformed w = false ∧ s.kvNum (kvPlace wv st)
      (psTable w) 64 = (v, .ok h) ∧ v.pselBad w h = false ∧ bhCount h = 1 ∧ v.kvNum (kvPlace wv st) (psTable w + 64)
      64 = (a, .ok e) ∧ psTable w + 128 ≤ 2 ^ 48 ∧ a.kvNum (kvPlace wv st) (bhLt h) 32 = (b, .ok l) ∧ ltBad l =
      false ∧ psKind w = 2 ∧ ltStatus l = 0 ∧ q = ltSeq l ∧ q.qlen = 1 ∧ 1 ≤ q.kv ∧ bhSummary h = false ∧ (dOpnd w
      0).space = 0 ∧ (dOpnd w 0).addr % 2 ^ 21 + (q.start + 1) * (bhPage h / 16) ≤ trayBytes ∧ bs = b.trayN st
      ((dOpnd w 0).addr % 2 ^ 21 + q.start * (bhPage h / 16)) (bhPage h / 16) ∧ b.each (fun t k => t.placeWrite
      (kvPlace wv st) (pageVa h e (psLayer w) ((q.kv - 1) / 16) + (k * 16 + (q.kv - 1) % 16) * (bhDim h * bhBytes h)
      : Nat) ((bs.drop (k * (bhDim h * bhBytes h))).take (bhDim h * bhBytes h))) (below (2 * bhHeads h)) = (u, .ok
      r)) :=
  ⟨by refine ⟨batched (psel 2 [opnd 0 0 0]) 1, ((batched (psel 2 [opnd 0 0 0]) 1).kvNum (kvPlace weave 1) (psTable
      (psel 2 [opnd 0 0 0])) 64).1, ((((batched (psel 2 [opnd 0 0 0]) 1).kvNum (kvPlace weave 1) (psTable (psel 2
      [opnd 0 0 0])) 64).1).kvNum (kvPlace weave 1) (psTable (psel 2 [opnd 0 0 0]) + 64) 64).1, 1, 5, psel 2 [opnd 0
      0 0], batch 1, 0, stk (psel 2 [opnd 0 0 0]) [] none none, weave, (⟨5, (psel 2 [opnd 0 0 0]), [], none⟩ :
      DescRun), ((((((batched (psel 2 [opnd 0 0 0]) 1).kvNum (kvPlace weave 1) (psTable (psel 2 [opnd 0 0 0]))
      64).1).kvNum (kvPlace weave 1) (psTable (psel 2 [opnd 0 0 0]) + 64) 64).1).kvNum (kvPlace weave 1) (bhLt
      (batch 1)) 32).1, 0, ?_, ?_, ?_, ?_, pair_eq (by decide +kernel), ?_, ?_, pair_eq (by decide +kernel), ?_,
      pair_eq (by decide +kernel), ?_⟩ <;> decide +kernel,
  by refine ⟨batched (psel 3 [opnd 0 0 0, opnd 2 1 0x62000, (128, 160), (1, 176), (1, 72), (1, 848)]) 1, ((batched
      (psel 3 [opnd 0 0 0, opnd 2 1 0x62000, (128, 160), (1, 176), (1, 72), (1, 848)]) 1).kvNum (kvPlace weave 1)
      (psTable (psel 3 [opnd 0 0 0, opnd 2 1 0x62000, (128, 160), (1, 176), (1, 72), (1, 848)])) 64).1, ((((batched
      (psel 3 [opnd 0 0 0, opnd 2 1 0x62000, (128, 160), (1, 176), (1, 72), (1, 848)]) 1).kvNum (kvPlace weave 1)
      (psTable (psel 3 [opnd 0 0 0, opnd 2 1 0x62000, (128, 160), (1, 176), (1, 72), (1, 848)])) 64).1).kvNum
      (kvPlace weave 1) (psTable (psel 3 [opnd 0 0 0, opnd 2 1 0x62000, (128, 160), (1, 176), (1, 72), (1, 848)]) +
      64) 64).1, 1, 5, psel 3 [opnd 0 0 0, opnd 2 1 0x62000, (128, 160), (1, 176), (1, 72), (1, 848)], batch 1, 0,
      stk (psel 3 [opnd 0 0 0, opnd 2 1 0x62000, (128, 160), (1, 176), (1, 72), (1, 848)]) [] none none, weave, (⟨5,
      (psel 3 [opnd 0 0 0, opnd 2 1 0x62000, (128, 160), (1, 176), (1, 72), (1, 848)]), [], none⟩ : DescRun),
      ((((((batched (psel 3 [opnd 0 0 0, opnd 2 1 0x62000, (128, 160), (1, 176), (1, 72), (1, 848)]) 1).kvNum
      (kvPlace weave 1) (psTable (psel 3 [opnd 0 0 0, opnd 2 1 0x62000, (128, 160), (1, 176), (1, 72), (1, 848)]))
      64).1).kvNum (kvPlace weave 1) (psTable (psel 3 [opnd 0 0 0, opnd 2 1 0x62000, (128, 160), (1, 176), (1, 72),
      (1, 848)]) + 64) 64).1).kvNum (kvPlace weave 1) (bhLt (batch 1)) 32).1, 0, ?_, ?_, ?_, ?_, pair_eq
      (by decide +kernel), ?_, ?_, pair_eq (by decide +kernel), ?_, pair_eq (by decide +kernel), ?_⟩ <;> decide
      +kernel,
  by refine ⟨stepped (psel 2 [opnd 0 0 0]) (batch 1 - 2 ^ 96) oneToken, ((stepped (psel 2 [opnd 0 0 0]) (batch 1 - 2 ^
      96) oneToken).kvNum (kvPlace weave 1) (psTable (psel 2 [opnd 0 0 0])) 64).1, ((((stepped (psel 2 [opnd 0 0 0])
      (batch 1 - 2 ^ 96) oneToken).kvNum (kvPlace weave 1) (psTable (psel 2 [opnd 0 0 0])) 64).1).kvNum (kvPlace
      weave 1) (psTable (psel 2 [opnd 0 0 0]) + 64) 64).1, 1, 5, psel 2 [opnd 0 0 0], batch 1 - 2 ^ 96, 0, stk (psel
      2 [opnd 0 0 0]) [] none none, weave, (⟨5, (psel 2 [opnd 0 0 0]), [], none⟩ : DescRun), ((((((stepped (psel 2
      [opnd 0 0 0]) (batch 1 - 2 ^ 96) oneToken).kvNum (kvPlace weave 1) (psTable (psel 2 [opnd 0 0 0]))
      64).1).kvNum (kvPlace weave 1) (psTable (psel 2 [opnd 0 0 0]) + 64) 64).1).kvNum (kvPlace weave 1) (bhLt
      (batch 1 - 2 ^ 96)) 32).1, oneToken, ((((((((stepped (psel 2 [opnd 0 0 0]) (batch 1 - 2 ^ 96) oneToken).kvNum
      (kvPlace weave 1) (psTable (psel 2 [opnd 0 0 0])) 64).1).kvNum (kvPlace weave 1) (psTable (psel 2 [opnd 0 0
      0]) + 64) 64).1).kvNum (kvPlace weave 1) (bhLt (batch 1 - 2 ^ 96)) 32).1).each (fun t k => t.placeWrite
      (kvPlace weave 1) (pageVa (batch 1 - 2 ^ 96) 0 (psLayer (psel 2 [opnd 0 0 0])) (((ltSeq oneToken).kv - 1) /
      16) + (k * 16 + ((ltSeq oneToken).kv - 1) % 16) * (bhDim (batch 1 - 2 ^ 96) * bhBytes (batch 1 - 2 ^ 96)) :
      Nat) ((((((((((stepped (psel 2 [opnd 0 0 0]) (batch 1 - 2 ^ 96) oneToken).kvNum (kvPlace weave 1) (psTable
      (psel 2 [opnd 0 0 0])) 64).1).kvNum (kvPlace weave 1) (psTable (psel 2 [opnd 0 0 0]) + 64) 64).1).kvNum
      (kvPlace weave 1) (bhLt (batch 1 - 2 ^ 96)) 32).1).trayN 1 ((dOpnd (psel 2 [opnd 0 0 0]) 0).addr % 2 ^ 21 +
      (ltSeq oneToken).start * (bhPage (batch 1 - 2 ^ 96) / 16)) (bhPage (batch 1 - 2 ^ 96) / 16)).drop (k * (bhDim
      (batch 1 - 2 ^ 96) * bhBytes (batch 1 - 2 ^ 96)))).take (bhDim (batch 1 - 2 ^ 96) * bhBytes (batch 1 - 2 ^
      96)))) (below (2 * bhHeads (batch 1 - 2 ^ 96)))).1, ltSeq oneToken, [(), ()], (((((((stepped (psel 2 [opnd 0 0
      0]) (batch 1 - 2 ^ 96) oneToken).kvNum (kvPlace weave 1) (psTable (psel 2 [opnd 0 0 0])) 64).1).kvNum (kvPlace
      weave 1) (psTable (psel 2 [opnd 0 0 0]) + 64) 64).1).kvNum (kvPlace weave 1) (bhLt (batch 1 - 2 ^ 96))
      32).1).trayN 1 ((dOpnd (psel 2 [opnd 0 0 0]) 0).addr % 2 ^ 21 + (ltSeq oneToken).start * (bhPage (batch 1 - 2
      ^ 96) / 16)) (bhPage (batch 1 - 2 ^ 96) / 16), ?_, ?_, ?_, ?_, pair_eq (by decide +kernel), ?_, ?_, pair_eq
      (by decide +kernel), ?_, pair_eq (by decide +kernel), ?_, ?_, ?_, rfl, ?_, ?_, ?_, ?_, ?_, rfl, pair_eq
      (by decide +kernel)⟩ <;> decide +kernel⟩

theorem met_descriptorsDoTheirWork_15 :
    (∃ (s : State) (v : State) (a : State) (st : Nat) (idx : Nat) (w : Nat) (h : Nat) (e : Nat) (x : StakeSt) (wv :
      Weave) (d : DescRun) (b : State) (l : Nat) (b1 : State) (b2 : State) (q : AtSeq) (row : List (Option Nat))
      (bnd : List Nat) (wr : Wr), (wv.launch = true ∨ ∀ j, j < 4 → s.heldBack wv.ctx j = false) ∧ w = d.words ∧
      s.descReady st idx 0x0F = some (x, wv, d) ∧ pselMalformed w = false ∧ s.kvNum (kvPlace wv st) (psTable w) 64 =
      (v, .ok h) ∧ v.pselBad w h = false ∧ bhCount h = 1 ∧ v.kvNum (kvPlace wv st) (psTable w + 64) 64 = (a, .ok e)
      ∧ psTable w + 128 ≤ 2 ^ 48 ∧ a.kvNum (kvPlace wv st) (bhLt h) 32 = (b, .ok l) ∧ ltBad l = false ∧ psKind w = 3
      ∧ ltStatus l = 0 ∧ q = ltSeq l ∧ q.qlen = 1 ∧ d4 w = 1 ∧ (dOpnd w 0).space ≠ 3 ∧ b.opWords st (dFmtA w)
      (placeOf wv st 0 (dOpnd w 0)) (dOpnd w 0) (atRowOff wv w 0 q 0 0) = (b1, .ok row) ∧ b1.each (fun t kb =>
      t.blockBound (kvPlace wv st) w h e q.kv [row.map (fun y => y.getD 0)] kb) (below q.blocks) = (b2, .ok bnd) ∧
      (dOpnd w 2).addr + q.mapBits / 8 ≤ 2 ^ 48 ∧ wr = b2.vwrite (stakeRq wv st) (dOpnd w 2).addr (natLe (q.mapBits
      / 8) ((admitted w bnd).map (fun kb => 2 ^ kb)).sum) ∧ wr.st = 0) ∧ (∃ (s : State) (v : State) (u : State) (t :
      State) (st : Nat) (idx : Nat) (w : Nat) (x : StakeSt) (wv : Weave) (d : DescRun) (o : CollOp) (us : List Nat),
      (wv.launch = true ∨ ∀ j, j < 4 → s.heldBack wv.ctx j = false) ∧ w = d.words ∧ s.descReady st idx 0x02 = some
      (x, wv, d) ∧ mmrMalformed wv w = false ∧ s.fedOp wv.ctx w = some o ∧ s.mmrUnits o w = some us ∧ dFmtOut w =
      coFmt o.words ∧ (∀ k ∈ us, k ∉ o.ready) ∧ s.mmCore wv st w = (v, .ok ()) ∧ (v.noteSat wv st w).output wv st
      (bits w 808 11) d (isIntClass (dFmtA w)) (dN w) (dM w) ((v.noteSat wv st w).tileEls st (dAccFirst w) (dM w)
      (dN w)) = (u, .ok ()) ∧ u.markReady o us = (t, .ok ())) ∧ (∃ (s : State) (st : Nat) (idx : Nat) (a : Nat) (c :
      Nat) (n : Nat) (x : StakeSt) (wv : Weave) (d : DescRun), (wv.launch = true ∨ ∀ j, j < 4 → s.heldBack wv.ctx j
      = false) ∧ s.descReady st idx 0x0A = some (x, wv, d) ∧ moveMalformed wv d.words = false ∧ (dOpnd d.words
      0).space = 0 ∧ (dOpnd d.words 2).space = 0 ∧ a = (dOpnd d.words 0).addr % 2 ^ 21 ∧ c = (dOpnd d.words 2).addr
      % 2 ^ 21 ∧ n = mvLength d.words) :=
  ⟨by refine ⟨(stepped (psel 3 [opnd 0 0 0, opnd 2 1 0x62000, (128, 160), (1, 176), (1, 72), (1, 848)]) (batch 1)
      oneToken).setBytes 0x60040 (natLe 64 (0x61000 * 2 ^ 192)), (((stepped (psel 3 [opnd 0 0 0, opnd 2 1 0x62000,
      (128, 160), (1, 176), (1, 72), (1, 848)]) (batch 1) oneToken).setBytes 0x60040 (natLe 64 (0x61000 * 2 ^
      192))).kvNum (kvPlace weave 1) (psTable (psel 3 [opnd 0 0 0, opnd 2 1 0x62000, (128, 160), (1, 176), (1, 72),
      (1, 848)])) 64).1, (((((stepped (psel 3 [opnd 0 0 0, opnd 2 1 0x62000, (128, 160), (1, 176), (1, 72), (1,
      848)]) (batch 1) oneToken).setBytes 0x60040 (natLe 64 (0x61000 * 2 ^ 192))).kvNum (kvPlace weave 1) (psTable
      (psel 3 [opnd 0 0 0, opnd 2 1 0x62000, (128, 160), (1, 176), (1, 72), (1, 848)])) 64).1).kvNum (kvPlace weave
      1) (psTable (psel 3 [opnd 0 0 0, opnd 2 1 0x62000, (128, 160), (1, 176), (1, 72), (1, 848)]) + 64) 64).1, 1,
      5, psel 3 [opnd 0 0 0, opnd 2 1 0x62000, (128, 160), (1, 176), (1, 72), (1, 848)], batch 1, 0x61000 * 2 ^ 192,
      stk (psel 3 [opnd 0 0 0, opnd 2 1 0x62000, (128, 160), (1, 176), (1, 72), (1, 848)]) [] none none, weave, (⟨5,
      (psel 3 [opnd 0 0 0, opnd 2 1 0x62000, (128, 160), (1, 176), (1, 72), (1, 848)]), [], none⟩ : DescRun),
      (((((((stepped (psel 3 [opnd 0 0 0, opnd 2 1 0x62000, (128, 160), (1, 176), (1, 72), (1, 848)]) (batch 1)
      oneToken).setBytes 0x60040 (natLe 64 (0x61000 * 2 ^ 192))).kvNum (kvPlace weave 1) (psTable (psel 3 [opnd 0 0
      0, opnd 2 1 0x62000, (128, 160), (1, 176), (1, 72), (1, 848)])) 64).1).kvNum (kvPlace weave 1) (psTable (psel
      3 [opnd 0 0 0, opnd 2 1 0x62000, (128, 160), (1, 176), (1, 72), (1, 848)]) + 64) 64).1).kvNum (kvPlace weave
      1) (bhLt (batch 1)) 32).1, oneToken, (((((((((stepped (psel 3 [opnd 0 0 0, opnd 2 1 0x62000, (128, 160), (1,
      176), (1, 72), (1, 848)]) (batch 1) oneToken).setBytes 0x60040 (natLe 64 (0x61000 * 2 ^ 192))).kvNum (kvPlace
      weave 1) (psTable (psel 3 [opnd 0 0 0, opnd 2 1 0x62000, (128, 160), (1, 176), (1, 72), (1, 848)]))
      64).1).kvNum (kvPlace weave 1) (psTable (psel 3 [opnd 0 0 0, opnd 2 1 0x62000, (128, 160), (1, 176), (1, 72),
      (1, 848)]) + 64) 64).1).kvNum (kvPlace weave 1) (bhLt (batch 1)) 32).1).opWords 1 (dFmtA (psel 3 [opnd 0 0 0,
      opnd 2 1 0x62000, (128, 160), (1, 176), (1, 72), (1, 848)])) (placeOf weave 1 0 (dOpnd (psel 3 [opnd 0 0 0,
      opnd 2 1 0x62000, (128, 160), (1, 176), (1, 72), (1, 848)]) 0)) (dOpnd (psel 3 [opnd 0 0 0, opnd 2 1 0x62000,
      (128, 160), (1, 176), (1, 72), (1, 848)]) 0) (atRowOff weave (psel 3 [opnd 0 0 0, opnd 2 1 0x62000, (128,
      160), (1, 176), (1, 72), (1, 848)]) 0 (ltSeq oneToken) 0 0)).1, (((((((((((stepped (psel 3 [opnd 0 0 0, opnd 2
      1 0x62000, (128, 160), (1, 176), (1, 72), (1, 848)]) (batch 1) oneToken).setBytes 0x60040 (natLe 64 (0x61000 *
      2 ^ 192))).kvNum (kvPlace weave 1) (psTable (psel 3 [opnd 0 0 0, opnd 2 1 0x62000, (128, 160), (1, 176), (1,
      72), (1, 848)])) 64).1).kvNum (kvPlace weave 1) (psTable (psel 3 [opnd 0 0 0, opnd 2 1 0x62000, (128, 160),
      (1, 176), (1, 72), (1, 848)]) + 64) 64).1).kvNum (kvPlace weave 1) (bhLt (batch 1)) 32).1).opWords 1 (dFmtA
      (psel 3 [opnd 0 0 0, opnd 2 1 0x62000, (128, 160), (1, 176), (1, 72), (1, 848)])) (placeOf weave 1 0 (dOpnd
      (psel 3 [opnd 0 0 0, opnd 2 1 0x62000, (128, 160), (1, 176), (1, 72), (1, 848)]) 0)) (dOpnd (psel 3 [opnd 0 0
      0, opnd 2 1 0x62000, (128, 160), (1, 176), (1, 72), (1, 848)]) 0) (atRowOff weave (psel 3 [opnd 0 0 0, opnd 2
      1 0x62000, (128, 160), (1, 176), (1, 72), (1, 848)]) 0 (ltSeq oneToken) 0 0)).1).each (fun t kb =>
      t.blockBound (kvPlace weave 1) (psel 3 [opnd 0 0 0, opnd 2 1 0x62000, (128, 160), (1, 176), (1, 72), (1,
      848)]) (batch 1) (0x61000 * 2 ^ 192) (ltSeq oneToken).kv [(okOf (((((((((stepped (psel 3 [opnd 0 0 0, opnd 2 1
      0x62000, (128, 160), (1, 176), (1, 72), (1, 848)]) (batch 1) oneToken).setBytes 0x60040 (natLe 64 (0x61000 * 2
      ^ 192))).kvNum (kvPlace weave 1) (psTable (psel 3 [opnd 0 0 0, opnd 2 1 0x62000, (128, 160), (1, 176), (1,
      72), (1, 848)])) 64).1).kvNum (kvPlace weave 1) (psTable (psel 3 [opnd 0 0 0, opnd 2 1 0x62000, (128, 160),
      (1, 176), (1, 72), (1, 848)]) + 64) 64).1).kvNum (kvPlace weave 1) (bhLt (batch 1)) 32).1).opWords 1 (dFmtA
      (psel 3 [opnd 0 0 0, opnd 2 1 0x62000, (128, 160), (1, 176), (1, 72), (1, 848)])) (placeOf weave 1 0 (dOpnd
      (psel 3 [opnd 0 0 0, opnd 2 1 0x62000, (128, 160), (1, 176), (1, 72), (1, 848)]) 0)) (dOpnd (psel 3 [opnd 0 0
      0, opnd 2 1 0x62000, (128, 160), (1, 176), (1, 72), (1, 848)]) 0) (atRowOff weave (psel 3 [opnd 0 0 0, opnd 2
      1 0x62000, (128, 160), (1, 176), (1, 72), (1, 848)]) 0 (ltSeq oneToken) 0 0))).map (fun y => y.getD 0)] kb)
      (below (ltSeq oneToken).blocks)).1, ltSeq oneToken, okOf (((((((((stepped (psel 3 [opnd 0 0 0, opnd 2 1
      0x62000, (128, 160), (1, 176), (1, 72), (1, 848)]) (batch 1) oneToken).setBytes 0x60040 (natLe 64 (0x61000 * 2
      ^ 192))).kvNum (kvPlace weave 1) (psTable (psel 3 [opnd 0 0 0, opnd 2 1 0x62000, (128, 160), (1, 176), (1,
      72), (1, 848)])) 64).1).kvNum (kvPlace weave 1) (psTable (psel 3 [opnd 0 0 0, opnd 2 1 0x62000, (128, 160),
      (1, 176), (1, 72), (1, 848)]) + 64) 64).1).kvNum (kvPlace weave 1) (bhLt (batch 1)) 32).1).opWords 1 (dFmtA
      (psel 3 [opnd 0 0 0, opnd 2 1 0x62000, (128, 160), (1, 176), (1, 72), (1, 848)])) (placeOf weave 1 0 (dOpnd
      (psel 3 [opnd 0 0 0, opnd 2 1 0x62000, (128, 160), (1, 176), (1, 72), (1, 848)]) 0)) (dOpnd (psel 3 [opnd 0 0
      0, opnd 2 1 0x62000, (128, 160), (1, 176), (1, 72), (1, 848)]) 0) (atRowOff weave (psel 3 [opnd 0 0 0, opnd 2
      1 0x62000, (128, 160), (1, 176), (1, 72), (1, 848)]) 0 (ltSeq oneToken) 0 0)), okOf (((((((((((stepped (psel 3
      [opnd 0 0 0, opnd 2 1 0x62000, (128, 160), (1, 176), (1, 72), (1, 848)]) (batch 1) oneToken).setBytes 0x60040
      (natLe 64 (0x61000 * 2 ^ 192))).kvNum (kvPlace weave 1) (psTable (psel 3 [opnd 0 0 0, opnd 2 1 0x62000, (128,
      160), (1, 176), (1, 72), (1, 848)])) 64).1).kvNum (kvPlace weave 1) (psTable (psel 3 [opnd 0 0 0, opnd 2 1
      0x62000, (128, 160), (1, 176), (1, 72), (1, 848)]) + 64) 64).1).kvNum (kvPlace weave 1) (bhLt (batch 1))
      32).1).opWords 1 (dFmtA (psel 3 [opnd 0 0 0, opnd 2 1 0x62000, (128, 160), (1, 176), (1, 72), (1, 848)]))
      (placeOf weave 1 0 (dOpnd (psel 3 [opnd 0 0 0, opnd 2 1 0x62000, (128, 160), (1, 176), (1, 72), (1, 848)]) 0))
      (dOpnd (psel 3 [opnd 0 0 0, opnd 2 1 0x62000, (128, 160), (1, 176), (1, 72), (1, 848)]) 0) (atRowOff weave
      (psel 3 [opnd 0 0 0, opnd 2 1 0x62000, (128, 160), (1, 176), (1, 72), (1, 848)]) 0 (ltSeq oneToken) 0
      0)).1).each (fun t kb => t.blockBound (kvPlace weave 1) (psel 3 [opnd 0 0 0, opnd 2 1 0x62000, (128, 160), (1,
      176), (1, 72), (1, 848)]) (batch 1) (0x61000 * 2 ^ 192) (ltSeq oneToken).kv [(okOf (((((((((stepped (psel 3
      [opnd 0 0 0, opnd 2 1 0x62000, (128, 160), (1, 176), (1, 72), (1, 848)]) (batch 1) oneToken).setBytes 0x60040
      (natLe 64 (0x61000 * 2 ^ 192))).kvNum (kvPlace weave 1) (psTable (psel 3 [opnd 0 0 0, opnd 2 1 0x62000, (128,
      160), (1, 176), (1, 72), (1, 848)])) 64).1).kvNum (kvPlace weave 1) (psTable (psel 3 [opnd 0 0 0, opnd 2 1
      0x62000, (128, 160), (1, 176), (1, 72), (1, 848)]) + 64) 64).1).kvNum (kvPlace weave 1) (bhLt (batch 1))
      32).1).opWords 1 (dFmtA (psel 3 [opnd 0 0 0, opnd 2 1 0x62000, (128, 160), (1, 176), (1, 72), (1, 848)]))
      (placeOf weave 1 0 (dOpnd (psel 3 [opnd 0 0 0, opnd 2 1 0x62000, (128, 160), (1, 176), (1, 72), (1, 848)]) 0))
      (dOpnd (psel 3 [opnd 0 0 0, opnd 2 1 0x62000, (128, 160), (1, 176), (1, 72), (1, 848)]) 0) (atRowOff weave
      (psel 3 [opnd 0 0 0, opnd 2 1 0x62000, (128, 160), (1, 176), (1, 72), (1, 848)]) 0 (ltSeq oneToken) 0 0))).map
      (fun y => y.getD 0)] kb) (below (ltSeq oneToken).blocks)), ((((((((((((stepped (psel 3 [opnd 0 0 0, opnd 2 1
      0x62000, (128, 160), (1, 176), (1, 72), (1, 848)]) (batch 1) oneToken).setBytes 0x60040 (natLe 64 (0x61000 * 2
      ^ 192))).kvNum (kvPlace weave 1) (psTable (psel 3 [opnd 0 0 0, opnd 2 1 0x62000, (128, 160), (1, 176), (1,
      72), (1, 848)])) 64).1).kvNum (kvPlace weave 1) (psTable (psel 3 [opnd 0 0 0, opnd 2 1 0x62000, (128, 160),
      (1, 176), (1, 72), (1, 848)]) + 64) 64).1).kvNum (kvPlace weave 1) (bhLt (batch 1)) 32).1).opWords 1 (dFmtA
      (psel 3 [opnd 0 0 0, opnd 2 1 0x62000, (128, 160), (1, 176), (1, 72), (1, 848)])) (placeOf weave 1 0 (dOpnd
      (psel 3 [opnd 0 0 0, opnd 2 1 0x62000, (128, 160), (1, 176), (1, 72), (1, 848)]) 0)) (dOpnd (psel 3 [opnd 0 0
      0, opnd 2 1 0x62000, (128, 160), (1, 176), (1, 72), (1, 848)]) 0) (atRowOff weave (psel 3 [opnd 0 0 0, opnd 2
      1 0x62000, (128, 160), (1, 176), (1, 72), (1, 848)]) 0 (ltSeq oneToken) 0 0)).1).each (fun t kb =>
      t.blockBound (kvPlace weave 1) (psel 3 [opnd 0 0 0, opnd 2 1 0x62000, (128, 160), (1, 176), (1, 72), (1,
      848)]) (batch 1) (0x61000 * 2 ^ 192) (ltSeq oneToken).kv [(okOf (((((((((stepped (psel 3 [opnd 0 0 0, opnd 2 1
      0x62000, (128, 160), (1, 176), (1, 72), (1, 848)]) (batch 1) oneToken).setBytes 0x60040 (natLe 64 (0x61000 * 2
      ^ 192))).kvNum (kvPlace weave 1) (psTable (psel 3 [opnd 0 0 0, opnd 2 1 0x62000, (128, 160), (1, 176), (1,
      72), (1, 848)])) 64).1).kvNum (kvPlace weave 1) (psTable (psel 3 [opnd 0 0 0, opnd 2 1 0x62000, (128, 160),
      (1, 176), (1, 72), (1, 848)]) + 64) 64).1).kvNum (kvPlace weave 1) (bhLt (batch 1)) 32).1).opWords 1 (dFmtA
      (psel 3 [opnd 0 0 0, opnd 2 1 0x62000, (128, 160), (1, 176), (1, 72), (1, 848)])) (placeOf weave 1 0 (dOpnd
      (psel 3 [opnd 0 0 0, opnd 2 1 0x62000, (128, 160), (1, 176), (1, 72), (1, 848)]) 0)) (dOpnd (psel 3 [opnd 0 0
      0, opnd 2 1 0x62000, (128, 160), (1, 176), (1, 72), (1, 848)]) 0) (atRowOff weave (psel 3 [opnd 0 0 0, opnd 2
      1 0x62000, (128, 160), (1, 176), (1, 72), (1, 848)]) 0 (ltSeq oneToken) 0 0))).map (fun y => y.getD 0)] kb)
      (below (ltSeq oneToken).blocks)).1).vwrite (stakeRq weave 1) (dOpnd (psel 3 [opnd 0 0 0, opnd 2 1 0x62000,
      (128, 160), (1, 176), (1, 72), (1, 848)]) 2).addr (natLe ((ltSeq oneToken).mapBits / 8) ((admitted (psel 3
      [opnd 0 0 0, opnd 2 1 0x62000, (128, 160), (1, 176), (1, 72), (1, 848)]) (okOf (((((((((((stepped (psel 3
      [opnd 0 0 0, opnd 2 1 0x62000, (128, 160), (1, 176), (1, 72), (1, 848)]) (batch 1) oneToken).setBytes 0x60040
      (natLe 64 (0x61000 * 2 ^ 192))).kvNum (kvPlace weave 1) (psTable (psel 3 [opnd 0 0 0, opnd 2 1 0x62000, (128,
      160), (1, 176), (1, 72), (1, 848)])) 64).1).kvNum (kvPlace weave 1) (psTable (psel 3 [opnd 0 0 0, opnd 2 1
      0x62000, (128, 160), (1, 176), (1, 72), (1, 848)]) + 64) 64).1).kvNum (kvPlace weave 1) (bhLt (batch 1))
      32).1).opWords 1 (dFmtA (psel 3 [opnd 0 0 0, opnd 2 1 0x62000, (128, 160), (1, 176), (1, 72), (1, 848)]))
      (placeOf weave 1 0 (dOpnd (psel 3 [opnd 0 0 0, opnd 2 1 0x62000, (128, 160), (1, 176), (1, 72), (1, 848)]) 0))
      (dOpnd (psel 3 [opnd 0 0 0, opnd 2 1 0x62000, (128, 160), (1, 176), (1, 72), (1, 848)]) 0) (atRowOff weave
      (psel 3 [opnd 0 0 0, opnd 2 1 0x62000, (128, 160), (1, 176), (1, 72), (1, 848)]) 0 (ltSeq oneToken) 0
      0)).1).each (fun t kb => t.blockBound (kvPlace weave 1) (psel 3 [opnd 0 0 0, opnd 2 1 0x62000, (128, 160), (1,
      176), (1, 72), (1, 848)]) (batch 1) (0x61000 * 2 ^ 192) (ltSeq oneToken).kv [(okOf (((((((((stepped (psel 3
      [opnd 0 0 0, opnd 2 1 0x62000, (128, 160), (1, 176), (1, 72), (1, 848)]) (batch 1) oneToken).setBytes 0x60040
      (natLe 64 (0x61000 * 2 ^ 192))).kvNum (kvPlace weave 1) (psTable (psel 3 [opnd 0 0 0, opnd 2 1 0x62000, (128,
      160), (1, 176), (1, 72), (1, 848)])) 64).1).kvNum (kvPlace weave 1) (psTable (psel 3 [opnd 0 0 0, opnd 2 1
      0x62000, (128, 160), (1, 176), (1, 72), (1, 848)]) + 64) 64).1).kvNum (kvPlace weave 1) (bhLt (batch 1))
      32).1).opWords 1 (dFmtA (psel 3 [opnd 0 0 0, opnd 2 1 0x62000, (128, 160), (1, 176), (1, 72), (1, 848)]))
      (placeOf weave 1 0 (dOpnd (psel 3 [opnd 0 0 0, opnd 2 1 0x62000, (128, 160), (1, 176), (1, 72), (1, 848)]) 0))
      (dOpnd (psel 3 [opnd 0 0 0, opnd 2 1 0x62000, (128, 160), (1, 176), (1, 72), (1, 848)]) 0) (atRowOff weave
      (psel 3 [opnd 0 0 0, opnd 2 1 0x62000, (128, 160), (1, 176), (1, 72), (1, 848)]) 0 (ltSeq oneToken) 0 0))).map
      (fun y => y.getD 0)] kb) (below (ltSeq oneToken).blocks)))).map (fun kb => 2 ^ kb)).sum), ?_, ?_, ?_, ?_,
      pair_eq (by decide +kernel), ?_, ?_, pair_eq (by decide +kernel), ?_, pair_eq (by decide +kernel), ?_, ?_, ?_,
      rfl, ?_, ?_, ?_, pair_eq (by decide +kernel), pair_eq (by decide +kernel), ?_, rfl, ?_⟩ <;> decide +kernel,
  by refine ⟨fedState, (fedState.mmCore weave 1 mmrW).1, ((((fedState.mmCore weave 1 mmrW).1).noteSat weave 1
      mmrW).output weave 1 (bits mmrW 808 11) (⟨5, mmrW, [], none⟩ : DescRun) (isIntClass (dFmtA mmrW)) (dN mmrW)
      (dM mmrW) ((((fedState.mmCore weave 1 mmrW).1).noteSat weave 1 mmrW).tileEls 1 (dAccFirst mmrW) (dM mmrW) (dN
      mmrW))).1, ((((((fedState.mmCore weave 1 mmrW).1).noteSat weave 1 mmrW).output weave 1 (bits mmrW 808 11) (⟨5,
      mmrW, [], none⟩ : DescRun) (isIntClass (dFmtA mmrW)) (dN mmrW) (dM mmrW) ((((fedState.mmCore weave 1
      mmrW).1).noteSat weave 1 mmrW).tileEls 1 (dAccFirst mmrW) (dM mmrW) (dN mmrW))).1).markReady ((fedState.fedOp
      weave.ctx mmrW).getD (collOp 0 0 [])) ((fedState.mmrUnits ((fedState.fedOp weave.ctx mmrW).getD (collOp 0 0
      [])) mmrW).getD [])).1, 1, 5, mmrW, stk mmrW [] none none, weave, (⟨5, mmrW, [], none⟩ : DescRun),
      (fedState.fedOp weave.ctx mmrW).getD (collOp 0 0 []), (fedState.mmrUnits ((fedState.fedOp weave.ctx mmrW).getD
      (collOp 0 0 [])) mmrW).getD [], ?_, ?_, ?_, ?_, ?_, ?_, ?_, ?_, pair_eq (by decide +kernel), pair_eq
      (by decide +kernel), pair_eq (by decide +kernel)⟩ <;> decide +kernel,
  ⟨((works (desc 0x0A [opnd 0 0 0, opnd 2 0 4, (64, 768)])).setTray 1 0 7).setTray 1 63 9, 1, 5, 0, 4, 64, stk (desc
      0x0A [opnd 0 0 0, opnd 2 0 4, (64, 768)]) [] none none, weave, (⟨5, desc 0x0A [opnd 0 0 0, opnd 2 0 4, (64,
      768)], [], none⟩ : DescRun), by decide +kernel⟩⟩

theorem met_vprogLoadsItsProgram :
    (∃ (s : State) (st : Nat) (idx : Nat) (x : StakeSt) (wv : Weave) (d : DescRun), s.descReady st idx 0x09 = some (x,
      wv, d) ∧ x.vp = none ∧ vprogMalformed d.words = true) ∧ (∃ (s : State) (st : Nat) (idx : Nat) (x : StakeSt)
      (wv : Weave) (d : DescRun) (i : Nat), s.descReady st idx 0x09 = some (x, wv, d) ∧ x.vp = none ∧ vprogMalformed
      d.words = false ∧ i = leNat (s.trayN st (bits d.words 768 21) 4) ∧ (iReserved (iOp i)).isSome = true) :=
  ⟨⟨works (desc 0x09 [(trayBytes - 4, 768), (1, 800), (1, 72), (1, 80), (1, 88)]), 1, 5, stk (desc 0x09 [(trayBytes -
      4, 768), (1, 800), (1, 72), (1, 80), (1, 88)]) [] none none, weave, (⟨5, desc 0x09 [(trayBytes - 4, 768), (1,
      800), (1, 72), (1, 80), (1, 88)], [], none⟩ : DescRun), by decide +kernel⟩,
  ⟨(works (desc 0x09 [opnd 1 0 640, (trayBytes - 4, 768), (77, 832), (2 ^ 32 - 1, 928), (1, 72), (1, 80), (1,
      88)])).setTrayN 1 (trayBytes - 4) (natLe 4 0x3F), 1, 5, stk (desc 0x09 [opnd 1 0 640, (trayBytes - 4, 768),
      (77, 832), (2 ^ 32 - 1, 928), (1, 72), (1, 80), (1, 88)]) [] none none, weave, (⟨5, desc 0x09 [opnd 1 0 640,
      (trayBytes - 4, 768), (77, 832), (2 ^ 32 - 1, 928), (1, 72), (1, 80), (1, 88)], [], none⟩ : DescRun), 0x3F,
      by decide +kernel⟩⟩

theorem met_vectorInstructionsComputeLanes :
    (∃ (s : State) (st : Nat) (i : Nat) (x : StakeSt) (wv : Weave) (d : DescRun) (p : VprogSt) (q : VprogSt) (e : Instr
      × Nat × (Nat → Nat → Nat → Nat)), smGet s.stakes st = some x ∧ s.weaveOf st = some wv ∧ x.vp = some p ∧
      p.prog[p.pc]? = some i ∧ x.desc p.idx = some d ∧ p.steps < vpLimit ∧ q =
      { p with pc := p.pc + 1, steps := p.steps + 1 } ∧ (e ∈ ([(Instr.vadd st, 0x01, fun a b _ => fadd a b), (.vsub
      st, 0x02, fun a b _ => fsub a b), (.vmul st, 0x03, fun a b _ => fmul a b), (.vfma st, 0x04, fun a b c => ffma
      a b c), (.vmax st, 0x05, fun a b _ => fmax a b), (.vmin st, 0x06, fun a b _ => fmin a b), (.vabs st, 0x07, fun
      a _ _ => toF32 (f32 a).abs), (.vneg st, 0x08, fun a _ _ => toF32 (f32 a).neg), (.vcmplt st, 0x09, fun a b _ =>
      if (f32 a).lt (f32 b) then 0xFFFFFFFF else 0), (.vcmpeq st, 0x0A, fun a b _ => if (f32 a).eqv (f32 b) then
      0xFFFFFFFF else 0), (.vsel st, 0x0B, fun a b c => if c = 0 then b else a), (.vand st, 0x0C, fun a b _ =>
      Nat.land a b), (.vor st, 0x0D, fun a b _ => Nat.lor a b), (.vxor st, 0x0E, fun a b _ => Nat.xor a b), (.viadd
      st, 0x0F, fun a b _ => (a + b) % 2 ^ 32), (.vshl st, 0x10, fun a b _ => a * 2 ^ (b % 32) % 2 ^ 32), (.vshr st,
      0x11, fun a b _ => a / 2 ^ (b % 32)), (.vcvti st, 0x12, fun a _ _ => toF32 (Num.ofInt (toSigned 32 a))),
      (.vcvtf st, 0x13, fun a _ _ => intConv .even 32 (f32 a)), (.vexp2 st, 0x15, fun a _ _ => exp2Path a)] : List
      (Instr × Nat × (Nat → Nat → Nat → Nat)))) ∧ iOp i = e.2.1 ∧ bits i 26 6 = 0) ∧ (∃ (s : State) (st : Nat) (i :
      Nat) (x : StakeSt) (wv : Weave) (d : DescRun) (p : VprogSt) (q : VprogSt) (e : Instr × Nat × (Nat → Nat →
      Nat)), smGet s.stakes st = some x ∧ s.weaveOf st = some wv ∧ x.vp = some p ∧ p.prog[p.pc]? = some i ∧ x.desc
      p.idx = some d ∧ p.steps < vpLimit ∧ q = { p with pc := p.pc + 1, steps := p.steps + 1 } ∧ (e ∈ ([(Instr.vrsum
      st, 0x18, fadd), (.vrmax st, 0x19, fmax)] : List (Instr × Nat × (Nat → Nat → Nat)))) ∧ iOp i = e.2.1 ∧ bits i
      26 6 = 0) ∧ (∃ (s : State) (st : Nat) (i : Nat) (x : StakeSt) (wv : Weave) (d : DescRun) (p : VprogSt) (q :
      VprogSt), smGet s.stakes st = some x ∧ s.weaveOf st = some wv ∧ x.vp = some p ∧ p.prog[p.pc]? = some i ∧
      x.desc p.idx = some d ∧ p.steps < vpLimit ∧ q = { p with pc := p.pc + 1, steps := p.steps + 1 } ∧ iOp i = 0x17
      ∧ bits i 26 6 = 0) ∧ (∃ (s : State) (st : Nat) (i : Nat) (x : StakeSt) (wv : Weave) (d : DescRun) (p :
      VprogSt) (q : VprogSt), smGet s.stakes st = some x ∧ s.weaveOf st = some wv ∧ x.vp = some p ∧ p.prog[p.pc]? =
      some i ∧ x.desc p.idx = some d ∧ p.steps < vpLimit ∧ q = { p with pc := p.pc + 1, steps := p.steps + 1 } ∧ iOp
      i = 0x16 ∧ bits i 26 6 = 0 ∧ iA i ≤ 15) ∧ (∃ (s : State) (st : Nat) (i : Nat) (x : StakeSt) (wv : Weave) (d :
      DescRun) (p : VprogSt) (q : VprogSt), smGet s.stakes st = some x ∧ s.weaveOf st = some wv ∧ x.vp = some p ∧
      p.prog[p.pc]? = some i ∧ x.desc p.idx = some d ∧ p.steps < vpLimit ∧ q =
      { p with pc := p.pc + 1, steps := p.steps + 1 } ∧ iOp i = 0x1A ∧ bits i 26 6 = 0 ∧ iD i ≤ 15 ∧ iB i ≤ 15 ∧
      (p.v (iA i)).length = 128) ∧ (∃ (s : State) (st : Nat) (i : Nat) (x : StakeSt) (wv : Weave) (d : DescRun) (p :
      VprogSt) (q : VprogSt) (k : Nat), smGet s.stakes st = some x ∧ s.weaveOf st = some wv ∧ x.vp = some p ∧
      p.prog[p.pc]? = some i ∧ x.desc p.idx = some d ∧ p.steps < vpLimit ∧ q =
      { p with pc := p.pc + 1, steps := p.steps + 1 } ∧ iOp i = 0x14 ∧ bits i 24 8 = 0 ∧ d.binds.find? (fun b => b.1
      == bits i 16 8) = some (bits i 16 8, k)) :=
  ⟨by refine ⟨vps (vi 4 3 1 2 1), 1, (vi 4 3 1 2 1), stk vpd [(5, 7)] none (some (vp (vi 4 3 1 2 1))), weave, (⟨5, vpd,
      [(5, 7)], none⟩ : DescRun), vp (vi 4 3 1 2 1), { (vp (vi 4 3 1 2 1)) with pc := 1, steps := 8 }, (Instr.vfma
      1, 0x04, fun a b c => ffma a b c), ?_, ?_, ?_, ?_, ?_, ?_, ?_, by simp, ?_⟩ <;> decide +kernel,
  by refine ⟨vps (vi 0x18 3 1 2 1), 1, (vi 0x18 3 1 2 1), stk vpd [(5, 7)] none (some (vp (vi 0x18 3 1 2 1))), weave,
      (⟨5, vpd, [(5, 7)], none⟩ : DescRun), vp (vi 0x18 3 1 2 1),
      { (vp (vi 0x18 3 1 2 1)) with pc := 1, steps := 8 }, (Instr.vrsum 1, 0x18, fadd), ?_, ?_, ?_, ?_, ?_, ?_, ?_,
      by simp, ?_⟩ <;> decide +kernel,
  ⟨vps (vi 0x17 3 0 0 0), 1, (vi 0x17 3 0 0 0), stk vpd [(5, 7)] none (some (vp (vi 0x17 3 0 0 0))), weave, (⟨5, vpd,
      [(5, 7)], none⟩ : DescRun), vp (vi 0x17 3 0 0 0), { (vp (vi 0x17 3 0 0 0)) with pc := 1, steps := 8 },
      by decide +kernel⟩,
  ⟨vps (vi 0x16 3 2 0 0), 1, (vi 0x16 3 2 0 0), stk vpd [(5, 7)] none (some (vp (vi 0x16 3 2 0 0))), weave, (⟨5, vpd,
      [(5, 7)], none⟩ : DescRun), vp (vi 0x16 3 2 0 0), { (vp (vi 0x16 3 2 0 0)) with pc := 1, steps := 8 },
      by decide +kernel⟩,
  ⟨vps (vi 0x1A 15 1 2 0), 1, (vi 0x1A 15 1 2 0), stk vpd [(5, 7)] none (some (vp (vi 0x1A 15 1 2 0))), weave, (⟨5,
      vpd, [(5, 7)], none⟩ : DescRun), vp (vi 0x1A 15 1 2 0), { (vp (vi 0x1A 15 1 2 0)) with pc := 1, steps := 8 },
      by decide +kernel⟩,
  ⟨vps (vi 0x14 3 1 5 0), 1, (vi 0x14 3 1 5 0), stk vpd [(5, 7)] none (some (vp (vi 0x14 3 1 5 0))), weave, (⟨5, vpd,
      [(5, 7)], none⟩ : DescRun), vp (vi 0x14 3 1 5 0), { (vp (vi 0x14 3 1 5 0)) with pc := 1, steps := 8 }, 7,
      by decide +kernel⟩⟩

theorem met_vectorInstructionsComputeLanes_2 :
    (∃ (s : State) (st : Nat) (i : Nat) (x : StakeSt) (wv : Weave) (d : DescRun) (p : VprogSt) (q : VprogSt), smGet
      s.stakes st = some x ∧ s.weaveOf st = some wv ∧ x.vp = some p ∧ p.prog[p.pc]? = some i ∧ x.desc p.idx = some d
      ∧ p.steps < vpLimit ∧ q = { p with pc := p.pc + 1, steps := p.steps + 1 } ∧ iOp i = 0x14 ∧ bits i 24 8 = 0 ∧
      (∀ b ∈ d.binds, b.1 ≠ bits i 16 8)) ∧ (∃ (s : State) (st : Nat) (i : Nat) (x : StakeSt) (wv : Weave) (d :
      DescRun) (p : VprogSt) (q : VprogSt), smGet s.stakes st = some x ∧ s.weaveOf st = some wv ∧ x.vp = some p ∧
      p.prog[p.pc]? = some i ∧ x.desc p.idx = some d ∧ p.steps < vpLimit ∧ q =
      { p with pc := p.pc + 1, steps := p.steps + 1 } ∧ iOp i = 0x01 ∧ bits i 26 6 ≠ 0) ∧ (∃ (s : State) (st : Nat)
      (i : Nat) (x : StakeSt) (wv : Weave) (d : DescRun) (p : VprogSt) (q : VprogSt), smGet s.stakes st = some x ∧
      s.weaveOf st = some wv ∧ x.vp = some p ∧ p.prog[p.pc]? = some i ∧ x.desc p.idx = some d ∧ p.steps < vpLimit ∧
      q = { p with pc := p.pc + 1, steps := p.steps + 1 }) :=
  ⟨⟨vps (vi 0x14 3 1 6 0), 1, (vi 0x14 3 1 6 0), stk vpd [(5, 7)] none (some (vp (vi 0x14 3 1 6 0))), weave, (⟨5, vpd,
      [(5, 7)], none⟩ : DescRun), vp (vi 0x14 3 1 6 0), { (vp (vi 0x14 3 1 6 0)) with pc := 1, steps := 8 },
      by decide +kernel⟩,
  ⟨vps (vi 0x01 3 1 2 0 + 2 ^ 26), 1, (vi 0x01 3 1 2 0 + 2 ^ 26), stk vpd [(5, 7)] none (some (vp (vi 0x01 3 1 2 0 + 2
      ^ 26))), weave, (⟨5, vpd, [(5, 7)], none⟩ : DescRun), vp (vi 0x01 3 1 2 0 + 2 ^ 26),
      { (vp (vi 0x01 3 1 2 0 + 2 ^ 26)) with pc := 1, steps := 8 }, by decide +kernel⟩,
  ⟨vps (vi 0x17 3 0 0 0), 1, (vi 0x17 3 0 0 0), stk vpd [(5, 7)] none (some (vp (vi 0x17 3 0 0 0))), weave, (⟨5, vpd,
      [(5, 7)], none⟩ : DescRun), vp (vi 0x17 3 0 0 0), { (vp (vi 0x17 3 0 0 0)) with pc := 1, steps := 8 },
      by decide +kernel⟩⟩

theorem met_scalarLoadStoreAndBranchInstructions :
    (∃ (s : State) (st : Nat) (i : Nat) (x : StakeSt) (wv : Weave) (d : DescRun) (p : VprogSt) (q : VprogSt) (a : Nat),
      smGet s.stakes st = some x ∧ s.weaveOf st = some wv ∧ x.vp = some p ∧ p.prog[p.pc]? = some i ∧ x.desc p.idx =
      some d ∧ q = { p with pc := p.pc + 1, steps := p.steps + 1 } ∧ p.steps < vpLimit ∧ iOp i = 0x20 ∧ (bits i 15 2
      = 0 ∨ bits i 15 2 = 3) ∧ vmAddr q i = some a) ∧ (∃ (s : State) (st : Nat) (i : Nat) (x : StakeSt) (wv : Weave)
      (d : DescRun) (p : VprogSt) (q : VprogSt) (a : Nat), smGet s.stakes st = some x ∧ s.weaveOf st = some wv ∧
      x.vp = some p ∧ p.prog[p.pc]? = some i ∧ x.desc p.idx = some d ∧ q =
      { p with pc := p.pc + 1, steps := p.steps + 1 } ∧ p.steps < vpLimit ∧ iOp i = 0x20 ∧ (bits i 15 2 = 1 ∨ bits i
      15 2 = 2) ∧ vmAddr q i = some a) ∧ (∃ (s : State) (st : Nat) (i : Nat) (x : StakeSt) (wv : Weave) (d :
      DescRun) (p : VprogSt) (q : VprogSt) (a : Nat), smGet s.stakes st = some x ∧ s.weaveOf st = some wv ∧ x.vp =
      some p ∧ p.prog[p.pc]? = some i ∧ x.desc p.idx = some d ∧ q = { p with pc := p.pc + 1, steps := p.steps + 1 }
      ∧ p.steps < vpLimit ∧ iOp i = 0x21 ∧ bits i 15 2 = 3 ∧ vmAddr q i = some a) ∧ (∃ (s : State) (st : Nat) (i :
      Nat) (x : StakeSt) (wv : Weave) (d : DescRun) (p : VprogSt) (q : VprogSt) (a : Nat), smGet s.stakes st = some
      x ∧ s.weaveOf st = some wv ∧ x.vp = some p ∧ p.prog[p.pc]? = some i ∧ x.desc p.idx = some d ∧ q =
      { p with pc := p.pc + 1, steps := p.steps + 1 } ∧ p.steps < vpLimit ∧ iOp i = 0x21 ∧ bits i 15 2 = 0 ∧ vmAddr
      q i = some a) ∧ (∃ (s : State) (st : Nat) (i : Nat) (x : StakeSt) (wv : Weave) (d : DescRun) (p : VprogSt) (q
      : VprogSt) (a : Nat), smGet s.stakes st = some x ∧ s.weaveOf st = some wv ∧ x.vp = some p ∧ p.prog[p.pc]? =
      some i ∧ x.desc p.idx = some d ∧ q = { p with pc := p.pc + 1, steps := p.steps + 1 } ∧ p.steps < vpLimit ∧ iOp
      i = 0x21 ∧ (bits i 15 2 = 1 ∨ bits i 15 2 = 2) ∧ vmAddr q i = some a) ∧ (∃ (s : State) (st : Nat) (i : Nat) (x
      : StakeSt) (wv : Weave) (d : DescRun) (p : VprogSt) (q : VprogSt), smGet s.stakes st = some x ∧ s.weaveOf st =
      some wv ∧ x.vp = some p ∧ p.prog[p.pc]? = some i ∧ x.desc p.idx = some d ∧ q =
      { p with pc := p.pc + 1, steps := p.steps + 1 } ∧ p.steps < vpLimit ∧ iOp i = 0x20 ∧ vmAddr q i = none) :=
  ⟨⟨vps (0x20 + 1 * 2 ^ 6 + 2 * 2 ^ 11 + 3 * 2 ^ 15 + 2 * 2 ^ 17), 1, (0x20 + 1 * 2 ^ 6 + 2 * 2 ^ 11 + 3 * 2 ^ 15 + 2 *
      2 ^ 17), stk vpd [(5, 7)] none (some (vp (0x20 + 1 * 2 ^ 6 + 2 * 2 ^ 11 + 3 * 2 ^ 15 + 2 * 2 ^ 17))), weave,
      (⟨5, vpd, [(5, 7)], none⟩ : DescRun), vp (0x20 + 1 * 2 ^ 6 + 2 * 2 ^ 11 + 3 * 2 ^ 15 + 2 * 2 ^ 17),
      { (vp (0x20 + 1 * 2 ^ 6 + 2 * 2 ^ 11 + 3 * 2 ^ 15 + 2 * 2 ^ 17)) with pc := 1, steps := 8 }, 192,
      by decide +kernel⟩,
  ⟨vps (0x20 + 1 * 2 ^ 6 + 2 * 2 ^ 11 + 1 * 2 ^ 15 + 2 * 2 ^ 17), 1, (0x20 + 1 * 2 ^ 6 + 2 * 2 ^ 11 + 1 * 2 ^ 15 + 2 *
      2 ^ 17), stk vpd [(5, 7)] none (some (vp (0x20 + 1 * 2 ^ 6 + 2 * 2 ^ 11 + 1 * 2 ^ 15 + 2 * 2 ^ 17))), weave,
      (⟨5, vpd, [(5, 7)], none⟩ : DescRun), vp (0x20 + 1 * 2 ^ 6 + 2 * 2 ^ 11 + 1 * 2 ^ 15 + 2 * 2 ^ 17),
      { (vp (0x20 + 1 * 2 ^ 6 + 2 * 2 ^ 11 + 1 * 2 ^ 15 + 2 * 2 ^ 17)) with pc := 1, steps := 8 }, 192,
      by decide +kernel⟩,
  ⟨vps (0x21 + 1 * 2 ^ 6 + 2 * 2 ^ 11 + 3 * 2 ^ 15 + 2 * 2 ^ 17), 1, (0x21 + 1 * 2 ^ 6 + 2 * 2 ^ 11 + 3 * 2 ^ 15 + 2 *
      2 ^ 17), stk vpd [(5, 7)] none (some (vp (0x21 + 1 * 2 ^ 6 + 2 * 2 ^ 11 + 3 * 2 ^ 15 + 2 * 2 ^ 17))), weave,
      (⟨5, vpd, [(5, 7)], none⟩ : DescRun), vp (0x21 + 1 * 2 ^ 6 + 2 * 2 ^ 11 + 3 * 2 ^ 15 + 2 * 2 ^ 17),
      { (vp (0x21 + 1 * 2 ^ 6 + 2 * 2 ^ 11 + 3 * 2 ^ 15 + 2 * 2 ^ 17)) with pc := 1, steps := 8 }, 192,
      by decide +kernel⟩,
  ⟨vps (0x21 + 1 * 2 ^ 6 + 2 * 2 ^ 11 + 0 * 2 ^ 15 + 2 * 2 ^ 17), 1, (0x21 + 1 * 2 ^ 6 + 2 * 2 ^ 11 + 0 * 2 ^ 15 + 2 *
      2 ^ 17), stk vpd [(5, 7)] none (some (vp (0x21 + 1 * 2 ^ 6 + 2 * 2 ^ 11 + 0 * 2 ^ 15 + 2 * 2 ^ 17))), weave,
      (⟨5, vpd, [(5, 7)], none⟩ : DescRun), vp (0x21 + 1 * 2 ^ 6 + 2 * 2 ^ 11 + 0 * 2 ^ 15 + 2 * 2 ^ 17),
      { (vp (0x21 + 1 * 2 ^ 6 + 2 * 2 ^ 11 + 0 * 2 ^ 15 + 2 * 2 ^ 17)) with pc := 1, steps := 8 }, 192,
      by decide +kernel⟩,
  ⟨vps (0x21 + 1 * 2 ^ 6 + 2 * 2 ^ 11 + 2 * 2 ^ 15 + 2 * 2 ^ 17), 1, (0x21 + 1 * 2 ^ 6 + 2 * 2 ^ 11 + 2 * 2 ^ 15 + 2 *
      2 ^ 17), stk vpd [(5, 7)] none (some (vp (0x21 + 1 * 2 ^ 6 + 2 * 2 ^ 11 + 2 * 2 ^ 15 + 2 * 2 ^ 17))), weave,
      (⟨5, vpd, [(5, 7)], none⟩ : DescRun), vp (0x21 + 1 * 2 ^ 6 + 2 * 2 ^ 11 + 2 * 2 ^ 15 + 2 * 2 ^ 17),
      { (vp (0x21 + 1 * 2 ^ 6 + 2 * 2 ^ 11 + 2 * 2 ^ 15 + 2 * 2 ^ 17)) with pc := 1, steps := 8 }, 192,
      by decide +kernel⟩,
  ⟨vps (0x20 + 2 ^ 6 + 1 * 2 ^ 11), 1, (0x20 + 2 ^ 6 + 1 * 2 ^ 11), stk vpd [(5, 7)] none (some (vp (0x20 + 2 ^ 6 + 1
      * 2 ^ 11))), weave, (⟨5, vpd, [(5, 7)], none⟩ : DescRun), vp (0x20 + 2 ^ 6 + 1 * 2 ^ 11),
      { (vp (0x20 + 2 ^ 6 + 1 * 2 ^ 11)) with pc := 1, steps := 8 }, by decide +kernel⟩⟩

theorem met_scalarLoadStoreAndBranchInstructions_2 :
    (∃ (s : State) (st : Nat) (i : Nat) (x : StakeSt) (wv : Weave) (d : DescRun) (p : VprogSt) (q : VprogSt), smGet
      s.stakes st = some x ∧ s.weaveOf st = some wv ∧ x.vp = some p ∧ p.prog[p.pc]? = some i ∧ x.desc p.idx = some d
      ∧ q = { p with pc := p.pc + 1, steps := p.steps + 1 } ∧ p.steps < vpLimit ∧ iOp i = 0x22 ∧ bits i 17 15 = 0 ∧
      vaTileOk d i = true) ∧ (∃ (s : State) (st : Nat) (i : Nat) (x : StakeSt) (wv : Weave) (d : DescRun) (p :
      VprogSt) (q : VprogSt), smGet s.stakes st = some x ∧ s.weaveOf st = some wv ∧ x.vp = some p ∧ p.prog[p.pc]? =
      some i ∧ x.desc p.idx = some d ∧ q = { p with pc := p.pc + 1, steps := p.steps + 1 } ∧ p.steps < vpLimit ∧ iOp
      i = 0x23 ∧ bits i 17 15 = 0 ∧ vaTileOk d i = true) ∧ (∃ (s : State) (st : Nat) (i : Nat) (x : StakeSt) (wv :
      Weave) (d : DescRun) (p : VprogSt) (q : VprogSt), smGet s.stakes st = some x ∧ s.weaveOf st = some wv ∧ x.vp =
      some p ∧ p.prog[p.pc]? = some i ∧ x.desc p.idx = some d ∧ q = { p with pc := p.pc + 1, steps := p.steps + 1 }
      ∧ p.steps < vpLimit ∧ iOp i = 0x30 ∧ bits i 14 2 = 0) ∧ (∃ (s : State) (st : Nat) (i : Nat) (x : StakeSt) (wv
      : Weave) (d : DescRun) (p : VprogSt) (q : VprogSt), smGet s.stakes st = some x ∧ s.weaveOf st = some wv ∧ x.vp
      = some p ∧ p.prog[p.pc]? = some i ∧ x.desc p.idx = some d ∧ q =
      { p with pc := p.pc + 1, steps := p.steps + 1 } ∧ p.steps < vpLimit ∧ iOp i = 0x31 ∧ bits i 14 2 = 0) ∧ (∃ (s
      : State) (st : Nat) (i : Nat) (x : StakeSt) (wv : Weave) (d : DescRun) (p : VprogSt) (q : VprogSt), smGet
      s.stakes st = some x ∧ s.weaveOf st = some wv ∧ x.vp = some p ∧ p.prog[p.pc]? = some i ∧ x.desc p.idx = some d
      ∧ q = { p with pc := p.pc + 1, steps := p.steps + 1 } ∧ p.steps < vpLimit ∧ iOp i = 0x32 ∧ bits i 14 2 = 0) ∧
      (∃ (s : State) (st : Nat) (i : Nat) (x : StakeSt) (wv : Weave) (d : DescRun) (p : VprogSt) (q : VprogSt),
      smGet s.stakes st = some x ∧ s.weaveOf st = some wv ∧ x.vp = some p ∧ p.prog[p.pc]? = some i ∧ x.desc p.idx =
      some d ∧ q = { p with pc := p.pc + 1, steps := p.steps + 1 } ∧ p.steps < vpLimit ∧ iOp i = 0x33 ∧ bits i 18 14
      = 0) :=
  ⟨⟨vps (0x22 + 2 ^ 6 + 1 * 2 ^ 11 + 1 * 2 ^ 15), 1, (0x22 + 2 ^ 6 + 1 * 2 ^ 11 + 1 * 2 ^ 15), stk vpd [(5, 7)] none
      (some (vp (0x22 + 2 ^ 6 + 1 * 2 ^ 11 + 1 * 2 ^ 15))), weave, (⟨5, vpd, [(5, 7)], none⟩ : DescRun), vp (0x22 +
      2 ^ 6 + 1 * 2 ^ 11 + 1 * 2 ^ 15), { (vp (0x22 + 2 ^ 6 + 1 * 2 ^ 11 + 1 * 2 ^ 15)) with pc := 1, steps := 8 },
      by decide +kernel⟩,
  ⟨vps (0x23 + 2 ^ 6 + 1 * 2 ^ 11 + 2 * 2 ^ 15), 1, (0x23 + 2 ^ 6 + 1 * 2 ^ 11 + 2 * 2 ^ 15), stk vpd [(5, 7)] none
      (some (vp (0x23 + 2 ^ 6 + 1 * 2 ^ 11 + 2 * 2 ^ 15))), weave, (⟨5, vpd, [(5, 7)], none⟩ : DescRun), vp (0x23 +
      2 ^ 6 + 1 * 2 ^ 11 + 2 * 2 ^ 15), { (vp (0x23 + 2 ^ 6 + 1 * 2 ^ 11 + 2 * 2 ^ 15)) with pc := 1, steps := 8 },
      by decide +kernel⟩,
  ⟨vps (0x30 + 15 * 2 ^ 6 + 1 * 2 ^ 10 + 0xFFFF * 2 ^ 16), 1, (0x30 + 15 * 2 ^ 6 + 1 * 2 ^ 10 + 0xFFFF * 2 ^ 16), stk
      vpd [(5, 7)] none (some (vp (0x30 + 15 * 2 ^ 6 + 1 * 2 ^ 10 + 0xFFFF * 2 ^ 16))), weave, (⟨5, vpd, [(5, 7)],
      none⟩ : DescRun), vp (0x30 + 15 * 2 ^ 6 + 1 * 2 ^ 10 + 0xFFFF * 2 ^ 16),
      { (vp (0x30 + 15 * 2 ^ 6 + 1 * 2 ^ 10 + 0xFFFF * 2 ^ 16)) with pc := 1, steps := 8 }, by decide +kernel⟩,
  ⟨vps (0x31 + 0 * 2 ^ 6 + 0xFFFF * 2 ^ 16), 1, (0x31 + 0 * 2 ^ 6 + 0xFFFF * 2 ^ 16), stk vpd [(5, 7)] none (some (vp
      (0x31 + 0 * 2 ^ 6 + 0xFFFF * 2 ^ 16))), weave, (⟨5, vpd, [(5, 7)], none⟩ : DescRun), vp (0x31 + 0 * 2 ^ 6 +
      0xFFFF * 2 ^ 16), { (vp (0x31 + 0 * 2 ^ 6 + 0xFFFF * 2 ^ 16)) with pc := 1, steps := 8 }, by decide +kernel⟩,
  ⟨vps (0x32 + 4 * 2 ^ 6 + 1 * 2 ^ 10 + 0xFFFF * 2 ^ 16), 1, (0x32 + 4 * 2 ^ 6 + 1 * 2 ^ 10 + 0xFFFF * 2 ^ 16), stk
      vpd [(5, 7)] none (some (vp (0x32 + 4 * 2 ^ 6 + 1 * 2 ^ 10 + 0xFFFF * 2 ^ 16))), weave, (⟨5, vpd, [(5, 7)],
      none⟩ : DescRun), vp (0x32 + 4 * 2 ^ 6 + 1 * 2 ^ 10 + 0xFFFF * 2 ^ 16),
      { (vp (0x32 + 4 * 2 ^ 6 + 1 * 2 ^ 10 + 0xFFFF * 2 ^ 16)) with pc := 1, steps := 8 }, by decide +kernel⟩,
  ⟨vps (0x33 + 4 * 2 ^ 6 + 1 * 2 ^ 10 + 2 * 2 ^ 14), 1, (0x33 + 4 * 2 ^ 6 + 1 * 2 ^ 10 + 2 * 2 ^ 14), stk vpd [(5, 7)]
      none (some (vp (0x33 + 4 * 2 ^ 6 + 1 * 2 ^ 10 + 2 * 2 ^ 14))), weave, (⟨5, vpd, [(5, 7)], none⟩ : DescRun), vp
      (0x33 + 4 * 2 ^ 6 + 1 * 2 ^ 10 + 2 * 2 ^ 14),
      { (vp (0x33 + 4 * 2 ^ 6 + 1 * 2 ^ 10 + 2 * 2 ^ 14)) with pc := 1, steps := 8 }, by decide +kernel⟩⟩

theorem met_scalarLoadStoreAndBranchInstructions_3 :
    (∃ (s : State) (st : Nat) (i : Nat) (x : StakeSt) (wv : Weave) (d : DescRun) (p : VprogSt) (q : VprogSt), smGet
      s.stakes st = some x ∧ s.weaveOf st = some wv ∧ x.vp = some p ∧ p.prog[p.pc]? = some i ∧ x.desc p.idx = some d
      ∧ q = { p with pc := p.pc + 1, steps := p.steps + 1 } ∧ p.steps < vpLimit ∧ iOp i = 0x34 ∧ bits i 18 14 = 0) ∧
      (∃ (s : State) (st : Nat) (i : Nat) (x : StakeSt) (wv : Weave) (d : DescRun) (p : VprogSt) (q : VprogSt),
      smGet s.stakes st = some x ∧ s.weaveOf st = some wv ∧ x.vp = some p ∧ p.prog[p.pc]? = some i ∧ x.desc p.idx =
      some d ∧ q = { p with pc := p.pc + 1, steps := p.steps + 1 } ∧ p.steps < vpLimit ∧ iOp i = 0x38 ∧ bits i 14 2
      = 0 ∧ bits i 26 6 = 0 ∧ bits i 16 10 < p.prog.length) ∧ (∃ (s : State) (st : Nat) (i : Nat) (x : StakeSt) (wv
      : Weave) (d : DescRun) (p : VprogSt) (q : VprogSt), smGet s.stakes st = some x ∧ s.weaveOf st = some wv ∧ x.vp
      = some p ∧ p.prog[p.pc]? = some i ∧ x.desc p.idx = some d ∧ q =
      { p with pc := p.pc + 1, steps := p.steps + 1 } ∧ p.steps < vpLimit ∧ iOp i = 0x39 ∧ bits i 14 2 = 0 ∧ bits i
      26 6 = 0 ∧ bits i 16 10 < p.prog.length) ∧ (∃ (s : State) (st : Nat) (i : Nat) (x : StakeSt) (wv : Weave) (d :
      DescRun) (p : VprogSt) (q : VprogSt), smGet s.stakes st = some x ∧ s.weaveOf st = some wv ∧ x.vp = some p ∧
      p.prog[p.pc]? = some i ∧ x.desc p.idx = some d ∧ q = { p with pc := p.pc + 1, steps := p.steps + 1 } ∧ p.steps
      < vpLimit ∧ iOp i = 0x3A ∧ bits i 14 2 = 0 ∧ bits i 26 6 = 0 ∧ bits i 16 10 < p.prog.length) ∧ (∃ (s : State)
      (st : Nat) (i : Nat) (x : StakeSt) (wv : Weave) (d : DescRun) (p : VprogSt) (q : VprogSt), smGet s.stakes st =
      some x ∧ s.weaveOf st = some wv ∧ x.vp = some p ∧ p.prog[p.pc]? = some i ∧ x.desc p.idx = some d ∧ q =
      { p with pc := p.pc + 1, steps := p.steps + 1 } ∧ p.steps < vpLimit ∧ iOp i = 0x3A ∧ p.prog.length ≤ bits i 16
      10) ∧ (∃ (s : State) (st : Nat) (i : Nat) (x : StakeSt) (wv : Weave) (d : DescRun) (p : VprogSt) (q :
      VprogSt), smGet s.stakes st = some x ∧ s.weaveOf st = some wv ∧ x.vp = some p ∧ p.prog[p.pc]? = some i ∧
      x.desc p.idx = some d ∧ q = { p with pc := p.pc + 1, steps := p.steps + 1 } ∧ iOp i = 0x3F ∧ bits i 6 26 = 0) :=
  ⟨⟨vps (0x34 + 4 * 2 ^ 6 + 1 * 2 ^ 10 + 2 * 2 ^ 14), 1, (0x34 + 4 * 2 ^ 6 + 1 * 2 ^ 10 + 2 * 2 ^ 14), stk vpd [(5, 7)]
      none (some (vp (0x34 + 4 * 2 ^ 6 + 1 * 2 ^ 10 + 2 * 2 ^ 14))), weave, (⟨5, vpd, [(5, 7)], none⟩ : DescRun), vp
      (0x34 + 4 * 2 ^ 6 + 1 * 2 ^ 10 + 2 * 2 ^ 14),
      { (vp (0x34 + 4 * 2 ^ 6 + 1 * 2 ^ 10 + 2 * 2 ^ 14)) with pc := 1, steps := 8 }, by decide +kernel⟩,
  ⟨vps (0x38 + 1 * 2 ^ 6 + 3 * 2 ^ 10 + 1 * 2 ^ 16), 1, (0x38 + 1 * 2 ^ 6 + 3 * 2 ^ 10 + 1 * 2 ^ 16), stk vpd [(5, 7)]
      none (some (vp (0x38 + 1 * 2 ^ 6 + 3 * 2 ^ 10 + 1 * 2 ^ 16))), weave, (⟨5, vpd, [(5, 7)], none⟩ : DescRun), vp
      (0x38 + 1 * 2 ^ 6 + 3 * 2 ^ 10 + 1 * 2 ^ 16),
      { (vp (0x38 + 1 * 2 ^ 6 + 3 * 2 ^ 10 + 1 * 2 ^ 16)) with pc := 1, steps := 8 }, by decide +kernel⟩,
  ⟨vps (0x39 + 1 * 2 ^ 6 + 2 * 2 ^ 10 + 0 * 2 ^ 16), 1, (0x39 + 1 * 2 ^ 6 + 2 * 2 ^ 10 + 0 * 2 ^ 16), stk vpd [(5, 7)]
      none (some (vp (0x39 + 1 * 2 ^ 6 + 2 * 2 ^ 10 + 0 * 2 ^ 16))), weave, (⟨5, vpd, [(5, 7)], none⟩ : DescRun), vp
      (0x39 + 1 * 2 ^ 6 + 2 * 2 ^ 10 + 0 * 2 ^ 16),
      { (vp (0x39 + 1 * 2 ^ 6 + 2 * 2 ^ 10 + 0 * 2 ^ 16)) with pc := 1, steps := 8 }, by decide +kernel⟩,
  ⟨vps (0x3A + 1 * 2 ^ 16), 1, (0x3A + 1 * 2 ^ 16), stk vpd [(5, 7)] none (some (vp (0x3A + 1 * 2 ^ 16))), weave, (⟨5,
      vpd, [(5, 7)], none⟩ : DescRun), vp (0x3A + 1 * 2 ^ 16),
      { (vp (0x3A + 1 * 2 ^ 16)) with pc := 1, steps := 8 }, by decide +kernel⟩,
  ⟨vps (0x3A + 2 * 2 ^ 16), 1, (0x3A + 2 * 2 ^ 16), stk vpd [(5, 7)] none (some (vp (0x3A + 2 * 2 ^ 16))), weave, (⟨5,
      vpd, [(5, 7)], none⟩ : DescRun), vp (0x3A + 2 * 2 ^ 16),
      { (vp (0x3A + 2 * 2 ^ 16)) with pc := 1, steps := 8 }, by decide +kernel⟩,
  ⟨vps (0x3F), 1, (0x3F), stk vpd [(5, 7)] none (some (vp (0x3F))), weave, (⟨5, vpd, [(5, 7)], none⟩ : DescRun), vp
      (0x3F), { (vp (0x3F)) with pc := 1, steps := 8 }, by decide +kernel⟩⟩

theorem met_scalarLoadStoreAndBranchInstructions_4 :
    (∃ (s : State) (st : Nat) (i : Nat) (x : StakeSt) (wv : Weave) (d : DescRun) (p : VprogSt) (q : VprogSt), smGet
      s.stakes st = some x ∧ s.weaveOf st = some wv ∧ x.vp = some p ∧ p.prog[p.pc]? = some i ∧ x.desc p.idx = some d
      ∧ q = { p with pc := p.pc + 1, steps := p.steps + 1 } ∧ vpLimit ≤ p.steps ∧ iOp i ≠ 0x3F) ∧ (∃ (s : State) (st
      : Nat) (i : Nat) (x : StakeSt) (wv : Weave) (d : DescRun) (p : VprogSt) (q : VprogSt), smGet s.stakes st =
      some x ∧ s.weaveOf st = some wv ∧ x.vp = some p ∧ p.prog[p.pc]? = some i ∧ x.desc p.idx = some d ∧ q =
      { p with pc := p.pc + 1, steps := p.steps + 1 }) :=
  ⟨⟨onStake vpd [(5, 7)] none (some { vp (vi 4 3 1 2 1) with steps := vpLimit }), 1, (vi 4 3 1 2 1), stk vpd [(5, 7)]
      none (some { vp (vi 4 3 1 2 1) with steps := vpLimit }), weave, (⟨5, vpd, [(5, 7)], none⟩ : DescRun),
      { vp (vi 4 3 1 2 1) with steps := vpLimit },
      { ({ vp (vi 4 3 1 2 1) with steps := vpLimit }) with pc := 1, steps := vpLimit + 1 }, by decide +kernel⟩,
  ⟨vps (0x3F), 1, 0x3F, stk vpd [(5, 7)] none (some (vp 0x3F)), weave, (⟨5, vpd, [(5, 7)], none⟩ : DescRun), vp 0x3F,
      { (vp 0x3F) with pc := 1, steps := 8 }, by decide +kernel⟩⟩

theorem met_portsComeUpAndGoDown :
    (∃ (s : State) (n : Nat) (v : Nat), s.barOpen 0x900000 = true ∧ n < 16 ∧ bit v 0 = true ∧ s.rb R.walePortCtrlEnable
      n = false) ∧ (∃ (s : State) (n : Nat) (v : Nat), s.barOpen 0x900000 = true ∧ n < 16 ∧ bit v 0 = false ∧ s.rb
      R.walePortCtrlEnable n = true) ∧ (∃ (s : State) (n : Nat), n < 16 ∧ (s.port n).failed = false ∧ s.portState n
      = 1) ∧ (∃ (s : State) (n : Nat), n < 16 ∧ (s.port n).failed = false ∧ s.portState n = 2) ∧ (∃ (s : State) (n :
      Nat) (rev : Bool) (pol : Nat), n < 16 ∧ (s.port n).failed = false ∧ s.portState n = 3) ∧ (∃ (s : State) (n :
      Nat) (id : Nat) (pp : Nat) (part : Nat) (m : Bool) (r : Bool), n < 16 ∧ (s.port n).failed = false ∧
      s.portState n = 4 ∧ (s.port n).ident = symWord (.ident id pp part m r) ∧ (s.port n).idents = 2) :=
  ⟨⟨up, 15, 1, by decide +kernel⟩,
  ⟨(withPort up 15).rset R.walePortCtrlEnable 15 1, 15, 0, by decide +kernel⟩,
  ⟨atState 1 PortSt.empty, 15, by decide +kernel⟩,
  ⟨atState 2 PortSt.empty, 15, by decide +kernel⟩,
  ⟨atState 3 PortSt.empty, 15, true, 15, by decide +kernel⟩,
  ⟨atState 4 { PortSt.empty with idents := 2, ident := symWord (.ident 77 3 0 true false) }, 15, 77, 3, 0, true,
      false, by decide +kernel⟩⟩

theorem met_portsComeUpAndGoDown_2 :
    (∃ (s : State) (n : Nat) (id : Nat) (pp : Nat) (part : Nat) (m : Bool) (r : Bool), n < 16 ∧ (s.port n).failed =
      false ∧ s.portState n = 4 ∧ (s.port n).ident ≠ symWord (.ident id pp part m r)) ∧ (∃ (s : State) (n : Nat), n
      < 16 ∧ (s.port n).failed = false ∧ 2 ≤ s.portState n ∧ s.portState n ≤ 4) ∧ (∃ (s : State) (n : Nat), (s.port
      n).failed = true) ∧ (∃ (s : State) (n : Nat) (reason : Nat), s.isUp n = true ∧ (s.rb R.walePortCtrlJob n =
      false ∨ s.tableRuns = false) ∧ reason < 4) ∧ (∃ (s : State) (n : Nat) (lock : Bool), s.isUp n = true ∧ (s.rb
      R.walePortCtrlJob n = false ∨ s.tableRuns = false) ∧ (lock = true ∨ 16 ≤ (s.port n).retryRun)) :=
  ⟨⟨atState 4 PortSt.empty, 15, 77, 3, 0, true, false, by decide +kernel⟩,
  ⟨atState 4 PortSt.empty, 15, by decide +kernel⟩,
  ⟨atState 4 { PortSt.empty with failed := true }, 15, by decide +kernel⟩,
  ⟨withPort up 15, 15, 3, by decide +kernel⟩,
  ⟨withPort up 15, 15, true, by decide +kernel⟩⟩

theorem met_flitsCreditsAndRetries :
    (∃ (s : State) (n : Nat) (k : Nat) (errA : Nat) (errB : Nat) (flit : List Byte), s.isUp n = true ∧ flit.length = 256
      ∧ (15 < errA ∨ 15 < errB)) ∧ (∃ (s : State) (n : Nat) (k : Nat) (errA : Nat) (errB : Nat) (h : Nat) (flit :
      List Byte) (pay : List Byte), s.isUp n = true ∧ flit.length = 256 ∧ errA ≤ 15 ∧ errB ≤ 15 ∧ h = leNat
      (flit.take 16) ∧ pay = flit.drop 16 ∧ crc32c (natLe 12 (bits h 0 96) ++ natLe 4 0 ++ pay) ≠ bits h 96 32) ∧ (∃
      (s : State) (n : Nat) (k : Nat) (errA : Nat) (errB : Nat) (h : Nat) (flit : List Byte) (pay : List Byte),
      s.isUp n = true ∧ flit.length = 256 ∧ errA ≤ 15 ∧ errB ≤ 15 ∧ h = leNat (flit.take 16) ∧ pay = flit.drop 16 ∧
      crc32c (natLe 12 (bits h 0 96) ++ natLe 4 0 ++ pay) = bits h 96 32 ∧ (bits h 91 5 ≠ 0 ∨ bits h 0 2 = 3 ∨ 48 ≤
      bits h 2 6)) ∧ (∃ (s : State) (n : Nat) (k : Nat) (errA : Nat) (errB : Nat) (h : Nat) (flit : List Byte) (pay
      : List Byte), s.isUp n = true ∧ flit.length = 256 ∧ errA ≤ 15 ∧ errB ≤ 15 ∧ h = leNat (flit.take 16) ∧ pay =
      flit.drop 16 ∧ crc32c (natLe 12 (bits h 0 96) ++ natLe 4 0 ++ pay) = bits h 96 32 ∧ bits h 91 5 = 0 ∧ bits h 0
      2 = 1 ∧ bits h 2 6 < 48 ∧ bits h 50 12 ≠ (s.port n).expect) ∧ (∃ (s : State) (n : Nat) (k : Nat) (errA : Nat)
      (errB : Nat) (h : Nat) (flit : List Byte) (pay : List Byte), s.isUp n = true ∧ flit.length = 256 ∧ errA ≤ 15 ∧
      errB ≤ 15 ∧ h = leNat (flit.take 16) ∧ pay = flit.drop 16 ∧ crc32c (natLe 12 (bits h 0 96) ++ natLe 4 0 ++
      pay) = bits h 96 32 ∧ bits h 91 5 = 0 ∧ bits h 0 2 = 1 ∧ bits h 2 6 < 48 ∧ bits h 50 12 = (s.port n).expect ∧
      bit h 8 = true ∧ bit h 9 = true) ∧ (∃ (s : State) (n : Nat), s.isUp n = true ∧ (s.port n).replay = [] ∧
      (s.port n).out = []) :=
  ⟨⟨withPort up 15, 15, 0, 16, 0, List.replicate 256 1, by decide +kernel⟩,
  by refine ⟨withPort up 15, 15, 0, 0, 15, hdr (natLe 256 1), natLe 256 1, (natLe 256 1).drop 16, ?_, ?_, ?_, ?_, ?_,
      rfl, ?_⟩ <;> decide +kernel,
  by refine ⟨withPort up 15, 15, 0, 3, 4, hdr (flitOf (flitHd 4095 + 2 ^ 91) (natLe 240 1)), flitOf (flitHd 4095 + 2 ^
      91) (natLe 240 1), (flitOf (flitHd 4095 + 2 ^ 91) (natLe 240 1)).drop 16, ?_, ?_, ?_, ?_, ?_, rfl, ?_⟩ <;>
      decide +kernel,
  by refine ⟨withPort up 15, 15, 0, 0, 0, hdr wholeFlit, wholeFlit, wholeFlit.drop 16, ?_, ?_, ?_, ?_, ?_, rfl, ?_⟩
      <;> decide +kernel,
  by refine ⟨expecting 4095, 15, 0, 0, 0, hdr wholeFlit, wholeFlit, wholeFlit.drop 16, ?_, ?_, ?_, ?_, ?_, rfl, ?_⟩
      <;> decide +kernel,
  ⟨withPort up 15, 15, by decide +kernel⟩⟩

theorem met_flitsCreditsAndRetries_2 :
    (∃ (s : State) (n : Nat), s.isUp n = true ∧ (s.port n).replay = [] ∧ (s.port n).out = []) ∧ (∃ (s : State) (n : Nat)
      (q : Nat) (rest : List Nat) (f : DataFlit), s.isUp n = true ∧ (s.port n).replay = q :: rest ∧ (s.port
      n).kept.find? (fun f => f.seq == q) = some f) ∧ (∃ (s : State) (n : Nat) (m : Msg), s.isUp n = true ∧ (s.port
      n).replay = [] ∧ (s.port n).kept.length < 2048 ∧ (s.port n).out = [m] ∧ smGetD (s.port n).used m.vc 0 < 16 ∧
      m.ctx = 0 ∧ 32 + m.data.length ≤ 240 ∧ smGetD (s.port n).gone m.vc 0 = 0) ∧ (∃ (s : State) (n : Nat) (m : Msg)
      (m' : Msg), s.isUp n = true ∧ (s.port n).replay = [] ∧ (s.port n).kept.length < 2048 ∧ (s.port n).out = [m,
      m'] ∧ m.vc ≠ m'.vc ∧ m.ctx ≠ 0 ∧ s.scheduled n m = false ∧ m'.ctx = 0 ∧ m'.vc < 64 ∧ smGetD (s.port n).used
      m'.vc 0 < 16) ∧ (∃ (s : State) (n : Nat), s.isUp n = true ∧ (s.port n).asked = true) ∧ (∃ (s : State) (n :
      Nat) (vc : Nat) (k : Nat), s.isUp n = true ∧ vc ≠ 63) :=
  ⟨⟨withPort up 15, 15, by decide +kernel⟩,
  ⟨(withPort up 15).setPort 15
      { PortSt.empty with replay := [5, 6], kept := [⟨5, 3, true, true, 0, 9, [], false, 1⟩] }, 15, 5, [6], (⟨5, 3,
      true, true, 0, 9, [], false, 1⟩ : DataFlit), by decide +kernel⟩,
  ⟨(withPort up 15).setPort 15 { PortSt.empty with out := [(msg 15 3 0 2 (natLe 208 7))] }, 15, msg 15 3 0 2 (natLe
      208 7), by decide +kernel⟩,
  ⟨(withPort up 15).setPort 15
      { PortSt.empty with out := [({ msg 15 3 0 2 [] with ctx := 1 }), ({ msg 15 4 0 2 [] with id := 8, ctx := 0 })] },
      15, { msg 15 3 0 2 [] with ctx := 1 }, { msg 15 4 0 2 [] with id := 8, ctx := 0 }, by decide +kernel⟩,
  ⟨(withPort up 15).setPort 15 { PortSt.empty with asked := true }, 15, by decide +kernel⟩,
  ⟨(withPort up 15).setPort 15 { PortSt.empty with used := [(3, 9)] }, 15, 3, 4, by decide +kernel⟩⟩

theorem met_flitsCreditsAndRetries_3 :
    (∃ (s : State) (n : Nat), s.isUp n = true) :=
  ⟨(withPort up 15).setPort 15 { PortSt.empty with shared := [3, 4, 5] }, 15, by decide +kernel⟩

theorem met_messagesToMemoryAndTestEngines :
    (∃ (s : State) (n : Nat) (vc : Nat) (c : Nat) (va : Nat) (pa : Nat) (m : Msg), s.nextMsg n vc 0 = some m ∧ c = bits
      m.header 16 12 ∧ va = bits m.header 32 48 ∧ (∀ q ∈ s.ms.adds, q.who ≠ msgWho m) ∧ msgMalformed m [] = false ∧
      s.ctxState c = ctxActive ∧ bit m.header 4 = false ∧ (∀ j, j < 4 → s.heldBack c j = false) ∧ s.WritableAt ⟨c,
      16 + portDie n⟩ va m.data.length pa) ∧ (∃ (s : State) (n : Nat) (vc : Nat) (c : Nat) (va : Nat) (pa : Nat) (m
      : Msg), s.nextMsg n vc 0 = some m ∧ c = bits m.header 16 12 ∧ va = bits m.header 32 48 ∧ (∀ q ∈ s.ms.adds,
      q.who ≠ msgWho m) ∧ (msgMalformed m [] = true ∨ s.ctxState c ≠ ctxActive)) ∧ (∃ (s : State) (n : Nat) (vc :
      Nat) (m : Msg), s.nextMsg n vc 0 = some m ∧ (∃ q ∈ s.ms.adds, q.who = msgWho m)) ∧ (∃ (s : State) (n : Nat)
      (vc : Nat) (c : Nat) (va : Nat) (b : Nat) (f : Nat) (m : Msg) (l : TlbEnt) (r : AddReq), s.nextMsg n vc 1 =
      some m ∧ c = bits m.header 16 12 ∧ va = bits m.header 32 48 ∧ f = bits m.header 8 8 ∧ b = fmtBits f / 8 ∧
      msgMalformed m [(128, 6), (134, 10), (144, 1), (145, 1)] = false ∧ s.ctxState c = ctxActive ∧ addFmt f = true
      ∧ va % b = 0 ∧ bits m.header 80 40 = b ∧ bit m.header 4 = false ∧ (∀ j, j < 4 → s.heldBack c j = false) ∧ s.rb
      R.ctxPtRootValid c = true ∧ s.leaf ⟨c, 16 + portDie n⟩ va = some l ∧ (s.walk c va true).2 = some l ∧ s.leaf
      ⟨c, 16 + portDie n⟩ (va / 64 * 64) = some l ∧ (s.walk c (va / 64 * 64) true).2 = some l ∧ l.write = true ∧
      l.pa % 4096 = 0 ∧ 12 ≤ l.log2 ∧ r = ⟨s.ms.nextAdd, msgWho m, 0, c, false, bit m.header 144, (s.coilOf (l.pa +
      va / 64 * 64 % 2 ^ l.log2)).getD 0, bits m.header 128 6, bits m.header 134 10, false, l.pa + va / 64 * 64 % 2
      ^ l.log2, f, f, 2 ^ (va % 64 / b), [leNat m.data]⟩) ∧ (∃ (s : State) (e : Nat) (v : Nat) (fn : Nat) (sync :
      Bool), (64 ≤ fn ∨ (fn = 0 ∧ s.barOpen 0x900000 = true)) ∧ e < 1106 ∧ bit v 4 = true ∧ s.ltRefused e fn =
      false) ∧ (∃ (s : State) (e : Nat) (v : Nat) (fn : Nat) (sync : Bool), (64 ≤ fn ∨ (fn = 0 ∧ s.barOpen 0x900000
      = true)) ∧ e < 1106 ∧ bit v 4 = true ∧ (s.ltRefused e fn = true ∨ (e < 16 ∧ s.rb R.walePortCtrlEnable e =
      true))) :=
  ⟨by refine ⟨got (active up 1) writeMsg, 3, 4, 1, 0x60FF8, 0x60FF8, writeMsg, ?_, ?_, ?_, ?_, ?_, ?_, ?_, ?_, writeAt
      (by decide +kernel)⟩ <;> decide +kernel,
  ⟨got up writeMsg, 3, 4, 1, 0x60FF8, 0, writeMsg, by decide +kernel⟩,
  ⟨{ got (active up 1) writeMsg with ms := { up.ms with adds := [{ addReq with who := msgWho writeMsg }] } }, 3, 4,
      writeMsg, by decide +kernel⟩,
  by refine ⟨got (active up 1) addMsg, 3, 4, 1, 0x60FFC, 4, 0x10, addMsg, leaf 1, (⟨(got (active up 1)
      addMsg).ms.nextAdd, msgWho addMsg, 0, 1, false, bit addMsg.header 144, ((got (active up 1) addMsg).coilOf
      ((leaf 1).pa + 0x60FFC / 64 * 64 % 2 ^ (leaf 1).log2)).getD 0, bits addMsg.header 128 6, bits addMsg.header
      134 10, false, (leaf 1).pa + 0x60FFC / 64 * 64 % 2 ^ (leaf 1).log2, 0x10, 0x10, 2 ^ (0x60FFC % 64 / 4), [leNat
      addMsg.data]⟩ : AddReq), ?_, ?_, ?_, ?_, ?_, ?_, ?_, ?_, by decide +kernel, ?_, ?_, ?_, ?_, ?_, ?_, ?_, ?_,
      by decide +kernel, ?_, ?_, rfl⟩ <;> decide +kernel,
  ⟨up, 1105, 16, 64, true, by decide +kernel⟩,
  ⟨up.rset R.walePortCtrlEnable 15 1, 15, 16, 0, true, by decide +kernel⟩⟩

theorem met_messagesToMemoryAndTestEngines_2 :
    (∃ (s : State) (e : Nat) (v : Nat) (fn : Nat) (nb : Nat) (er : Nat) (lanes : List Nat), (64 ≤ fn ∨ (fn = 0 ∧
      s.barOpen 0x900000 = true)) ∧ e < 1106 ∧ bit v 5 = true ∧ s.rg R.waleLtStatusState e = 1) ∧ (∃ (s : State) (e
      : Nat) (v : Nat) (fn : Nat), (64 ≤ fn ∨ (fn = 0 ∧ s.barOpen 0x900000 = true)) ∧ e < 1106 ∧ bit v 16 = true ∧
      s.rg R.waleLtStatusState e = 1) ∧ (∃ (s : State) (e : Nat) (nb : Nat) (er : Nat) (r : Nat) (lanes : List Nat),
      smGet s.wale.lt e = some r ∧ s.rg R.waleLtCtrlDuration e ≠ 0 ∧ s.rg R.waleLtStatusState e = 1 ∧ r + s.rg
      R.waleLtCtrlDuration e ≤ s.beat) :=
  ⟨⟨up.rset R.waleLtStatusState 15 1, 15, 32, 64, 9, 3, [1, 2], by decide +kernel⟩,
  ⟨up.rset R.waleLtStatusState 15 1, 15, 2 ^ 16, 64, by decide +kernel⟩,
  ⟨{ atBeat ((up.rset R.waleLtStatusState 15 1).rset R.waleLtCtrlDuration 15 5) 7 with wale := { up.wale with lt := [(15, 2)] } },
      15, 9, 3, 2, [1], by decide +kernel⟩⟩

theorem met_collectivesRunTheirSteps :
    (∃ (s : State) (g : Nat) (v : Nat), s.barOpen 0xA00000 = true ∧ g < 1024 ∧ s.rb R.collGroupCfgEnable g = false ∧ bit
      v 0 = true ∧ 1 ≤ bits v 32 17 ∧ bits v 32 17 ≤ 65536 ∧ s.region (s.rg R.collGroupRanksBase g) = .hbm ∧ bits v
      16 16 < bits v 32 17 ∧ s.rankModule g (bits v 16 16) = s.ownId) ∧ (∃ (s : State) (g : Nat) (v : Nat),
      s.barOpen 0xA00000 = true ∧ g < 1024 ∧ s.rb R.collGroupCfgEnable g = false ∧ bit v 0 = true ∧ 1 ≤ bits v 32 17
      ∧ bits v 32 17 ≤ 65536 ∧ s.region (s.rg R.collGroupRanksBase g) = .hbm ∧ s.rankModule g (bits v 16 16) ≠
      s.ownId) ∧ (∃ (s : State) (c : Nat) (o : CollOp), c < 32 ∧ s.headOp c = some o ∧ coChan o.words = c ∧ (∀ j, j
      < 4 → s.heldBack o.ctx j = false) ∧ s.rb R.collChanCfgScheduled c = false ∧ o.steps = [] ∧ o.next ≤ s.lastStep
      o.words ∧ (∀ m ∈ s.coll.early, m.vc ≠ c) ∧ (o.begun = true ∨ coFed o.words = true ∨ coKind o.words = 1 ∨
      (coKind o.words = 0 ∧ coSrc o.words = coDst o.words)) ∧ s.plan o.words o.next = ⟨[], []⟩ ∧ o.next = s.lastStep
      o.words) ∧ (∃ (s : State) (c : Nat) (o : CollOp) (k : Nat) (tr : Nat) (rs : List (Nat × Nat)) (add : Bool) (p
      : Nat), c < 32 ∧ s.headOp c = some o ∧ coChan o.words = c ∧ (∀ j, j < 4 → s.heldBack o.ctx j = false) ∧ s.rb
      R.collChanCfgScheduled c = false ∧ o.steps = [] ∧ o.next ≤ s.lastStep o.words ∧ (∀ m ∈ s.coll.early, m.vc ≠ c)
      ∧ (o.begun = true ∨ coFed o.words = true ∨ coKind o.words = 1 ∨ (coKind o.words = 0 ∧ coSrc o.words = coDst
      o.words)) ∧ s.plan o.words o.next = ⟨[], [(k, tr, rs, add)]⟩ ∧ s.rankModule (coGroup o.words) k ≠ s.ownId ∧
      s.route (s.rankModule (coGroup o.words) k) = some p ∧ workBase o.words < 2 ^ 48) ∧ (∃ (s : State) (c : Nat) (o
      : CollOp) (k : Nat) (tr : Nat) (f : Nat) (l : Nat) (p : Nat) (pa : Nat), c < 32 ∧ s.headOp c = some o ∧ coChan
      o.words = c ∧ (∀ j, j < 4 → s.heldBack o.ctx j = false) ∧ s.rb R.collChanCfgScheduled c = false ∧ o.steps = []
      ∧ o.next ≤ s.lastStep o.words ∧ (∀ m ∈ s.coll.early, m.vc ≠ c) ∧ (o.begun = true ∨ coFed o.words = true ∨
      coKind o.words = 1 ∨ (coKind o.words = 0 ∧ coSrc o.words = coDst o.words)) ∧ 4 ≤ c ∧ coFed o.words = false ∧
      coPlait o.words = false ∧ s.plan o.words o.next = ⟨[(k, tr, [(f, l)])], []⟩ ∧ 0 < l ∧ l * coSize o.words ≤
      s.rg R.collCfgEager 0 * 4096 ∧ s.rankModule (coGroup o.words) k ≠ s.ownId ∧ s.route (s.rankModule (coGroup
      o.words) k) = some p ∧ s.ReadableAt (collRq o) (workBase o.words + f * coSize o.words) (l * coSize o.words)
      pa) ∧ (∃ (s : State) (c : Nat) (o : CollOp) (x : CollStep) (k : Nat) (f : Nat) (l : Nat) (p : Nat) (pa : Nat),
      c < 32 ∧ s.headOp c = some o ∧ coChan o.words = c ∧ (∀ j, j < 4 → s.heldBack o.ctx j = false) ∧ coFed o.words
      = true ∧ 4 ≤ c ∧ coPlait o.words = false ∧ o.steps = [x] ∧ x.held = [] ∧ x.entry = none ∧ x.todo = [⟨k, 0, f,
      l, false⟩] ∧ x.sent = [] ∧ x.granted = [] ∧ 0 < l ∧ l * coSize o.words ≤ s.rg R.collCfgEager 0 * 4096 ∧
      s.rankModule (coGroup o.words) k ≠ s.ownId ∧ s.route (s.rankModule (coGroup o.words) k) = some p ∧
      s.rangeReady o f l = true ∧ s.ReadableAt (collRq o) (workBase o.words + f * coSize o.words) (l * coSize
      o.words) pa) :=
  ⟨⟨(hbm up).rset R.collGroupRanksBase 1023 0x60000, 1023, 1 + 7 * 2 ^ 8 + 3 * 2 ^ 16 + 65536 * 2 ^ 32,
      by decide +kernel⟩,
  ⟨put8 ((hbm up).rset R.collGroupRanksBase 1023 0x60000) 0x60000 5, 1023, 1 + 2 ^ 32, by decide +kernel⟩,
  ⟨posted (collOp 0 5 []), 5, collOp 0 5 [], by decide +kernel⟩,
  ⟨routed 3 (collOp 0 0 []), 5, collOp 0 0 [], 2, 0, [(0, 6), (6, 5), (11, 5)], true, 3, by decide +kernel⟩,
  by refine ⟨routed 3 (collOp 0 3 []), 5, collOp 0 3 [], 2, 0, 11, 5, 3, 0x60016, ?_, ?_, ?_, ?_, ?_, ?_, ?_, ?_,
      by decide +kernel, ?_, ?_, ?_, ?_, ?_, ?_, ?_, ?_, readAt (by decide +kernel)⟩ <;> decide +kernel,
  by refine ⟨routed 4 ({ collOp 1 2 [({ collStep [] with todo := [⟨2, 0, 0, 4, false⟩] })] with ready := [0] }), 5,
      { collOp 1 2 [({ collStep [] with todo := [⟨2, 0, 0, 4, false⟩] })] with ready := [0] },
      { collStep [] with todo := [⟨2, 0, 0, 4, false⟩] }, 2, 0, 4, 3, 0x60000, ?_, ?_, ?_, ?_, ?_, ?_, ?_, ?_,
      by decide +kernel, ?_, ?_, ?_, ?_, ?_, ?_, ?_, ?_, by decide +kernel, readAt (by decide +kernel)⟩ <;> decide
      +kernel⟩

theorem met_collectivesRunTheirSteps_2 :
    (∃ (s : State) (c : Nat) (o : CollOp) (x : CollStep) (k : Nat) (f : Nat) (l : Nat) (p : Nat) (pa : Nat), c < 32 ∧
      s.headOp c = some o ∧ coChan o.words = c ∧ (∀ j, j < 4 → s.heldBack o.ctx j = false) ∧ coFed o.words = true ∧
      4 ≤ c ∧ coPlait o.words = false ∧ o.steps = [x] ∧ x.held = [] ∧ x.entry = none ∧ x.todo = [⟨k, 0, f, l,
      false⟩] ∧ x.sent = [] ∧ x.granted = [] ∧ 0 < l ∧ l * coSize o.words ≤ s.rg R.collCfgEager 0 * 4096 ∧
      s.rankModule (coGroup o.words) k ≠ s.ownId ∧ s.route (s.rankModule (coGroup o.words) k) = some p ∧
      s.rangeReady o f l = false ∧ (∀ i, i < x.step → (s.plan o.words i).sends = [])) ∧ (∃ (s : State) (c : Nat) (o
      : CollOp) (x : CollStep), c < 32 ∧ s.headOp c = some o ∧ coChan o.words = c ∧ (∀ j, j < 4 → s.heldBack o.ctx j
      = false) ∧ o.steps.find? CollStep.complete = some x ∧ x.entry = none) ∧ (∃ (s : State) (c : Nat) (o : CollOp),
      c < 32 ∧ s.headOp c = some o ∧ coChan o.words = c ∧ (∀ j, j < 4 → s.heldBack o.ctx j = false) ∧ o.steps = [] ∧
      s.lastStep o.words < o.next ∧ (∀ id ∈ o.ids, s.accepted id = true) ∧ s.srcReady o = true ∧ (coKind o.words ≠ 1
      ∨ 2 ^ Nat.log2 (s.groupN (coGroup o.words)) ≤ s.groupRank (coGroup o.words))) ∧ (∃ (s : State) (c : Nat) (o :
      CollOp) (b : Nat) (d : Nat × Nat) (pa : Nat) (pb : Nat), c < 32 ∧ s.headOp c = some o ∧ coChan o.words = c ∧
      (∀ j, j < 4 → s.heldBack o.ctx j = false) ∧ o.steps = [] ∧ s.lastStep o.words < o.next ∧ (∀ id ∈ o.ids,
      s.accepted id = true) ∧ s.srcReady o = true ∧ coKind o.words = 1 ∧ s.groupRank (coGroup o.words) < 2 ^
      Nat.log2 (s.groupN (coGroup o.words)) ∧ coSrc o.words + d.1 * b ≠ coDst o.words ∧ b = coSize o.words ∧ d =
      s.dstRange o.words ∧ s.ReadableAt (collRq o) (coSrc o.words + d.1 * b) (d.2 * b) pa ∧ s.WritableAt (collRq o)
      (coDst o.words) (d.2 * b) pb) ∧ (∃ (s : State) (c : Nat) (o : CollOp), c < 32 ∧ s.headOp c = some o ∧ coChan
      o.words = c ∧ (∀ j, j < 4 → s.heldBack o.ctx j = false) ∧ (∃ x ∈ o.steps, s.rg R.collCfgTimeout 0 ≤ s.beat -
      x.last) ∧ (∀ m ∈ s.coll.early, m.vc = c → cmGroup m.header = coGroup o.words ∧ cmSeq m.header = coSeq
      o.words)) ∧ (∃ (s : State) (c : Nat) (o : CollOp) (m : Msg), c < 32 ∧ s.headOp c = some o ∧ coChan o.words = c
      ∧ (∀ j, j < 4 → s.heldBack o.ctx j = false) ∧ m ∈ s.coll.early ∧ m.vc = c ∧ (cmGroup m.header ≠ coGroup
      o.words ∨ cmSeq m.header ≠ coSeq o.words) ∧ (∃ x ∈ o.steps, s.rg R.collCfgTimeout 0 ≤ s.beat - x.last)) :=
  ⟨⟨routed 4 (collOp 1 2 [({ collStep [] with todo := [⟨2, 0, 0, 4, false⟩] })]), 5, collOp 1 2
      [({ collStep [] with todo := [⟨2, 0, 0, 4, false⟩] })], { collStep [] with todo := [⟨2, 0, 0, 4, false⟩] }, 2,
      0, 4, 3, 0x60000, by decide +kernel⟩,
  ⟨posted (collOp 0 2 [(collStep [])]), 5, collOp 0 2 [(collStep [])], collStep [], by decide +kernel⟩,
  ⟨posted collSum, 5, collSum, by decide +kernel⟩,
  by refine ⟨posted (collOp 0 6 []), 5, collOp 0 6 [], 2, (0, 4), 0x60000, 0x70000, ?_, ?_, ?_, ?_, ?_, ?_, ?_, ?_,
      by decide +kernel, ?_, ?_, ?_, ?_, readAt (by decide +kernel), writeAt (by decide +kernel)⟩ <;> decide +kernel,
  ⟨atBeat (posted (collOp 0 2 [collStep [⟨1, 0, 0, 4, 0, true⟩]])) 1000, 5, collOp 0 2 [collStep [⟨1, 0, 0, 4, 0,
      true⟩]], by decide +kernel⟩,
  ⟨{ atBeat (posted (collOp 0 2 [collStep [⟨1, 0, 0, 4, 0, true⟩]])) 1000 with coll := { (posted (collOp 0 2 [collStep [⟨1, 0, 0, 4, 0, true⟩]])).coll with early := [(msg 3 5 0 (2 + 2 ^ 8 + 4 * 2 ^ 80 + 3 * 2 ^ 128) [])] } },
      5, collOp 0 2 [collStep [⟨1, 0, 0, 4, 0, true⟩]], msg 3 5 0 (2 + 2 ^ 8 + 4 * 2 ^ 80 + 3 * 2 ^ 128) [],
      by decide +kernel⟩⟩

theorem met_collectivesRunTheirSteps_3 :
    (∃ (s : State) (c : Nat) (o : CollOp), c < 32 ∧ s.headOp c = some o ∧ coChan o.words = c ∧ (∀ j, j < 4 → s.heldBack
      o.ctx j = false) ∧ (∀ x ∈ o.steps, s.beat - x.last < s.rg R.collCfgTimeout 0)) ∧ (∃ (s : State) (n : Nat) (vc
      : Nat) (m : Msg), s.nextMsg n vc 2 = some m ∧ s.collBad m = false ∧ (∀ o, s.headOp vc = some o → ∀ j, j < 4 →
      s.heldBack o.ctx j = false) ∧ cmGrant m.header = false ∧ s.stepFor m = none ∧ s.rg R.collEarlyUseUsed (vc % 2)
      + m.bytes ≤ 8388608) ∧ (∃ (s : State) (n : Nat) (vc : Nat) (m : Msg) (o : CollOp) (x : CollStep) (v :
      CollWant) (va : Nat) (pa : Nat), s.nextMsg n vc 2 = some m ∧ s.collBad m = false ∧ (∀ o, s.headOp vc = some o
      → ∀ j, j < 4 → s.heldBack o.ctx j = false) ∧ cmGrant m.header = false ∧ s.stepFor m = some (o, x) ∧ o.steps =
      [x] ∧ x.want = [v] ∧ x.held = [] ∧ x.todo = [] ∧ 4 ≤ vc ∧ coChan o.words = vc ∧ bit m.header 4 = false ∧ v.add
      = false ∧ va = (if coKind o.words = 1 then coDst o.words + (cmOffset m.header - (s.dstRange o.words).1) *
      coSize o.words else workBase o.words + cmOffset m.header * coSize o.words) ∧ s.WritableAt (collRq o) va
      m.data.length pa) ∧ (∃ (s : State) (n : Nat) (vc : Nat) (m : Msg) (o : CollOp) (x : CollStep) (v : CollWant)
      (va : Nat) (pa : Nat), s.nextMsg n vc 2 = some m ∧ s.collBad m = false ∧ (∀ o, s.headOp vc = some o → ∀ j, j <
      4 → s.heldBack o.ctx j = false) ∧ cmGrant m.header = false ∧ s.stepFor m = some (o, x) ∧ o.steps = [x] ∧
      x.want = [v] ∧ x.held = [] ∧ x.todo = [] ∧ 4 ≤ vc ∧ coChan o.words = vc ∧ bit m.header 4 = false ∧ v.add =
      true ∧ coMemAdd o.words = false ∧ coFed o.words = false ∧ coFmt o.words = 0x10 ∧ m.data.length = 4 ∧ va =
      workBase o.words + cmOffset m.header * 4 ∧ s.ReadableAt (collRq o) va 4 pa ∧ s.WritableAt (collRq o) va 4 pa)
      ∧ (∃ (s : State) (n : Nat) (vc : Nat) (m : Msg) (o : CollOp) (x : CollStep), s.nextMsg n vc 2 = some m ∧
      s.collBad m = false ∧ (∀ o, s.headOp vc = some o → ∀ j, j < 4 → s.heldBack o.ctx j = false) ∧ cmGrant m.header
      = true ∧ s.stepFor m = some (o, x) ∧ o.steps = [x] ∧ x.todo = []) :=
  ⟨⟨atBeat (posted (collOp 0 2 [collStep [⟨1, 0, 0, 4, 0, true⟩]])) 999, 5, collOp 0 2 [collStep [⟨1, 0, 0, 4, 0,
      true⟩]], by decide +kernel⟩,
  ⟨got (group (active up 1) 2 4) (collMsg 0), 3, 5, collMsg 0, by decide +kernel⟩,
  by refine ⟨got (posted (collOp 0 2 [(collStep [(⟨1, 0, 0, 4, 0, false⟩ : CollWant)])])) (collMsg 0), 3, 5, collMsg
      0, collOp 0 2 [(collStep [(⟨1, 0, 0, 4, 0, false⟩ : CollWant)])], collStep [(⟨1, 0, 0, 4, 0, false⟩ :
      CollWant)], (⟨1, 0, 0, 4, 0, false⟩ : CollWant), 0x70000, 0x70000, ?_, ?_, ?_, ?_, ?_, ?_, ?_, ?_,
      by decide +kernel, ?_, ?_, ?_, ?_, ?_, writeAt (by decide +kernel)⟩ <;> decide +kernel,
  by refine ⟨got (posted collOp32) ({ collMsg 0 with header := (collMsg 0).header + 0x0F * 2 ^ 8 }), 3, 5,
      { collMsg 0 with header := (collMsg 0).header + 0x0F * 2 ^ 8 }, collOp32, collStep [(⟨1, 0, 0, 4, 0, true⟩ :
      CollWant)], (⟨1, 0, 0, 4, 0, true⟩ : CollWant), 0x60000, 0x60000, ?_, ?_, ?_, ?_, ?_, ?_, ?_, ?_,
      by decide +kernel, ?_, ?_, ?_, ?_, ?_, ?_, ?_, ?_, by decide +kernel, readAt (by decide +kernel), writeAt
      (by decide +kernel)⟩ <;> decide +kernel,
  ⟨got (posted (collOp 0 2 [(collStep [⟨1, 0, 0, 4, 0, true⟩])])) (collMsg 1), 3, 5, collMsg 1, collOp 0 2 [(collStep
      [⟨1, 0, 0, 4, 0, true⟩])], collStep [⟨1, 0, 0, 4, 0, true⟩], by decide +kernel⟩⟩

theorem met_videoFramesAreParsedAndReconstructed :
    (∃ (s : State) (b : Nat) (j : VidJob) (rest : List VidJob), b < 2 ∧ s.vidJobs b = j :: rest ∧ (∀ i, i < 4 →
      s.heldBack j.ctx i = false) ∧ s.rg R.vidCfgRunahead 0 ≤ aheadOf (s.vidJobs b)) ∧ (∃ (s : State) (b : Nat) (j :
      VidJob) (rest : List VidJob), b < 2 ∧ s.vidJobs b = j :: rest ∧ (∀ i, i < 4 → s.heldBack j.ctx i = false) ∧
      j.busy = false ∧ (s.rb R.vidSessionEncode j.session = true ∨ j.ready ≠ [])) ∧ (∃ (s : State) (b : Nat) (j :
      VidJob) (rest : List VidJob) (u : State) (f : VidFrame) (fs : List VidFrame) (e : Status × Nat), b < 2 ∧
      s.vidJobs b = j :: rest ∧ (∀ i, i < 4 → s.heldBack j.ctx i = false) ∧ j.busy = true ∧ s.rb R.vidSessionEncode
      j.session = false ∧ j.ready = f :: fs ∧ j.ends = none ∧ j.parsing = false ∧ s.frameAccess b
      { j with busy := false, ready := fs } f = (u, some e) ∧ rest = [] ∧ j.begun = true) ∧ (∃ (m : Config.Motion),
      m.x % 64 + m.w ≤ 64 ∧ m.y % 64 + m.h ≤ 64 ∧ -252 * 8 ≤ m.dx ∧ m.dx ≤ 252 * 8 ∧ -124 * 8 ≤ m.dy ∧ m.dy ≤ 124 *
      8) :=
  ⟨⟨(coding 0 (vjob decodeRec false false [])).rset R.vidCfgRunahead 0 0, 0, vjob decodeRec false false [], [],
      by decide +kernel⟩,
  ⟨coding 0 (vjob decodeRec false false [frame]), 0, vjob decodeRec false false [frame], [], by decide +kernel⟩,
  by refine ⟨coding 0 farJob, 0, farJob, [], ((coding 0 farJob).frameAccess 0
      { farJob with busy := false, ready := ([]) } farFrame).1, farFrame, [], (stMemUnbacked, 0), ?_, ?_, ?_, ?_,
      ?_, ?_, ?_, ?_, pair_eq (by decide +kernel), rfl, ?_⟩ <;> decide +kernel,
  ⟨(⟨63, 65, 1, 63, 0, -2016, 992⟩ : Config.Motion), by decide +kernel⟩⟩

theorem met_faultsAreRecordedAndRelayed :
    (∃ (s : State) (code : Nat) (kind : Nat) (unit : Nat) (part : Nat) (ctx : Nat) (status : Nat) (addr : Nat) (r : Nat)
      (f : FaultInfo), code ∈ faultCodes ∧ kind ≤ 9 ∧ part < 64 ∧ ctx < 4096 ∧ f =
      { FaultInfo.mk0 code kind unit with part := part, ctx := ctx, status := status, addr := addr } ∧ s.tableOn =
      false ∧ s.rb R.fltStatusJobHalted 0 = false ∧ s.enabledParts = [] ∧ s.rb R.fltRingCfgEnable 0 = false ∧ r =
      faultRecord f (if partScope f then 0 else 1) 0 s.ownId s.round + phaseOf (s.rg R.fltRingCfgLog2Size 0) (s.rg
      R.fltRingPiPi 0) * 2 ^ 19) ∧ (∃ (s : State) (port : Nat) (origin : Nat) (code : Nat) (round : Nat) (r : Nat),
      port ∈ s.upPorts ∧ (origin, code, round) ∉ s.flt.seen ∧ r = faultRecord (FaultInfo.mk0 code 0 0) 2 1 origin
      round + phaseOf (s.rg R.fltRingCfgLog2Size 0) (s.rg R.fltRingPiPi 0) * 2 ^ 19) ∧ (∃ (s : State) (port : Nat)
      (origin : Nat) (code : Nat) (round : Nat), (origin, code, round) ∈ s.flt.seen) :=
  ⟨by refine ⟨atRound up 5, fltWaleDown, 9, 3, 63, 4095, 0x30, 0x123456, faultRecord
      ({ FaultInfo.mk0 fltWaleDown 9 3 with part := 63, ctx := 4095, status := 0x30, addr := 0x123456 }) (if
      partScope ({ FaultInfo.mk0 fltWaleDown 9 3 with part := 63, ctx := 4095, status := 0x30, addr := 0x123456 })
      then 0 else 1) 0 (atRound up 5).ownId (atRound up 5).round + phaseOf ((atRound up 5).rg R.fltRingCfgLog2Size
      0) ((atRound up 5).rg R.fltRingPiPi 0) * 2 ^ 19,
      { FaultInfo.mk0 fltWaleDown 9 3 with part := 63, ctx := 4095, status := 0x30, addr := 0x123456 }, ?_, ?_, ?_,
      ?_, ?_, ?_, ?_, ?_, by decide +kernel, rfl⟩ <;> decide +kernel,
  by refine ⟨withPort (withPort up 3) 15, 3, 9, 5, 0, faultRecord (FaultInfo.mk0 5 0 0) 2 1 9 0 + phaseOf ((withPort
      (withPort up 3) 15).rg R.fltRingCfgLog2Size 0) ((withPort (withPort up 3) 15).rg R.fltRingPiPi 0) * 2 ^ 19,
      ?_, ?_, rfl⟩ <;> decide +kernel,
  ⟨{ withPort (withPort up 3) 15 with flt := { up.flt with seen := [(9, 5, 0)] } }, 3, 9, 5, 0, by decide +kernel⟩⟩

theorem met_mirrorWindowsBanksAndRestores :
    (∃ (s : State) (i : Nat) (k : Nat) (w : Nat × Nat × List Nat), s.flt.windows.find? (fun x => x.1 == i && x.2.1 == k)
      = some w ∧ (∀ id ∈ w.2.2, s.accepted id = true)) ∧ (∃ (s : State) (n : Nat) (part : Nat) (ep : Nat) (a : Nat)
      (off : Nat) (m : Msg) (c : Instr), s.nextMirror n part = some m ∧ s.rb R.fltStatusJobHalted 0 = false ∧ s.rg
      R.fltMirrorRxLenLength 0 ≠ 0 ∧ ep = bits m.header 128 32 ∧ a = s.bankAt (ep % 2) ∧ off = bits m.header 32 48 ∧
      (c, part) ∈ [(Instr.mirrorData n, 0), (.mirrorDirectory n, 1)] ∧ msgMalformed m [(128, 32), (160, 2), (162,
      2)] = false ∧ off + bits m.header 80 40 ≤ s.bankLen ∧ bit m.header 4 = false ∧ s.flt.rxEpoch = some ep ∧ 0 <
      m.data.length ∧ (a + off) % 64 + m.data.length ≤ 64 ∧ s.writeStatus (a + off) = 0 ∧ (off + m.data.length ≤
      131200 ∨ 262144 ≤ off)) ∧ (∃ (s : State) (n : Nat) (part : Nat) (ep : Nat) (a : Nat) (off : Nat) (m : Msg) (c
      : Instr), s.nextMirror n part = some m ∧ s.rb R.fltStatusJobHalted 0 = false ∧ s.rg R.fltMirrorRxLenLength 0 ≠
      0 ∧ ep = bits m.header 128 32 ∧ a = s.bankAt (ep % 2) ∧ off = bits m.header 32 48 ∧ (c, part) ∈
      [(Instr.mirrorData n, 0), (.mirrorDirectory n, 1)] ∧ msgMalformed m [(128, 32), (160, 2), (162, 2)] = false ∧
      off + bits m.header 80 40 ≤ s.bankLen ∧ bit m.header 4 = false ∧ s.flt.rxEpoch = some ep ∧ 131200 ≤ off ∧ off
      + m.data.length ≤ 262144) ∧ (∃ (s : State) (n : Nat) (part : Nat) (ep : Nat) (a : Nat) (off : Nat) (m : Msg)
      (c : Instr), s.nextMirror n part = some m ∧ s.rb R.fltStatusJobHalted 0 = false ∧ s.rg R.fltMirrorRxLenLength
      0 ≠ 0 ∧ ep = bits m.header 128 32 ∧ a = s.bankAt (ep % 2) ∧ off = bits m.header 32 48 ∧ (c, part) ∈
      [(Instr.mirrorData n, 0), (.mirrorDirectory n, 1)] ∧ msgMalformed m [(128, 32), (160, 2), (162, 2)] = false ∧
      off + bits m.header 80 40 ≤ s.bankLen ∧ bit m.header 4 = false ∧ s.flt.rxEpoch ≠ some ep ∧ a % 64 = 0 ∧
      s.writeStatus a = 0 ∧ m.src < 65536 ∧ 64 ≤ off) ∧ (∃ (s : State) (n : Nat) (ep : Nat) (a : Nat) (m : Msg) (l :
      List Nat), s.nextMirror n 2 = some m ∧ s.rb R.fltStatusJobHalted 0 = false ∧ s.rg R.fltMirrorRxLenLength 0 ≠ 0
      ∧ ep = bits m.header 128 32 ∧ a = s.bankAt (ep % 2) ∧ commitBad m = false ∧ l = (if s.flt.rxEpoch = some ep
      then s.flt.rxCommits else []) ∧ (∀ p ∈ mirrorPorts (bits m.header 162 2), p = n ∨ p ∈ l)) ∧ (∃ (s : State) (n
      : Nat) (ep : Nat) (a : Nat) (m : Msg) (l : List Nat), s.nextMirror n 2 = some m ∧ s.rb R.fltStatusJobHalted 0
      = false ∧ s.rg R.fltMirrorRxLenLength 0 ≠ 0 ∧ ep = bits m.header 128 32 ∧ a = s.bankAt (ep % 2) ∧ commitBad m
      = false ∧ l = (if s.flt.rxEpoch = some ep then s.flt.rxCommits else []) ∧ (∃ p ∈ mirrorPorts (bits m.header
      162 2), p ≠ n ∧ p ∉ l)) :=
  ⟨⟨{ up with flt := { up.flt with windows := [(1, 4, [])] } }, 1, 4, (1, 4, []), by decide +kernel⟩,
  by refine ⟨inEpoch (got (banks (hbm up)) (mirMsg 0)) 5, 7, 0, 5, (inEpoch (got (banks (hbm up)) (mirMsg 0))
      5).bankAt (5 % 2), bits (mirMsg 0).header 32 48, mirMsg 0, .mirrorData 7, ?_, ?_, ?_, ?_, rfl, rfl, .head _,
      ?_⟩ <;> decide +kernel,
  by refine ⟨(inEpoch (got (banks (hbm up)) mirFar) 5).rset R.fltMirrorRxLenLength 0 0x80000, 7, 1, 5, ((inEpoch (got
      (banks (hbm up)) mirFar) 5).rset R.fltMirrorRxLenLength 0 0x80000).bankAt (5 % 2), bits mirFar.header 32 48,
      mirFar, .mirrorDirectory 7, ?_, ?_, ?_, ?_, rfl, rfl, .tail _ (.head _), ?_⟩ <;> decide +kernel,
  by refine ⟨got (banks (hbm up)) (mirMsg 1), 7, 1, 5, (got (banks (hbm up)) (mirMsg 1)).bankAt (5 % 2), bits (mirMsg
      1).header 32 48, mirMsg 1, .mirrorDirectory 7, ?_, ?_, ?_, ?_, rfl, rfl, .tail _ (.head _), ?_⟩ <;> decide
      +kernel,
  by refine ⟨got (banks (hbm up)) (commitMsg 0), 7, 5, (got (banks (hbm up)) (commitMsg 0)).bankAt (5 % 2), commitMsg
      0, [], ?_, ?_, ?_, ?_, rfl, ?_⟩ <;> decide +kernel,
  by refine ⟨got (banks (hbm up)) (commitMsg 2), 7, 5, (got (banks (hbm up)) (commitMsg 2)).bankAt (5 % 2), commitMsg
      2, [], ?_, ?_, ?_, ?_, rfl, ?_⟩ <;> decide +kernel⟩

theorem met_mirrorWindowsBanksAndRestores_2 :
    (∃ (s : State) (n : Nat) (c : Nat) (pa : Nat) (m : Msg), s.nextMirror n 3 = some m ∧ c = s.rg
      R.fltMirrorCfgRestoreCtx 0 ∧ s.rb R.fltMirrorCfgRestoreRx 0 = true ∧ msgMalformed m [(128, 32), (160, 2),
      (162, 2)] = false ∧ bit m.header 4 = false ∧ s.WritableAt ⟨c, 16 + portDie n⟩ (bits m.header 32 48)
      m.data.length pa) ∧ (∃ (s : State) (n : Nat) (c : Nat) (pa : Nat) (m : Msg), s.nextMirror n 3 = some m ∧ c =
      s.rg R.fltMirrorCfgRestoreCtx 0 ∧ s.rb R.fltMirrorCfgRestoreRx 0 = true ∧ msgMalformed m [(128, 32), (160, 2),
      (162, 2)] = false ∧ bit m.header 4 = false ∧ s.rb R.ctxPtRootValid c = false ∧ 0 < m.data.length) ∧ (∃ (s :
      State) (n : Nat) (c : Nat) (pa : Nat) (m : Msg) (v : State) (bs : List Byte) (w : Wr), s.nextMirror n 3 = some
      m ∧ c = s.rg R.fltMirrorCfgRestoreCtx 0 ∧ s.rb R.fltMirrorCfgRestoreRx 0 = true ∧ msgMalformed m [(128, 32),
      (160, 2), (162, 2)] = false ∧ (s.takeMsg m).msgImage m c (borderSet (portDie n)) = (v, .ok bs) ∧ w = v.vwrite
      ⟨c, 16 + portDie n⟩ (bits m.header 32 48) bs) ∧ (∃ (s : State) (n : Nat) (c : Nat) (pa : Nat) (m : Msg) (v :
      State) (d : Done), s.nextMirror n 3 = some m ∧ c = s.rg R.fltMirrorCfgRestoreCtx 0 ∧ s.rb
      R.fltMirrorCfgRestoreRx 0 = true ∧ msgMalformed m [(128, 32), (160, 2), (162, 2)] = false ∧ (s.takeMsg
      m).msgImage m c (borderSet (portDie n)) = (v, .error d)) ∧ (∃ (s : State) (n : Nat) (c : Nat) (pa : Nat) (m :
      Msg), s.nextMirror n 3 = some m ∧ c = s.rg R.fltMirrorCfgRestoreCtx 0 ∧ s.rb R.fltMirrorCfgRestoreRx 0 = true
      ∧ msgMalformed m [(128, 32), (160, 2), (162, 2)] = true) ∧ (∃ (s : State) (n : Nat) (c : Nat) (pa : Nat) (m :
      Msg), s.nextMirror n 3 = some m ∧ c = s.rg R.fltMirrorCfgRestoreCtx 0 ∧ s.rb R.fltMirrorCfgRestoreRx 0 =
      false) :=
  ⟨by refine ⟨got restorable (restoreMsg 0 (natLe 8 77)), 7, 1, 0x60000, restoreMsg 0 (natLe 8 77), ?_, ?_, ?_, ?_, ?_,
      writeAt (by decide +kernel)⟩ <;> decide +kernel,
  ⟨(got restorable (restoreMsg 0 (natLe 8 77))).rset R.ctxPtRootValid 1 0, 7, 1, 0, restoreMsg 0 (natLe 8 77),
      by decide +kernel⟩,
  by refine ⟨got restorable (restoreMsg 0 (natLe 8 77)), 7, 1, 0, restoreMsg 0 (natLe 8 77), (((got restorable
      (restoreMsg 0 (natLe 8 77))).takeMsg (restoreMsg 0 (natLe 8 77))).msgImage (restoreMsg 0 (natLe 8 77)) 1
      (borderSet (portDie 7))).1, natLe 8 77, ((((got restorable (restoreMsg 0 (natLe 8 77))).takeMsg (restoreMsg 0
      (natLe 8 77))).msgImage (restoreMsg 0 (natLe 8 77)) 1 (borderSet (portDie 7))).1).vwrite ⟨1, 16 + portDie 7⟩
      (bits (restoreMsg 0 (natLe 8 77)).header 32 48) (natLe 8 77), ?_, ?_, ?_, ?_, pair_eq (by decide +kernel),
      rfl⟩ <;> decide +kernel,
  by refine ⟨got restorable (restoreMsg (2 ^ 4) []), 7, 1, 0, restoreMsg (2 ^ 4) [], (((got restorable (restoreMsg (2
      ^ 4) [])).takeMsg (restoreMsg (2 ^ 4) [])).msgImage (restoreMsg (2 ^ 4) []) 1 (borderSet (portDie 7))).1,
      Done.plain stPlaitMalformed, ?_, ?_, ?_, ?_, pair_eq (by decide +kernel)⟩ <;> decide +kernel,
  ⟨got restorable (restoreMsg (2 ^ 200) (natLe 8 77)), 7, 1, 0, restoreMsg (2 ^ 200) (natLe 8 77), by decide +kernel⟩,
  ⟨got (active up 1) (restoreMsg 0 (natLe 8 77)), 7, 0, 0, restoreMsg 0 (natLe 8 77), by decide +kernel⟩⟩

theorem met_mirrorWindowsBanksAndRestores_3 :
    (∃ (s : State) (v : Nat) (b : Nat), s.barOpen 0xE00000 = true ∧ bit v 0 = true ∧ s.tableOn = false ∧ s.rb
      R.fltRestoreBusy 0 = false ∧ b = bits v 1 1 ∧ ((s.pairReady 7 = false ∧ s.pairReady 15 = false) ∨ s.bankGood b
      = false)) ∧ (∃ (s : State) (v : Nat) (b : Nat) (port : Nat) (e : Nat) (a : Nat) (n : Nat), s.barOpen 0xE00000
      = true ∧ bit v 0 = true ∧ s.tableOn = false ∧ s.rb R.fltRestoreBusy 0 = false ∧ b = bits v 1 1 ∧ [7, 15].find?
      (fun p => s.pairReady p) = some port ∧ s.bankGood b = true ∧ bits (s.own (s.bankAt b + 64) 64) 32 16 = 1 ∧ e =
      s.bankEntry b 0 ∧ mePlait e = false ∧ s.rg R.walePairPartner 0 ≠ s.ownId ∧ a = s.bankAt b + 262144 + meDst e ∧
      n = meLen e ∧ a % 64 + n ≤ 64 ∧ s.GoodAt a n) ∧ (∃ (s : State), s.rb R.fltRestoreBusy 0 = true ∧ (∀ id ∈
      s.flt.restore, s.accepted id = true)) :=
  ⟨⟨up, 1, 0, by decide +kernel⟩,
  by refine ⟨put8 (put8 (put8 (put8 ((banks (withPort ((hbm up).rset R.walePairEnable 0 1) 7)).rset R.walePairPartner
      0 9) 0x61000 0x5252494D) 0x61008 1) 0x61040 (0x54534C4D + 2 ^ 32)) 0x61080 (64 * 2 ^ 48), 3, 1, 7, (put8 (put8
      (put8 (put8 ((banks (withPort ((hbm up).rset R.walePairEnable 0 1) 7)).rset R.walePairPartner 0 9) 0x61000
      0x5252494D) 0x61008 1) 0x61040 (0x54534C4D + 2 ^ 32)) 0x61080 (64 * 2 ^ 48)).bankEntry 1 0, (put8 (put8 (put8
      (put8 ((banks (withPort ((hbm up).rset R.walePairEnable 0 1) 7)).rset R.walePairPartner 0 9) 0x61000
      0x5252494D) 0x61008 1) 0x61040 (0x54534C4D + 2 ^ 32)) 0x61080 (64 * 2 ^ 48)).bankAt 1 + 262144 + meDst ((put8
      (put8 (put8 (put8 ((banks (withPort ((hbm up).rset R.walePairEnable 0 1) 7)).rset R.walePairPartner 0 9)
      0x61000 0x5252494D) 0x61008 1) 0x61040 (0x54534C4D + 2 ^ 32)) 0x61080 (64 * 2 ^ 48)).bankEntry 1 0), 64, ?_,
      ?_, ?_, ?_, ?_, ?_, ?_, ?_, rfl, ?_, ?_, rfl, ?_, ?_, goodAt (by decide +kernel)⟩ <;> decide +kernel,
  ⟨up.rset R.fltRestoreBusy 0 1, by decide +kernel⟩⟩

theorem met_handleTakesAndAnswersRequests :
    (∃ (s : State) (q : Nat) (op : Nat), s.handleUp = true ∧ q = s.mbox 0 2 ∧ q ≠ s.mbox 4 2 ∧ op = s.mbox 2 1 ∧
      s.hdl.req = none ∧ s.hdl.queue = [] ∧ (∀ x, s.hdl.staging = some x → x.2.2.path ≠ 0) ∧ op ∈ hdlOps ∧
      s.recovery = false) ∧ (∃ (s : State) (q : Nat) (op : Nat), s.handleUp = true ∧ q = s.mbox 0 2 ∧ q ≠ s.mbox 4 2
      ∧ op = s.mbox 2 1 ∧ s.hdl.req = none ∧ s.hdl.queue = [] ∧ (∀ x, s.hdl.staging = some x → x.2.2.path ≠ 0) ∧ op
      ∉ hdlOps) ∧ (∃ (s : State) (r : HdlReq) (res : Nat) (pl : List Byte), s.hdl.req = some r ∧ r.path = 0 ∧ r.seq
      < 65536 ∧ s.hdl.queue = [] ∧ res < 256 ∧ res ≠ resDenied ∧ res ≠ resSignature ∧ res ≠ resRollback ∧ pl.length
      ≤ 4032) ∧ (∃ (s : State) (path : Nat) (k : Nat), s.handleUp = true ∧ 1 ≤ path ∧ path ≤ 3 ∧ 1 ≤ k ∧ k ≤ 71) ∧
      (∃ (s : State) (path : Nat) (q : Nat) (op : Nat) (pl : List Byte), s.handleUp = true ∧ 1 ≤ path ∧ path ≤ 3 ∧
      s.hdl.req = none ∧ s.hdl.queue = [] ∧ op ∈ hdlOps ∧ s.recovery = false) ∧ (∃ (s : State) (path : Nat) (q :
      Nat) (op : Nat) (pl : List Byte) (r : HdlReq), s.handleUp = true ∧ 1 ≤ path ∧ path ≤ 3 ∧ s.hdl.req = some r) :=
  ⟨⟨mailed 0x31, 7, 0x31, by decide +kernel⟩,
  ⟨mailed 0x32, 7, 0x32, by decide +kernel⟩,
  ⟨serve 0 0x01 [], req 0 0x01 [], resDone, [1, 2, 3], by decide +kernel⟩,
  ⟨upH, 3, 71, by decide +kernel⟩,
  ⟨upH, 3, 9, 0x31, [1], by decide +kernel⟩,
  ⟨serve 1 0x01 [], 3, 9, 0x31, [1], req 1 0x01 [], by decide +kernel⟩⟩

theorem met_handleTakesAndAnswersRequests_2 :
    (∃ (s : State) (path : Nat), s.handleUp = true ∧ 1 ≤ path ∧ path ≤ 3) ∧ (∃ (s : State) (r : HdlReq), s.serving 0x01
      = some r) ∧ (∃ (s : State) (r : HdlReq), s.serving 0x02 = some r ∧ r.arg 1 ≤ 62) ∧ (∃ (s : State) (r :
      HdlReq), s.serving 0x31 = some r ∧ r.path = 0 ∧ 8 ≤ r.arg 0 ∧ r.arg 0 ≤ 15 ∧ r.payload.length = 40) ∧ (∃ (s :
      State) (r : HdlReq), s.serving 0x31 = some r ∧ r.path ≠ 0) ∧ (∃ (s : State) (r : HdlReq), s.serving 0x30 =
      some r ∧ 2 ^ 40 ≤ s.hdl.next) :=
  ⟨⟨upH, 3, by decide +kernel⟩,
  ⟨serve 1 0x01 [], req 1 0x01 [], by decide +kernel⟩,
  ⟨serve 1 0x02 (natLe 8 5 ++ natLe 8 62), req 1 0x02 (natLe 8 5 ++ natLe 8 62), by decide +kernel⟩,
  ⟨serve 0 0x31 (natLe 8 15 ++ natLe 32 7), req 0 0x31 (natLe 8 15 ++ natLe 32 7), by decide +kernel⟩,
  ⟨serve 3 0x31 [], req 3 0x31 [], by decide +kernel⟩,
  ⟨{ serve 1 0x30 (natLe 40 0) with hdl := { (serve 1 0x30 (natLe 40 0)).hdl with next := 2 ^ 40 } }, req 1 0x30
      (natLe 40 0), by decide +kernel⟩⟩

theorem met_handleTakesAndAnswersRequests_3 :
    (∃ (s : State) (r : HdlReq) (body : List Byte), s.serving 0x30 = some r ∧ s.hdl.next < 2 ^ 40 ∧ r.arg 4 % 64 = 0 ∧
      40 ≤ r.payload.length ∧ s.hdl.next < s.attLimit ∧ s.hdl.queue = [] ∧ body = s.report (leNat (r.payload.take
      32)) s.hdl.next ∧ (∀ p ∈ spans 64 (r.arg 4) 10533, s.writeStatus p.1 = 0)) :=
  by refine ⟨recd (serve 1 0x30 (natLe 32 7 ++ natLe 8 0x60000)) 0x04 (natLe 8 1000), req 1 0x30 (natLe 32 7 ++ natLe
      8 0x60000), (recd (serve 1 0x30 (natLe 32 7 ++ natLe 8 0x60000)) 0x04 (natLe 8 1000)).report (leNat ((req 1
      0x30 (natLe 32 7 ++ natLe 8 0x60000)).payload.take 32)) (recd (serve 1 0x30 (natLe 32 7 ++ natLe 8 0x60000))
      0x04 (natLe 8 1000)).hdl.next, ?_, ?_, ?_, ?_, ?_, ?_, rfl, ?_⟩ <;> decide +kernel

theorem met_firmwareAndConfigurationStore :
    (∃ (s : State) (r : HdlReq), s.serving 0x10 = some r ∧ s.hdl.staging = none ∧ r.arg 1 ≤ 0x2000000 ∧ s.GoodAt (r.arg
      0) (r.arg 1) ∧ s.inForce.value 0x22 ≠ some (natLe 1 (1 - s.rg R.hdlStatusFwSlot 0)) ∧ s.hdl.queue = []) ∧ (∃
      (s : State) (r : HdlReq), s.serving 0x10 = some r ∧ s.hdl.staging.isSome = true) ∧ (∃ (s : State) (r : HdlReq)
      (i : FwImage), s.serving 0x11 = some r ∧ s.validImage (1 - s.rg R.hdlStatusFwSlot 0) = some i ∧
      s.inForce.valid = true ∧ s.rg R.hdlFwVersion 0 ≤ i.version) ∧ (∃ (s : State) (r : HdlReq), s.serving 0x12 =
      some r ∧ s.inForce.numOf 0x20 < s.rg R.hdlFwSvn 0) ∧ (∃ (s : State) (r : HdlReq), s.serving 0x20 = some r ∧
      (r.arg 0 = 0x40 ∨ (r.arg 0 = 0x21 ∧ leNat (r.payload.drop 8) ≤ 1)) ∧ (r.payload.drop 8).length = 1) ∧ (∃ (s :
      State) (r : HdlReq), s.serving 0x20 = some r ∧ tagWriter (r.arg 0) < 2) :=
  ⟨by refine ⟨serve 1 0x10 (natLe 8 0x60000 ++ natLe 8 64), req 1 0x10 (natLe 8 0x60000 ++ natLe 8 64), ?_, ?_, ?_,
      goodAt (by decide +kernel), ?_⟩ <;> decide +kernel,
  ⟨{ serve 1 0x10 [] with hdl := { (serve 1 0x10 []).hdl with staging := some (1, ⟨1, 3, true, 0⟩, req 1 0x10 []) } },
      req 1 0x10 [], by decide +kernel⟩,
  ⟨{ serve 1 0x11 [] with hdl := { (serve 1 0x11 []).hdl with slot1 := some ⟨1, 0, true, 0⟩ } }, req 1 0x11 [], (⟨1,
      0, true, 0⟩ : FwImage), by decide +kernel⟩,
  ⟨(serve 1 0x12 []).rset R.hdlFwSvn 0 1, req 1 0x12 [], by decide +kernel⟩,
  ⟨serve 1 0x20 (natLe 8 0x21 ++ [1]), req 1 0x20 (natLe 8 0x21 ++ [1]), by decide +kernel⟩,
  ⟨serve 1 0x20 (natLe 8 0x04 ++ [1]), req 1 0x20 (natLe 8 0x04 ++ [1]), by decide +kernel⟩⟩

theorem met_firmwareAndConfigurationStore_2 :
    (∃ (s : State) (r : HdlReq), s.serving 0x21 = some r ∧ 1 ≤ r.arg 0 ∧ r.arg 0 ≤ 15 ∧ (r.payload.drop 8).length = 64 ∧
      s.keyOf (r.arg 0) = none) ∧ (∃ (s : State) (r : HdlReq), s.serving 0x22 = some r ∧ r.arg 0 < 1024 ∧ 2 ≤
      s.healthOf (r.arg 0)) ∧ (∃ (s : State) (r : HdlReq), s.serving 0x24 = some r ∧ 2 ≤ r.path ∧ 1 ≤ r.arg 0 ∧
      r.arg 0 ≤ 15 ∧ (s.keyOf (r.arg 0)).isSome = true) ∧ (∃ (s : State) (r : HdlReq), s.serving 0x24 = some r ∧
      r.path < 2) ∧ (∃ (s : State) (slot : Nat) (i : FwImage) (r : HdlReq) (u : State), s.handleUp = true ∧
      s.hdl.staging = some (slot, i, r) ∧ u = { s with hdl := { s.hdl with staging := none } } ∧ i.ok = true ∧
      s.inForce.numOf 0x20 ≤ i.svn) ∧ (∃ (s : State) (slot : Nat) (i : FwImage) (r : HdlReq) (u : State), s.handleUp
      = true ∧ s.hdl.staging = some (slot, i, r) ∧ u = { s with hdl := { s.hdl with staging := none } } ∧ i.ok =
      false) :=
  ⟨⟨serve 1 0x21 (natLe 8 15 ++ natLe 64 7), req 1 0x21 (natLe 8 15 ++ natLe 64 7), by decide +kernel⟩,
  ⟨(serve 1 0x22 (natLe 8 1023)).rset R.memChanStateState 1023 3, req 1 0x22 (natLe 8 1023), by decide +kernel⟩,
  ⟨recd (serve 2 0x24 (natLe 8 15)) 0x30 (natLe 65 15), req 2 0x24 (natLe 8 15), by decide +kernel⟩,
  ⟨serve 1 0x24 (natLe 8 15), req 1 0x24 (natLe 8 15), by decide +kernel⟩,
  by refine ⟨{ upH with hdl := { upH.hdl with staging := some (1, ⟨1, 3, true, 0⟩, req 1 0x10 []) } }, 1, (⟨1, 3,
      true, 0⟩ : FwImage), req 1 0x10 [],
      { ({ upH with hdl := { upH.hdl with staging := some (1, ⟨1, 3, true, 0⟩, req 1 0x10 []) } }) with hdl := { ({ upH with hdl := { upH.hdl with staging := some (1, ⟨1, 3, true, 0⟩, req 1 0x10 []) } }).hdl with staging := none } },
      ?_, ?_, rfl, ?_⟩ <;> decide +kernel,
  by refine ⟨{ upH with hdl := { upH.hdl with staging := some (1, ⟨1, 3, false, 0⟩, req 1 0x10 []) } }, 1, (⟨1, 3,
      false, 0⟩ : FwImage), req 1 0x10 [],
      { ({ upH with hdl := { upH.hdl with staging := some (1, ⟨1, 3, false, 0⟩, req 1 0x10 []) } }) with hdl := { ({ upH with hdl := { upH.hdl with staging := some (1, ⟨1, 3, false, 0⟩, req 1 0x10 []) } }).hdl with staging := none } },
      ?_, ?_, rfl, ?_⟩ <;> decide +kernel⟩

theorem met_firmwareAndConfigurationStore_3 :
    (∃ (s : State) (c : CfgChange), bodyLen (s.newBody c) ≤ 1048512) ∧ (∃ (s : State) (c : CfgChange) (rest : List
      CfgChange), s.handleUp = true ∧ s.hdl.changes = c :: rest ∧ c.answers = false) :=
  ⟨⟨upH, { CfgChange.none with set := [⟨0x40, 2, [7]⟩] }, by decide +kernel⟩,
  ⟨{ upH with hdl := { upH.hdl with changes := [{ CfgChange.none with set := [⟨0x40, 2, [7]⟩], seq := 9 }] } },
      { CfgChange.none with set := [⟨0x40, 2, [7]⟩], seq := 9 }, [], by decide +kernel⟩⟩

theorem met_sensorsAndSupply :
    (∃ (s : State) (l : List Int), s.pwr.off = false ∧ l.length = 71) ∧ (∃ (s : State) (k : Nat) (v : Int), k < 71 ∧ (k
      < 66 ∨ 69 ≤ k) ∧ -32768 ≤ v ∧ v < 32768) ∧ (∃ (s : State) (k : Nat), s.rg R.hdlSensorLevel k < s.reached k ∧
      s.reached k < 3) ∧ (∃ (s : State) (k : Nat), s.reached k ≤ s.rg R.hdlSensorLevel k) ∧ (∃ (s : State) (k :
      Nat), k < 71 ∧ 64 ≤ smGetD s.hdl.calm k 0 ∧ (s.rg R.hdlSensorLevel k = 1 ∨ s.rg R.hdlSensorLevel k = 2)) ∧ (∃
      (s : State) (k : Nat), k < 71 ∧ 64 ≤ smGetD s.hdl.calm k 0 ∧ s.rg R.hdlSensorLevel k = 3) :=
  ⟨⟨up, (List.range 71).map (fun k => (k : Int) * 9 - 100), by decide +kernel⟩,
  ⟨up, 70, -32768, by decide +kernel⟩,
  ⟨((up.rset R.hdlSensorValue 5 1600).rset R.hdlSensorWarn 5 1500).rset R.hdlSensorCrit 5 1600, 5, by decide +kernel⟩,
  ⟨up, 5, by decide +kernel⟩,
  ⟨{ up.rset R.hdlSensorLevel 70 2 with hdl := { up.hdl with calm := [(70, 64)] } }, 70, by decide +kernel⟩,
  ⟨{ up.rset R.hdlSensorLevel 70 3 with hdl := { up.hdl with calm := [(70, 64)] } }, 70, by decide +kernel⟩⟩

theorem met_sensorsAndSupply_2 :
    (∃ (s : State) (mv : Nat) (amps : Nat), s.pwr.off = false ∧ s.pwr.stage = 0 ∧ s.hdl.excursion = false ∧ (mv < 35000
      ∨ 45000 < mv)) ∧ (∃ (s : State) (mv : Nat) (amps : Nat), s.pwr.off = false ∧ s.pwr.stage = 0 ∧ s.hdl.excursion
      = false ∧ 35000 ≤ mv ∧ mv ≤ 45000 ∧ 32000 < amps) ∧ (∃ (s : State), s.hdl.excursion = true ∧ 64 ≤
      s.hdl.calmSupply) :=
  ⟨⟨up, 34999, 0, by decide +kernel⟩,
  ⟨up, 45000, 32001, by decide +kernel⟩,
  ⟨{ up with hdl := { up.hdl with excursion := true, calmSupply := 64 } }, by decide +kernel⟩⟩

theorem met_resetsClearAndRestart :
    (∃ (s : State) (e : Instr × Nat), e ∈ [(Instr.perstAssert, 2), (.hotReset, 3), (.pfFlr, 4)] ∧ s.pwr.off = false ∧
      s.pwr.stage = 0 ∧ s.rg R.pwrStatusHoldState 0 ≠ 1 ∧ s.rg R.pwrStatusHoldState 0 ≠ 2) ∧ (∃ (s : State) (e :
      Instr), ((e = .coldRstN ∧ s.pwr.off = false ∧ (s.pwr.cold = false ∨ s.pwr.stage = 0)) ∨ (e = .powerOn ∧
      s.pwr.off = true ∧ s.pwr.cut = false) ∨ (∃ mv, e = .inputReconnect mv ∧ s.pwr.off = true ∧ s.pwr.cut = true ∧
      36000 ≤ mv ∧ mv ≤ 44000))) ∧ (∃ (s : State) (mv : Nat), s.pwr.off = false ∧ (mv < 34000 ∨ 48000 < mv)) ∧ (∃ (s
      : State), s.pwr.off = false ∧ s.pwr.stage = 2) :=
  ⟨by refine ⟨active up 1, (.pfFlr, 4), by simp, ?_⟩ <;> decide +kernel,
  ⟨{ up with pwr := { up.pwr with off := true, cut := true } }, .inputReconnect 36000, .inr (.inr ⟨36000,
      by decide +kernel⟩)⟩,
  ⟨up, 48001, by decide +kernel⟩,
  ⟨{ up.rset R.walePortCtrlEnable 15 1 with pwr := { up.pwr with stage := 2, cause := 3 } }, by decide +kernel⟩⟩

theorem met_restartsNapsAndHold :
    (∃ (s : State) (e : Instr), s.handleUp = true ∧ s.pwr.stage = 0 ∧ (e = .handleWatchdog ∨ ∃ v, e = .handleRestart v 0
      ∧ bit v 2 = true ∧ s.barOpen 0x1000000 = true)) ∧ (∃ (s : State), s.hdl.restarting = true ∧ (s.hdl.log ++
      s.hdl.held).length ≤ 65536) ∧ (∃ (s : State) (c : Nat), c < 16 ∧ s.rb R.pwrStatusReady 0 = true ∧ s.rg
      R.pwrStatusHoldState 0 = 0 ∧ s.recovery = false ∧ s.coilFree c = true ∧ s.napping c = false ∧ s.rb
      R.pwrCfgNapEn 0 = true ∧ s.coilOwned c = false) ∧ (∃ (s : State) (c : Nat), c < 16 ∧ s.rb R.pwrStatusReady 0 =
      true ∧ s.rg R.pwrStatusHoldState 0 = 0 ∧ s.recovery = false ∧ s.coilFree c = true ∧ s.napping c = false) ∧ (∃
      (s : State) (c : Nat), c < 16 ∧ c ∈ s.pwr.leaving) ∧ (∃ (s : State) (v : Nat), s.barOpen 0x1000000 = true ∧
      s.rg R.pwrStatusHoldState 0 = 0 ∧ s.pwr.stage = 0 ∧ bit v 0 = true ∧ s.holdRefused = false) :=
  ⟨⟨upH, .handleRestart 4 0, by decide +kernel, by decide +kernel, .inr ⟨4, by decide +kernel⟩⟩,
  ⟨{ upH with hdl := { upH.hdl with restarting := true, held := [5] } }, by decide +kernel⟩,
  ⟨upH.rset R.pwrCfgNapEn 0 1, 15, by decide +kernel⟩,
  ⟨upH, 15, by decide +kernel⟩,
  ⟨{ upH.rset R.pwrStatusNap 0 (2 ^ 15) with pwr := { up.pwr with leaving := [15] } }, 15, by decide +kernel⟩,
  ⟨active up 0, 1, by decide +kernel⟩⟩

theorem met_restartsNapsAndHold_2 :
    (∃ (s : State) (v : Nat), s.barOpen 0x1000000 = true ∧ s.rg R.pwrStatusHoldState 0 = 0 ∧ s.pwr.stage = 0 ∧ bit v 0 =
      true ∧ s.holdRefused = true) ∧ (∃ (s : State) (r : Nat), s.hdl.tripAt = some r ∧ s.pwr.off = false ∧
      s.pwr.stage = 0 ∧ s.rg R.pwrStatusHoldState 0 = 0) ∧ (∃ (s : State), s.rg R.pwrStatusHoldState 0 = 1 ∧
      s.pwr.wake = false) ∧ (∃ (s : State) (v : Nat), bit v 1 = true ∧ s.barOpen 0x1000000 = true ∧ s.tripped =
      false ∧ s.rg R.pwrStatusHoldState 0 = 2) ∧ (∃ (s : State) (v : Nat), bit v 1 = true ∧ s.barOpen 0x1000000 =
      true ∧ s.tripped = false ∧ s.rg R.pwrStatusHoldState 0 = 1) :=
  ⟨⟨table up 3, 1, by decide +kernel⟩,
  ⟨{ upH with hdl := { upH.hdl with tripAt := some 5 } }, 5, by decide +kernel⟩,
  ⟨upH.rset R.pwrStatusHoldState 0 1, by decide +kernel⟩,
  ⟨upH.rset R.pwrStatusHoldState 0 2, 2, by decide +kernel⟩,
  ⟨upH.rset R.pwrStatusHoldState 0 1, 2, by decide +kernel⟩⟩

/-! Hypotheses about a function that the spec leaves open (a signature's check, a codec, SHAKE256) are met
where that function answers as the premise says: no proof can refute a premise about it. -/

/-- An empty unit whose records are all written, and nothing to keep: nothing is written, and the job goes on. -/
theorem putUnit_none (s : State) (b : Nat) (j : VidJob) (cur : List Nat) (hk : ∀ a b, Config.encodeKeeps a b = [])
    (h1 : j.ends = none) (h2 : bits j.words 240 16 ≤ j.records) : (s.putUnit b j cur []).2.ends = none := by
  have hw (t : State) (a : Nat) : t.vwrite (vidRq j.ctx b) a [] = ⟨t, 0, 0⟩ := rfl
  simp [State.putUnit, State.jobWrite, State.statusRecord, State.workWrite, hk, h1, h2, hw]

theorem met_sfuTablePacketsLoadAndBind_signed (h : ∀ k b g, Config.xmssVerify k b g = true) :
    ∃ (s : State) (u : State) (c : Nat) (n : Nat) (slot : Nat) (p : Packet) (body : List Byte) (sig : List Byte) (key :
      List Byte), s.tabTurn c n slot 0x60 = some p ∧ (∀ j, j < 4 → s.heldBack c j = false) ∧ s.readImageTable
      (s.frontRq c) (bits p.words 256 48) = (u, .ok (body, sig)) ∧ u.keyOf (tbKey (leNat body)) = some key ∧
      Config.xmssVerify key body sig = true ∧ bodyMalformed (leNat body) = false ∧ (∀ st ∈ u.sfuStakes c (bits
      p.words 320 16), u.slotBoundFn st (bits p.words 304 3) = false ∧ u.slotHeld st (bits p.words 304 3) = false) :=
  by
  refine ⟨signed, (signed.readImageTable (signed.frontRq 1) (bits (pkt signedW).words 256 48)).1, 1, 0, 0, pkt signedW,
    natLe 64 sfuBody, List.replicate 2820 0, Config.tableKey, ?_, ?_, pair_eq (by decide +kernel), by rfl, h _ _ _,
    ?_⟩ <;> decide +kernel

theorem met_videoFramesAreParsedAndReconstructed_start (h : ∀ k l n, Config.codecFrame k l n = some frame.info) :
    ∃ (s : State) (b : Nat) (j : VidJob) (rest : List VidJob) (f : Config.FrameInfo), b < 2 ∧ s.vidJobs b = j :: rest ∧
      (∀ i, i < 4 → s.heldBack j.ctx i = false) ∧ (∀ l ∈ s.vidJobs b, l.parsing = false) ∧ s.rb R.vidSessionEncode
      j.session = false ∧ aheadOf (s.vidJobs b) < s.rg R.vidCfgRunahead 0 ∧ j.stop = none ∧ j.ends = none ∧ j.begun
      = true ∧ s.nextFrame j = some f :=
  by
  refine ⟨coding 0 startJob, 0, startJob, [], frame.info, ?_, ?_, ?_, ?_, ?_, ?_, ?_, ?_, ?_, h _ _ _⟩ <;> decide +kernel

theorem met_videoFramesAreParsedAndReconstructed_begin (h : ∀ k l n, Config.codecFrame k l n = some frame.info) :
    ∃ (s : State) (b : Nat) (j : VidJob) (rest : List VidJob) (f : Config.FrameInfo) (pa : Nat), b < 2 ∧ s.vidJobs b = j
      :: rest ∧ (∀ i, i < 4 → s.heldBack j.ctx i = false) ∧ (∀ l ∈ s.vidJobs b, l.parsing = false) ∧ s.rb
      R.vidSessionEncode j.session = false ∧ aheadOf (s.vidJobs b) < s.rg R.vidCfgRunahead 0 ∧ j.stop = none ∧
      j.ends = none ∧ j.begun = false ∧ s.ReadableAt (vidRq j.ctx b) (bits j.words 64 48) (bits j.words 128 32) pa ∧
      Config.codecFrame (s.rg R.vidSessionCodec j.session) ((s.session j.session).streams ++ [s.bytes pa (bits
      j.words 128 32)]) j.parsed = some f :=
  by
  refine ⟨coding 0 beginJob, 0, beginJob, [], frame.info, 0x62000, ?_, ?_, ?_,
    ?_, ?_, ?_, ?_, ?_, ?_, readAt ?_, h _ _ _⟩ <;> decide +kernel

theorem met_videoFramesAreParsedAndReconstructed_noRoom (h : ∀ k l n, Config.codecFrame k l n = some frame.info)
    (hs : ∀ k l n, Config.syntaxRecords k l n = [1]) :
    ∃ (s : State) (b : Nat) (j : VidJob) (rest : List VidJob) (f : Config.FrameInfo) (x : VidSess) (n : Nat), b < 2 ∧
      s.vidJobs b = j :: rest ∧ (∀ i, i < 4 → s.heldBack j.ctx i = false) ∧ j.parsing = true ∧ s.nextFrame j = some
      f ∧ x = s.session j.session ∧ s.rg R.vidSessionCluster j.session = b ∧ f.unsupported = false ∧ f.width ≤
      x.maxW ∧ f.height ≤ x.maxH ∧ f.width * f.height ≤ 35651584 ∧ (8 < f.depth → s.rb R.vidSessionBit10 j.session =
      true) ∧ x.needs = false ∧ f.rasl = false ∧ n = (vidRecords (s.rg R.vidSessionCodec j.session) x.streams
      j.parsed f).length ∧ s.syntaxRoom b j f = false :=
  by
  refine ⟨parsing.rset R.vidSyntaxSizeSize 0 0, 0, parseJob, [], frame.info, (parsing.rset R.vidSyntaxSizeSize 0 0).session 5,
    (vidRecords ((parsing.rset R.vidSyntaxSizeSize 0 0).rg R.vidSessionCodec 5) ((parsing.rset R.vidSyntaxSizeSize 0 0).session
      5).streams 0 frame.info).length, ?_, ?_, ?_, ?_, h _ _ _, rfl, ?_, ?_, ?_, ?_, ?_, ?_, ?_, ?_, rfl, ?_⟩
  case refine_13 => simp only [State.syntaxRoom, vidRecords, hs]; decide +kernel
  all_goals decide +kernel

theorem met_videoFramesAreParsedAndReconstructed_parse (h : ∀ k l n, Config.codecFrame k l n = some frame.info)
    (hs : ∀ k l n, Config.syntaxRecords k l n = []) :
    ∃ (s : State) (b : Nat) (j : VidJob) (rest : List VidJob) (f : Config.FrameInfo) (x : VidSess) (n : Nat), b < 2 ∧
      s.vidJobs b = j :: rest ∧ (∀ i, i < 4 → s.heldBack j.ctx i = false) ∧ j.parsing = true ∧ s.nextFrame j = some
      f ∧ x = s.session j.session ∧ s.rg R.vidSessionCluster j.session = b ∧ f.unsupported = false ∧ f.width ≤
      x.maxW ∧ f.height ≤ x.maxH ∧ f.width * f.height ≤ 35651584 ∧ (8 < f.depth → s.rb R.vidSessionBit10 j.session =
      true) ∧ x.needs = false ∧ f.rasl = false ∧ n = (vidRecords (s.rg R.vidSessionCodec j.session) x.streams
      j.parsed f).length ∧ s.syntaxRoom b j f = true ∧ f.damage = 0 :=
  by
  refine ⟨parsing, 0, parseJob, [], frame.info, parsing.session 5, (vidRecords (parsing.rg R.vidSessionCodec 5)
    (parsing.session 5).streams 0 frame.info).length, ?_, ?_, ?_, ?_, h _ _ _, rfl, ?_, ?_, ?_, ?_, ?_, ?_, ?_, ?_, rfl, ?_, ?_⟩
  case refine_13 => simp only [State.syntaxRoom, vidRecords, hs]; decide +kernel
  all_goals decide +kernel

theorem met_videoFramesAreParsedAndReconstructed_damaged (h : ∀ k l n, Config.codecFrame k l n = some hurt)
    (hs : ∀ k l n, Config.syntaxRecords k l n = []) :
    ∃ (s : State) (b : Nat) (j : VidJob) (rest : List VidJob) (f : Config.FrameInfo) (x : VidSess) (n : Nat), b < 2 ∧
      s.vidJobs b = j :: rest ∧ (∀ i, i < 4 → s.heldBack j.ctx i = false) ∧ j.parsing = true ∧ s.nextFrame j = some
      f ∧ x = s.session j.session ∧ s.rg R.vidSessionCluster j.session = b ∧ f.unsupported = false ∧ f.width ≤
      x.maxW ∧ f.height ≤ x.maxH ∧ f.width * f.height ≤ 35651584 ∧ (8 < f.depth → s.rb R.vidSessionBit10 j.session =
      true) ∧ x.needs = false ∧ f.rasl = false ∧ n = (vidRecords (s.rg R.vidSessionCodec j.session) x.streams
      j.parsed f).length ∧ s.syntaxRoom b j f = true ∧ f.damage ≠ 0 ∧ bit j.words 17 = true ∧ j.ready = [] ∧ j.busy
      = false ∧ rest = [] ∧ s.rb R.vidSessionEncode j.session = false ∧ j.begun = true ∧ (bit j.words 16 = false ∨
      x.held = []) :=
  by
  refine ⟨coding 0 hurtJob, 0, hurtJob, [], hurt, (coding 0 hurtJob).session 5, (vidRecords ((coding 0 hurtJob).rg
    R.vidSessionCodec 5) ((coding 0 hurtJob).session 5).streams 0 hurt).length, ?_, ?_, ?_, ?_, h _ _ _, rfl, ?_, ?_, ?_, ?_, ?_, ?_, ?_, ?_, rfl, ?_, ?_⟩
  case refine_13 => simp only [State.syntaxRoom, vidRecords, hs]; decide +kernel
  all_goals decide +kernel

theorem met_videoFramesAreParsedAndReconstructed_decoded (h : ∀ k l n, Config.decodeReads k l n = []) (hk : ∀ k l n, Config.decodeKeeps k l n = []) :
    ∃ (s : State) (b : Nat) (j : VidJob) (rest : List VidJob) (u : State) (f : VidFrame) (fs : List VidFrame), b < 2 ∧
      s.vidJobs b = j :: rest ∧ (∀ i, i < 4 → s.heldBack j.ctx i = false) ∧ j.busy = true ∧ s.rb R.vidSessionEncode
      j.session = false ∧ j.ready = f :: fs ∧ j.ends = none ∧ j.parsing = false ∧ s.frameAccess b
      { j with busy := false, ready := fs } f = (u, none) ∧ f.concealed = false ∧ (fs ≠ [] ∨ (s.nextFrame j).isSome
      = true) ∧ f.info.outputs = [] :=
  by
  refine ⟨coding 0 twoFrames, 0, twoFrames, [], ((coding 0 twoFrames).frameAccess 0 { twoFrames with busy := false, ready := [frame] }
    frame).1, frame, [frame], ?_, ?_, ?_, ?_, ?_, ?_, ?_, ?_, pair_eq ?_, ?_⟩
  case refine_9 => simp only [State.frameAccess, h, hk]; decide +kernel
  all_goals decide +kernel

theorem met_videoFramesAreParsedAndReconstructed_written (h : ∀ k l n, Config.decodeReads k l n = []) (hk : ∀ k l n, Config.decodeKeeps k l n = []) :
    ∃ (s : State) (b : Nat) (j : VidJob) (rest : List VidJob) (u : State) (f : VidFrame) (fs : List VidFrame) (k : Nat)
      (n : Nat) (pa : Nat), b < 2 ∧ s.vidJobs b = j :: rest ∧ (∀ i, i < 4 → s.heldBack j.ctx i = false) ∧ j.busy =
      true ∧ s.rb R.vidSessionEncode j.session = false ∧ j.ready = f :: fs ∧ j.ends = none ∧ j.parsing = false ∧
      s.frameAccess b { j with busy := false, ready := fs } f = (u, none) ∧ f.concealed = false ∧ (fs ≠ [] ∨
      (s.nextFrame j).isSome = true) ∧ f.info.outputs = [0] ∧ f.info.height = 1 ∧ bits j.words 560 16 = 0 ∧ k = s.rg
      R.vidSessionFrames j.session ∧ bits j.words 192 32 ≤ k ∧ (k - bits j.words 192 32) % bits j.words 176 8 = 0 ∧
      j.written < bits j.words 160 16 ∧ n = f.info.width * ((bits j.words 21 2 + 1) * (fmtBits (bits j.words 24 8) /
      8)) ∧ u.WritableAt (vidRq j.ctx b) (bits j.words 256 48 + j.written * bits j.words 384 40) n pa :=
  by
  refine ⟨coding 0 oneRow, 0, oneRow, [], ((coding 0 oneRow).frameAccess 0 { oneRow with busy := false, ready := [frame] }
    rowFrame).1, rowFrame, [frame], (coding 0 oneRow).rg R.vidSessionFrames 5, 32, 0x68000, ?_, ?_, ?_, ?_, ?_, ?_, ?_, ?_,
    pair_eq ?_, ?_, ?_, ?_, ?_, ?_, rfl, ?_, ?_, ?_, ?_, writeAt ?_⟩
  case refine_9 => simp only [State.frameAccess, h, hk]; decide +kernel
  case refine_19 => simp only [State.frameAccess, h, hk]; decide +kernel
  all_goals decide +kernel

theorem met_videoFramesAreParsedAndReconstructed_tooLong  :
    ∃ (s : State) (b : Nat) (j : VidJob) (rest : List VidJob) (u : State) (v : State) (rows : List (List Nat)) (cur :
      List Nat) (unit : List Byte) (x : VidSess), b < 2 ∧ s.vidJobs b = j :: rest ∧ (∀ i, i < 4 → s.heldBack j.ctx i
      = false) ∧ j.busy = true ∧ s.rb R.vidSessionEncode j.session = true ∧ j.ends = none ∧ j.stop = none ∧
      j.concealed = 0 ∧ x = s.session j.session ∧ s.encRows b { j with busy := false } j.done = (u, .ok rows) ∧ cur
      = [b2n (s.encKey j), bits j.words 32 8, bits j.words 40 2, bits j.words 256 16, bits j.words 272 16, bits
      j.words 22 1] ++ encSamples j.words j.colour rows ∧ u.search (vidRq j.ctx b) b x cur = (v, none) ∧ unit =
      Config.encodeUnit x.coded cur (considered x.coded cur) ∧ bits j.words 448 32 < j.used + unit.length :=
  by
  refine ⟨encoding1, 0, shortJob, [], (encoding1.encRows 0 { shortJob with busy := false } 0).1,
    ((encoding1.encRows 0 { shortJob with busy := false } 0).1.search (vidRq 1 0) 0 (encoding1.session 5)
      (curOf encoding1 shortJob)).1, rowsOf encoding1 shortJob, curOf encoding1 shortJob, _, encoding1.session 5, ?_, ?_, ?_, ?_, ?_, ?_,
    ?_, ?_, rfl, pair_eq ?_, rfl, pair_eq ?_, rfl, Nat.lt_of_lt_of_le ?_ (Nat.le_add_right _ _)⟩ <;> decide +kernel

theorem met_videoFramesAreParsedAndReconstructed_encode (h : ∀ a b c, Config.encodeUnit a b c = []) (hk : ∀ a b, Config.encodeKeeps a b = []) :
    ∃ (s : State) (b : Nat) (j : VidJob) (rest : List VidJob) (u : State) (v : State) (rows : List (List Nat)) (cur :
      List Nat) (unit : List Byte) (x : VidSess), b < 2 ∧ s.vidJobs b = j :: rest ∧ (∀ i, i < 4 → s.heldBack j.ctx i
      = false) ∧ j.busy = true ∧ s.rb R.vidSessionEncode j.session = true ∧ j.ends = none ∧ j.stop = none ∧
      j.concealed = 0 ∧ x = s.session j.session ∧ s.encRows b { j with busy := false } j.done = (u, .ok rows) ∧ cur
      = [b2n (s.encKey j), bits j.words 32 8, bits j.words 40 2, bits j.words 256 16, bits j.words 272 16, bits
      j.words 22 1] ++ encSamples j.words j.colour rows ∧ u.search (vidRq j.ctx b) b x cur = (v, none) ∧ unit =
      Config.encodeUnit x.coded cur (considered x.coded cur) ∧ j.used + unit.length ≤ bits j.words 448 32 ∧
      (v.putUnit b { j with busy := false } cur unit).2.ends = none :=
  by
  refine ⟨encoding0, 0, encJob, [], (encoding0.encRows 0 { encJob with busy := false } 0).1,
    ((encoding0.encRows 0 { encJob with busy := false } 0).1.search (vidRq 1 0) 0 (encoding0.session 5)
      (curOf encoding0 encJob)).1, rowsOf encoding0 encJob, curOf encoding0 encJob, _, encoding0.session 5, ?_, ?_, ?_, ?_, ?_, ?_,
    ?_, ?_, rfl, pair_eq ?_, rfl, pair_eq ?_, rfl, ?_, ?_⟩
  case refine_11 => simp only [h]; decide +kernel
  case refine_12 => simp only [h]; exact putUnit_none _ _ _ _ hk (by decide +kernel) (by decide +kernel)
  all_goals decide +kernel

theorem met_videoFramesAreParsedAndReconstructed_motion (h : ∀ a b, Config.motions a b = [⟨0, 0, 1, 1, 0, 0, 0⟩]) :
    ∃ (coded : List (List Nat)) (cur : List Nat) (m : Config.Motion), m ∈ considered coded cur :=
  
  ⟨[[1]], [0, 0, 1], ⟨0, 0, 1, 1, 0, 0, 0⟩, by simp only [considered, h]; decide +kernel⟩

theorem met_firmwareAndConfigurationStore_import (hx : ∀ k b g, Config.xmssVerify k b g = true)
    (hs : ∀ l, Config.shake256 l = fun _ => 0#8) :
    ∃ (s : State) (r : HdlReq) (l : List Byte) (c : CfgCopy) (n : Nat) (g : CfgChange), s.serving 0x23 = some r ∧ r.arg
      1 ≤ 0x200000 ∧ s.GoodAt (r.arg 0) (r.arg 1) ∧ l = s.bytes (r.arg 0) (r.arg 1) ∧ bootSigned l (32 + 64 + bits
      (leNat ((l.drop 32).take 64)) 128 32) = true ∧ parseCopy (l.drop 32) = some (c, n) ∧ s.rg R.hdlStatusCause 0 ≠
      2 ∧ l.take 32 = s.devId ∧ g =
      { CfgChange.none with body := some c.recs, seq := max s.hdl.copy0.seq s.hdl.copy1.seq } ∧ bodyLen (s.newBody
      g) ≤ 1048512 :=
  by
  refine ⟨importing, importReq, importBytes, ⟨0, true, []⟩, 64, _, ?_, ?_, goodAt ?_, ?_, ?_, ?_, ?_, ?_, rfl, ?_⟩
  case refine_5 => simp only [bootSigned, hx, Bool.and_true]; decide +kernel
  case refine_6 => simp only [parseCopy, digest, shake, hs]; decide +kernel
  all_goals decide +kernel

theorem met_resetsClearAndRestart_recovery (h : ∀ l, Config.shake256 l = fun _ => 0#8) :
    ∃ (s : State) (u : State) (puf : Bool) (fail : List Nat) (ham : List (Nat × Nat)), s.pwr.off = false ∧ s.pwr.stage =
      1 ∧ u = { s with pwr := { s.pwr with perst := false, stage := 2 } }.boot puf ∧ u.recovery = true :=
  by
  refine ⟨State.reset, booting.boot false, false, [], [], rfl, rfl, rfl, ?_⟩
  simp only [State.boot, State.loadFw, State.measureStore, State.bootId, State.extend, keyed, digest, shake, h]
  decide +kernel

theorem met_resetsClearAndRestart_boot (h : ∀ l, Config.shake256 l = fun _ => 0#8) :
    ∃ (s : State) (u : State) (puf : Bool) (fail : List Nat) (ham : List (Nat × Nat)), s.pwr.off = false ∧ s.pwr.stage =
      1 ∧ u = { s with pwr := { s.pwr with perst := false, stage := 2 } }.boot puf ∧ u.recovery = false :=
  by
  refine ⟨State.reset, booting.boot true, true, [], [], rfl, rfl, rfl, ?_⟩
  simp only [State.boot, State.loadFw, State.measureStore, State.bootId, State.extend, keyed, digest, shake, h]
  decide +kernel

end Sys2Proof.Tests
end

section
/-!
SUPPORT. Partition resets and the number of virtual functions (R154, R158, R159, R751, R753): what each command
does in each of its cases, and the obligation that these rules settle.
-/

namespace Sys2Proof.Machine

/-! ### Starting and completing a partition reset -/

/-- Nothing starts while a reset of the partition is in progress (R751). -/
theorem State.startPartition_of_mem (s : State) {p : Nat} (h : p ∈ s.pwr.partReset) : s.startPartition p = s := by
  unfold State.startPartition
  exact if_pos (.inr (.inr (List.contains_iff_mem.mpr h)))

/-- Where no reset of the partition and none of the module is in progress, the partition is reset, the RESET entry is
logged and the partition is held in reset (R753). -/
theorem State.startPartition_of_notMem (s : State) {p : Nat} (hon : s.pwr.off = false) (hst : s.pwr.stage = 0)
    (h : p ∉ s.pwr.partReset) :
    s.startPartition p =
      { (s.resetPartition p).logEntry 2 1 p 0 with
        pwr := { ((s.resetPartition p).logEntry 2 1 p 0).pwr with
          partReset := ((s.resetPartition p).logEntry 2 1 p 0).pwr.partReset ++ [p] } }.rset
        R.pwrPartResetBusy 0 1 := by
  have hidle : ¬(s.pwr.off = true ∨ s.pwr.stage ≠ 0 ∨ s.pwr.partReset.contains p = true) := by
    simp [hon, hst, h]
  unfold State.startPartition
  exact if_neg hidle

/-- A request of the physical function in the running module starts the reset of the partition it names (R753). -/
theorem exec_partitionReset_request (s : State) {v : Nat} (hreq : bit v 6 = true)
    (hbar : s.barOpen 0x1000000 = true) (hrdy : s.rb R.pwrStatusReady 0 = true)
    (hhold : s.rg R.pwrStatusHoldState 0 = 0) :
    exec (.partitionReset v 0) s = .next (s.startPartition (bits v 0 6)) :=
  if_pos ⟨rfl, hreq, hbar, hrdy, hhold⟩

/-- A completed reset leaves the list of those in progress, and busy stays set while one is left (R751). -/
theorem exec_partitionResetDone_of_mem (s : State) {p : Nat} (h : p ∈ s.pwr.partReset) :
    exec (.partitionResetDone p) s =
      .next ({ s with pwr := { s.pwr with partReset := s.pwr.partReset.filter (· != p) } }.rset
        R.pwrPartResetBusy 0 (b2n (!(s.pwr.partReset.filter (· != p)).isEmpty))) :=
  if_neg (not_not_intro (List.contains_iff_mem.mpr h))

/-! ### Virtual functions -/

/-- A function-level reset of an existing virtual function starts the reset of its partition (R158). -/
theorem exec_vfFlr_bound (s : State) {vf p : Nat} (h0 : vf ≠ 0) (hle : vf ≤ s.numVfs) (hp : s.vfPart vf = some p) :
    exec (.vfFlr vf) s = .next (s.startPartition p) := by
  have hex : ¬(vf = 0 ∨ s.numVfs < vf) := by omega
  show execVfFlr vf s = _
  rw [execVfFlr, if_neg hex, hp]

/-- NumVFs rises to n (R154). -/
theorem exec_vfEnable_rise (s : State) {n : Nat} (hon : s.pwr.off = false) (hrec : s.recovery = false) (hn : n ≤ 63)
    (hlt : s.numVfs < n) : exec (.vfEnable n) s = .next { s with numVfs := n } := by
  have hok : ¬(s.pwr.off = true ∨ s.recovery = true ∨ 63 < n ∨ n ≤ s.numVfs) := by
    simp only [hon, hrec, Bool.false_eq_true, false_or]
    omega
  exact if_neg hok

/-- The identifiers of the functions of a module that is on: those up to NumVFs exist (R1, R154). -/
theorem State.pciIds_of_on (s : State) (hon : s.pwr.off = false) (fn : Nat) :
    s.pciIds fn =
      if fn ≤ s.numVfs then some (0x1F3D, if fn = 0 then 0x5932 else 0x5933, 0x120000) else none := by
  by_cases h : fn ≤ s.numVfs <;> simp [State.pciIds, State.fnEnabled, hon, h]

/-- What VF_DISABLE does for one virtual function that ceases to exist: its partition, if any, is reset and disabled
(R159). -/
def State.ceaseVf (s : State) (vf : Nat) : State :=
  match s.vfPart vf with
  | some p => (s.startPartition p).moveOwners ((s.startPartition p).rset R.partCfgEnable p 0)
  | none => s

theorem State.ceaseVf_of_some {s : State} {vf p : Nat} (h : s.vfPart vf = some p) :
    s.ceaseVf vf = (s.startPartition p).moveOwners ((s.startPartition p).rset R.partCfgEnable p 0) := by
  rw [State.ceaseVf, h]

theorem State.ceaseVf_of_none {s : State} {vf : Nat} (h : s.vfPart vf = none) : s.ceaseVf vf = s := by
  rw [State.ceaseVf, h]

/-- The partition of a virtual function does not depend on NumVFs. -/
@[simp] theorem State.vfPart_setNumVfs (s : State) (n vf : Nat) : { s with numVfs := n }.vfPart vf = s.vfPart vf := rfl

/-- NumVFs falls to n, and the virtual functions above n cease to exist, the lowest first (R159). -/
theorem exec_vfDisable_fall (s : State) {n : Nat} (h : n < s.numVfs) :
    exec (.vfDisable n) s =
      .next ((upFrom (n + 1) (s.numVfs - n)).foldl State.ceaseVf { s with numVfs := n }) :=
  if_neg (Nat.not_le.mpr h)

theorem mem_upFrom {a n x : Nat} : x ∈ upFrom a n ↔ a ≤ x ∧ x < a + n := by
  induction n generalizing a with
  | zero =>
    simp only [upFrom, List.not_mem_nil, false_iff]
    omega
  | succ n ih =>
    simp only [upFrom, List.mem_cons, ih]
    omega

/-- Virtual functions without a partition cease to exist without a further effect. -/
theorem State.foldl_ceaseVf_of_none {s : State} {l : List Nat} (h : ∀ vf ∈ l, s.vfPart vf = none) :
    l.foldl State.ceaseVf s = s := by
  induction l with
  | nil => rfl
  | cons vf l ih =>
    obtain ⟨hvf, hl⟩ := List.forall_mem_cons.mp h
    rw [List.foldl_cons, State.ceaseVf_of_none hvf, ih hl]

/-- Where no virtual function above n has a partition, only NumVFs changes. -/
theorem exec_vfDisable_unbound (s : State) {n : Nat} (h : n < s.numVfs)
    (hnone : ∀ vf, vf ≤ s.numVfs → n < vf → s.vfPart vf = none) :
    exec (.vfDisable n) s = .next { s with numVfs := n } := by
  rw [exec_vfDisable_fall s h, State.foldl_ceaseVf_of_none]
  intro vf hvf
  obtain ⟨hlo, hhi⟩ := mem_upFrom.mp hvf
  exact hnone vf (by omega) hlo

/-- The last virtual function ceases to exist: its partition is reset and disabled (R159). -/
theorem exec_vfDisable_last (s : State) {n p : Nat} (h : s.numVfs = n + 1) (hp : s.vfPart (n + 1) = some p) :
    exec (.vfDisable n) s =
      .next (({ s with numVfs := n }.startPartition p).moveOwners
        (({ s with numVfs := n }.startPartition p).rset R.partCfgEnable p 0)) := by
  have hone : upFrom (n + 1) (s.numVfs - n) = [n + 1] := by
    rw [h, Nat.add_sub_cancel_left]
    rfl
  rw [exec_vfDisable_fall s (by omega), hone, List.foldl_cons, List.foldl_nil,
    State.ceaseVf_of_some ((State.vfPart_setNumVfs s n (n + 1)).trans hp)]

/-- Settles O43: each clause is the rule of its command in that case, and the identifiers are those of the state that
VF_ENABLE leaves, with NumVFs at n. -/
theorem partitionResetsAndVirtualFunctions : Obligations.PartitionResetsAndVirtualFunctions := by
  unfold Obligations.PartitionResetsAndVirtualFunctions
  refine ⟨?request, ?start, ?inProgress, ?done, ?flr, ?rise, ?unbound, ?last, ?identifiers⟩
  case request =>
    rintro s v p rfl hreq hbar hrdy hhold
    exact exec_partitionReset_request s hreq hbar hrdy hhold
  case start =>
    rintro s u p hon hst hp rfl
    exact s.startPartition_of_notMem hon hst hp
  case inProgress =>
    intro s p hp
    exact s.startPartition_of_mem hp
  case done =>
    intro s p hp
    simp [exec_partitionResetDone_of_mem s (p := p) (by simp [hp]), hp, b2n]
  case flr =>
    intro s vf p h0 hle hp
    exact exec_vfFlr_bound s h0 hle hp
  case rise =>
    intro s n hon hrec hn hlt
    exact exec_vfEnable_rise s hon hrec hn hlt
  case unbound =>
    intro s n hlt hnone
    exact exec_vfDisable_unbound s hlt hnone
  case last =>
    rintro s u n p h hp rfl
    exact exec_vfDisable_last s h hp
  case identifiers =>
    intro s t n vf ht hon hrec hn hlt
    obtain rfl : { s with numVfs := n } = t := by
      simpa [exec_vfEnable_rise s hon hrec hn hlt] using ht
    have hids := State.pciIds_of_on { s with numVfs := n } hon
    refine ⟨?_, fun hpos hle => ?_, fun hgt => ?_⟩
    · simp [hids]
    · simp [hids, hle, Nat.ne_of_gt hpos]
    · simp [hids, hgt]

end Sys2Proof.Machine
end

section
/-!
SUPPORT. The start of a VPROG (R237, R238): the microprogram that a descriptor loads, its instructions and its
registers, and the obligation that these rules settle.
-/

namespace Sys2Proof.Machine

/-! ### Lists of numbers and of writes -/

theorem upFrom_eq_range' (a n : Nat) : upFrom a n = List.range' a n := by
  induction n generalizing a with
  | zero => rfl
  | succ n ih => rw [upFrom, ih, List.range'_succ]

theorem below_eq_range (n : Nat) : below n = List.range n := by
  rw [below, upFrom_eq_range', List.range_eq_range']

/-- A map read after one write. -/
theorem smGetD_smPut {α : Type} [DecidableEq α] (d : α) (m : SMap α) (k j : Nat) (v : α) :
    smGetD (smPut d m k v) j d = if k = j then v else smGetD m j d := by
  split
  · next h => rw [h, smGetD_smPut_same]
  · next h => rw [smGetD_smPut_ne d d m v h]

/-- Reading a list of pairs finds the first that names the key. -/
theorem smGetD_cons {α : Type} (d : α) (m : SMap α) (k j : Nat) (v : α) :
    smGetD ((k, v) :: m) j d = if k = j then v else smGetD m j d := by
  by_cases h : k = j <;> simp [smGetD, smGet, h]

/-- A map after a list of writes reads as the writes themselves, the last first. -/
theorem smGetD_foldl_smPut {α : Type} [DecidableEq α] (d : α) (l : List (Nat × α)) (j : Nat) :
    smGetD (l.foldl (fun m e => smPut d m e.1 e.2) []) j d = smGetD l.reverse j d := by
  induction l using List.reverseRecOn with
  | nil => rfl
  | append_singleton l e ih =>
    rw [List.foldl_concat, List.reverse_concat, smGetD_smPut, smGetD_cons, ih]

/-! ### The Stake -/

/-- A descriptor is ready on a Stake that runs a stream. -/
theorem State.smGet_stakes_of_descReady {s : State} {st idx op : Nat} {x : StakeSt} {wv : Weave} {d : DescRun}
    (h : s.descReady st idx op = some (x, wv, d)) : smGet s.stakes st = some x := by
  unfold State.descReady at h
  split at h
  · next y _ hy _ =>
    split at h
    · split at h
      · cases h
      · cases h
        exact hy
    · cases h
  · cases h

/-- A program that stands at a defined instruction is kept on its Stake (R243). -/
theorem State.vpKeep_of_defined {s : State} {st i : Nat} {x : StakeSt} {p : VprogSt}
    (hx : smGet s.stakes st = some x) (hi : p.prog[p.pc]? = some i) (hop : (iReserved (iOp i)).isSome = true) :
    s.vpKeep st p = s.setStake st { x with vp := some p } := by
  have hdef : ¬(iReserved (iOp i)).isNone = true := by
    simpa [Option.isSome_iff_ne_none] using hop
  simp only [State.vpKeep, hi, hx, if_neg hdef]

/-- Writes to s0 are discarded (R238). -/
@[simp] theorem VprogSt.setR_zero (p : VprogSt) (v : Nat) : p.setR 0 v = p := if_pos rfl

/-! ### What VPROG loads -/

/-- What s5 to s7 take of operand k: its Tray offset where it lies in space 0, and 0 otherwise (R238). -/
def vprogOffset (w k : Nat) : Nat := if (dOpnd w k).space = 0 then (dOpnd w k).addr % 2 ^ 21 else 0

/-- The scalar registers that a descriptor sets: s1 to s4 from the init fields, s5 to s7 from the operands (R238). -/
def vprogInit (w : Nat) : List (Nat × Nat) :=
  [(1, bits w 832 32), (2, bits w 864 32), (3, bits w 896 32), (4, bits w 928 32), (5, vprogOffset w 0),
    (6, vprogOffset w 1), (7, vprogOffset w 2)]

/-- The instruction words that a descriptor names in its Stake's Tray (R237). -/
def State.vprogWords (s : State) (st w : Nat) : List Nat :=
  (below (bits w 800 10 + 1)).map (fun k => leNat (s.trayN st (bits w 768 21 + 4 * k) 4))

/-- The microprogram that a descriptor begins, at instruction 0 (R237, R238). -/
def State.vprogStart (s : State) (st idx w : Nat) : VprogSt :=
  ⟨idx, s.vprogWords st w, 0, 0, (vprogInit w).foldl (fun m e => smPut 0 m e.1 e.2) [], []⟩

@[simp] theorem State.length_vprogWords (s : State) (st w : Nat) :
    (s.vprogWords st w).length = bits w 800 10 + 1 := by
  simp [State.vprogWords, below_eq_range]

theorem State.getElem?_vprogWords (s : State) (st w : Nat) {k : Nat} (hk : k ≤ bits w 800 10) :
    (s.vprogWords st w)[k]? = some (leNat (s.trayN st (bits w 768 21 + 4 * k) 4)) := by
  have hlt : k < bits w 800 10 + 1 := Nat.lt_succ_of_le hk
  simp [State.vprogWords, below_eq_range, hlt]

/-- Every vector register starts with 128 zero lanes (R238). -/
theorem State.vprogStart_v (s : State) (st idx w k : Nat) :
    (s.vprogStart st idx w).v k = List.replicate 128 0 := by
  show (below 128).map (fun _ => 0) = _
  rw [below_eq_range, List.map_const', List.length_range]

/-- The scalar registers start as the list of initial values reads. -/
theorem State.vprogStart_r (s : State) (st idx w k : Nat) :
    (s.vprogStart st idx w).r k = smGetD (vprogInit w).reverse k 0 :=
  smGetD_foldl_smPut 0 (vprogInit w) k

theorem State.vprogStart_r_operand (s : State) (st idx w : Nat) {k : Nat} (hk : k < 3) :
    (s.vprogStart st idx w).r (5 + k) = vprogOffset w k := by
  rw [State.vprogStart_r]
  match k, hk with
  | 0, _ => rfl
  | 1, _ => rfl
  | 2, _ => rfl

/-- The scalar registers above s7 start at 0. -/
theorem State.vprogStart_r_above (s : State) (st idx w : Nat) {k : Nat} (hk : 8 ≤ k) :
    (s.vprogStart st idx w).r k = 0 := by
  have hne : ∀ j < 8, j ≠ k := fun j hj => Nat.ne_of_lt (Nat.lt_of_lt_of_le hj hk)
  rw [State.vprogStart_r]
  simp [vprogInit, smGetD, smGet, hne]

/-! ### The instruction -/

section
variable {s : State} {st idx : Nat} {x : StakeSt} {wv : Weave} {d : DescRun}
  (hready : s.descReady st idx 0x09 = some (x, wv, d)) (hvp : x.vp = none)
include hready hvp

/-- A malformed VPROG ends with ST_WEAVE_IMAGE (R221, R237). -/
theorem exec_vprog_malformed (hbad : vprogMalformed d.words = true) :
    exec (.vprog st idx) s = .next (s.descEnd st idx ⟨stWeaveImage, 0, idx⟩) := by
  show execVprog st idx s = _
  simp [execVprog, hready, hvp, hbad, Done.malformed]

/-- A VPROG that is not malformed begins the microprogram that its descriptor names (R237, R238). -/
theorem exec_vprog_wellFormed (hok : vprogMalformed d.words = false) :
    exec (.vprog st idx) s = .next (s.vpKeep st (s.vprogStart st idx d.words)) := by
  show execVprog st idx s = _
  simp only [execVprog, hready, hvp, hok, Option.isSome_none, Bool.false_eq_true, if_false]
  rfl

/-- Where the first instruction's opcode is defined, the microprogram stands on its Stake at instruction 0. -/
theorem exec_vprog_stands (hok : vprogMalformed d.words = false)
    (hop : (iReserved (iOp (leNat (s.trayN st (bits d.words 768 21) 4)))).isSome = true) :
    exec (.vprog st idx) s = .next (s.setStake st { x with vp := some (s.vprogStart st idx d.words) }) := by
  have hfirst := s.getElem?_vprogWords st d.words (Nat.zero_le (bits d.words 800 10))
  rw [exec_vprog_wellFormed hready hvp hok,
    State.vpKeep_of_defined (State.smGet_stakes_of_descReady hready) hfirst hop]

end

/-- Settles O46: a malformed descriptor ends; any other leaves its microprogram on the Stake and changes nothing else,
and the program and the registers are those of `State.vprogStart`. -/
theorem vprogLoadsItsProgram : Obligations.VprogLoadsItsProgram := by
  unfold Obligations.VprogLoadsItsProgram
  intro s st idx x wv d hready hvp
  refine ⟨exec_vprog_malformed hready hvp, ?_⟩
  rintro i hok rfl hop
  have hregs := s.vprogStart_r st idx d.words
  exact ⟨_, _, s.vprogStart st idx d.words, exec_vprog_stands hready hvp hok hop, s.setStake_stakes_same st _, rfl,
    rfl, rfl, rfl, s.length_vprogWords st d.words, fun _ hk => s.getElem?_vprogWords st d.words hk,
    s.vprogStart_v st idx d.words, fun _ hk => s.vprogStart_r_above st idx d.words hk, VprogSt.setR_zero _,
    hregs 0, hregs 1, hregs 2, hregs 3, hregs 4, fun _ hk => s.vprogStart_r_operand st idx d.words hk,
    s.setStake_mem st _, s.setStake_trays st _, s.setStake_regs st _⟩

end Sys2Proof.Machine
end

section
/-!
SUPPORT. What work of the collective engines leaves as it was: the address map, the translations, the groups, and, over
an access of memory, the collectives, the ports, the contexts and the Round; and what reads and writes of one sector
give (R40, R41, R520 to R529).
-/

namespace Sys2Proof.Machine

/-! ### What a translation and an access look at -/

/-- The register fields that the address map, translation, routes and rank tables depend on. -/
def mapFlds : List Fld :=
  [R.memHbmEndEnd, R.hampEndEnd, R.creelWaycfgScratch, R.memChanLiveLive, R.memWindowBaseBase, R.memWindowSizeSize,
    R.hampChanStateLive, R.hampChanStateFailed, R.ctxPtRootValid, R.ctxPtRootRoot, R.waleCfgModuleId, R.waleRoutePort0,
    R.waleRouteValid0, R.waleRoutePort1, R.waleRouteValid1, R.waleRoutePort2, R.waleRouteValid2, R.waleRoutePort3,
    R.waleRouteValid3, R.collGroupRanksBase]

/-- The register fields that the plan of a step and the checks of a message depend on besides. -/
def groupFlds : List Fld :=
  [R.collGroupCfgEnable, R.collGroupCfgSize, R.collGroupCfgRank, R.collGroupSeqNext, R.collCfgEager]

/-- A field that no field of a list is. -/
def offFlds (l : List Fld) (f : Fld) : Bool :=
  decide (f.id < 1024) && l.all (fun g => f.id != g.id && decide (g.id < 1024))

theorem State.rset_rg_of_offFlds (s : State) {l : List Fld} {f g : Fld} (hf : offFlds l f = true) (hg : g ∈ l)
    (i j v : Nat) : (s.rset f i v).rg g j = s.rg g j := by
  simp only [offFlds, Bool.and_eq_true, decide_eq_true_eq, List.all_eq_true, bne_iff_ne] at hf
  obtain ⟨hlt, hall⟩ := hf
  exact s.rset_rg_ne v hlt (hall g hg).2 (.inl (hall g hg).1)

/-- t has the address map, the translations, the routes, the rank tables and the memory of s. -/
structure SameMap (s t : State) : Prop where
  regs : ∀ f ∈ mapFlds, ∀ i, t.rg f i = s.rg f i
  mem : t.mem = s.mem
  imgBase : t.imgBase = s.imgBase
  tlb : t.ms.tlb = s.ms.tlb
  converting : t.ms.converting = s.ms.converting
  bad : t.ms.bad = s.ms.bad
  badWords : t.ms.badWords = s.ms.badWords
  badAt : ∀ a n, t.badAt a n = s.badAt a n

namespace SameMap

variable {s t u : State}

theorem refl (s : State) : SameMap s s := ⟨fun _ _ _ => rfl, rfl, rfl, rfl, rfl, rfl, rfl, fun _ _ => rfl⟩

theorem trans (h : SameMap s t) (k : SameMap t u) : SameMap s u where
  regs f hf i := (k.regs f hf i).trans (h.regs f hf i)
  mem := k.mem.trans h.mem
  imgBase := k.imgBase.trans h.imgBase
  tlb := k.tlb.trans h.tlb
  converting := k.converting.trans h.converting
  bad := k.bad.trans h.bad
  badWords := k.badWords.trans h.badWords
  badAt a n := (k.badAt a n).trans (h.badAt a n)

section
variable (hr : ∀ f ∈ mapFlds, ∀ i, t.rg f i = s.rg f i)
include hr

theorem rb_of_regs {f : Fld} (hf : f ∈ mapFlds) (i : Nat) : t.rb f i = s.rb f i := by
  rw [State.rb, State.rb, hr f hf i]

theorem coilOf_of_regs (a : Nat) : t.coilOf a = s.coilOf a := by
  simp only [State.coilOf, hr R.memWindowBaseBase (by decide), hr R.memWindowSizeSize (by decide)]

theorem region_of_regs (hc : t.ms.converting = s.ms.converting) (a : Nat) : t.region a = s.region a := by
  simp only [State.region, hr R.memHbmEndEnd (by decide), hr R.hampEndEnd (by decide),
    hr R.creelWaycfgScratch (by decide), hc]

/-- An update of other registers, outside the memory system, keeps the map. -/
theorem of_regs (hm : t.mem = s.mem) (hi : t.imgBase = s.imgBase) (hms : t.ms = s.ms) : SameMap s t where
  regs := hr
  mem := hm
  imgBase := hi
  tlb := by rw [hms]
  converting := by rw [hms]
  bad := by rw [hms]
  badWords := by rw [hms]
  badAt a n := by
    simp only [State.badAt, State.cached, region_of_regs hr (by rw [hms]), coilOf_of_regs hr, hms]

end

/-- Writing another field keeps the map. -/
theorem rset (h : SameMap s t) {f : Fld} {i v : Nat} (hf : offFlds mapFlds f = true) : SameMap s (t.rset f i v) :=
  h.trans (of_regs (fun _ hg j => t.rset_rg_of_offFlds hf hg i j v) rfl rfl rfl)

section
variable (h : SameMap s t)
include h

theorem rb {f : Fld} (hf : f ∈ mapFlds) (i : Nat) : t.rb f i = s.rb f i := rb_of_regs h.regs hf i

theorem region (a : Nat) : t.region a = s.region a := region_of_regs h.regs h.converting a

theorem bytes (a n : Nat) : t.bytes a n = s.bytes a n := State.bytes_congr ⟨h.mem, h.imgBase⟩ a n

theorem num (a n : Nat) : t.num a n = s.num a n := by rw [State.num, State.num, h.bytes]

theorem hamperOf (a : Nat) : t.hamperOf a = s.hamperOf a := by
  have hlive : t.liveHamper = s.liveHamper := by
    simp only [State.liveHamper, h.rb (f := R.hampChanStateLive) (by decide)]
  unfold State.hamperOf
  rw [hlive]

theorem readStatus (a n : Nat) : t.readStatus a n = s.readStatus a n := by
  simp only [State.readStatus, h.region, h.hamperOf, h.rb (f := R.hampChanStateFailed) (by decide), h.badAt]

theorem writeStatus (a : Nat) : t.writeStatus a = s.writeStatus a := by
  simp only [State.writeStatus, h.region, h.hamperOf, h.rb (f := R.hampChanStateFailed) (by decide)]

theorem own (a n : Nat) : t.own a n = s.own a n := by
  rw [State.own, State.own, h.readStatus, h.num]

theorem ownId : t.ownId = s.ownId := h.regs _ (by decide) 0

theorem rankModule (g k : Nat) : t.rankModule g k = s.rankModule g k := by
  rw [State.rankModule, State.rankModule, h.regs R.collGroupRanksBase (by decide), h.own]

theorem route (d : Nat) : t.route d = s.route d := by
  unfold State.route
  dsimp only
  split <;> (rw [h.rb, h.regs] <;> decide)

theorem walkFrom (ctx va : Nat) (w : Bool) (fuel level a : Nat) :
    walkFrom t ctx va w fuel level a = Machine.walkFrom s ctx va w fuel level a := by
  induction fuel generalizing level a with
  | zero => rfl
  | succ fuel ih => simp only [Machine.walkFrom, h.region, h.readStatus, h.num, ih]

theorem walk (ctx va : Nat) (w : Bool) : t.walk ctx va w = s.walk ctx va w := by
  simp only [State.walk, h.rb (f := R.ctxPtRootValid) (by decide), h.regs R.ctxPtRootRoot (by decide), h.walkFrom]

theorem leaf (rq : Rq) (va : Nat) : t.leaf rq va = s.leaf rq va := by
  rw [State.leaf, State.leaf, h.tlb]

theorem readableAt {rq : Rq} {va n pa : Nat} (hr : s.ReadableAt rq va n pa) : t.ReadableAt rq va n pa := by
  unfold State.ReadableAt at *
  rwa [h.rb (by decide), h.leaf, h.walk, h.readStatus, h.bad, h.badWords]

theorem writableAt {rq : Rq} {va n pa : Nat} (hw : s.WritableAt rq va n pa) : t.WritableAt rq va n pa := by
  unfold State.WritableAt at *
  rwa [h.rb (by decide), h.leaf, h.walk, h.writeStatus]

end

end SameMap

/-- t also has the groups and the eager bytes of s. -/
structure SameView (s t : State) : Prop extends SameMap s t where
  groups : ∀ f ∈ groupFlds, ∀ i, t.rg f i = s.rg f i

namespace SameView

variable {s t u : State}

theorem refl (s : State) : SameView s s := ⟨.refl s, fun _ _ _ => rfl⟩

theorem trans (h : SameView s t) (k : SameView t u) : SameView s u :=
  ⟨h.toSameMap.trans k.toSameMap, fun f hf i => (k.groups f hf i).trans (h.groups f hf i)⟩

/-- An update outside the registers, the memory and the memory system keeps the view. -/
theorem of_eq (hr : t.regs = s.regs) (hm : t.mem = s.mem) (hi : t.imgBase = s.imgBase) (hms : t.ms = s.ms) :
    SameView s t :=
  have hrg : ∀ f i, t.rg f i = s.rg f i := fun f i => by rw [State.rg, State.rg, hr]
  ⟨.of_regs (fun f _ => hrg f) hm hi hms, fun f _ => hrg f⟩

/-- Writing a field outside the view keeps it. -/
theorem rset (h : SameView s t) {f : Fld} {i v : Nat} (hf : offFlds (mapFlds ++ groupFlds) f = true) :
    SameView s (t.rset f i v) :=
  h.trans ⟨.of_regs (fun _ hg j => t.rset_rg_of_offFlds hf (List.mem_append_left _ hg) i j v) rfl rfl rfl,
    fun _ hg j => t.rset_rg_of_offFlds hf (List.mem_append_right _ hg) i j v⟩

section
variable (h : SameView s t)
include h

theorem groupN (g : Nat) : t.groupN g = s.groupN g := h.groups _ (by decide) g

theorem groupRank (g : Nat) : t.groupRank g = s.groupRank g := h.groups _ (by decide) g

theorem lastStep (w : Nat) : t.lastStep w = s.lastStep w := by
  rw [State.lastStep, State.lastStep, h.groupN]

theorem plan (w k : Nat) : t.plan w k = s.plan w k := by
  simp only [State.plan, h.lastStep, h.groupN, h.groupRank]

end

end SameView

/-! ### What an access leaves of the collectives, the ports, the contexts and the Round -/

/-- The parts of the state that the collective engines work on beside registers and memory. -/
def State.work (s : State) : CollSt × WaleSt × SMap CtxSt × RoundSt := (s.coll, s.wale, s.ctxs, s.rnd)

section
variable {s t : State} (h : t.work = s.work)
include h

theorem State.coll_of_work : t.coll = s.coll := congrArg Prod.fst h

theorem State.wale_of_work : t.wale = s.wale := congrArg (fun w => w.2.1) h

theorem State.ctxs_of_work : t.ctxs = s.ctxs := congrArg (fun w => w.2.2.1) h

theorem State.rnd_of_work : t.rnd = s.rnd := congrArg (fun w => w.2.2.2) h

end

@[simp] theorem State.charge_work (s : State) (c j n : Nat) : (s.charge c j n).work = s.work := by
  unfold State.charge
  split
  · rfl
  · split
    · split <;> rfl
    · rfl

@[simp] theorem State.writeBack_work (s : State) (x c : Nat) (l : List Line) : (s.writeBack x c l).work = s.work :=
  State.charge_work ..

/-- What setting lines, counting, charging and writing back keep, an access of a sector of a Coil window keeps. -/
theorem State.creelSector_keeps {P : State → Prop} (hlines : ∀ t c k l, P t → P (t.setLines c k l))
    (hhit : ∀ t c, P t → P (t.radd R.creelHitsCount c 1)) (hmiss : ∀ t c, P t → P (t.radd R.creelMissesCount c 1))
    (hcharge : ∀ t ctx n, P t → P (t.charge ctx 0 n)) (hback : ∀ t ctx c l, P t → P (t.writeBack ctx c l))
    {s : State} (h : P s) (ctx c a : Nat) (w p na : Bool) : P (s.creelSector ctx c a w p na) := by
  have hfetch : P ((s.radd R.creelMissesCount c 1).charge ctx 0 64) := hcharge _ _ _ (hmiss _ _ h)
  unfold State.creelSector
  dsimp only
  split
  · exact hhit _ _ (hlines _ _ _ _ h)
  · split
    · exact hfetch
    · have hstart : P (if (!w || p) = true then (s.radd R.creelMissesCount c 1).charge ctx 0 64 else s) := by
        split
        · exact hfetch
        · exact h
      generalize (if (!w || p) = true then (s.radd R.creelMissesCount c 1).charge ctx 0 64 else s) = t at hstart ⊢
      split
      · exact hstart
      · exact hback _ _ _ _ (hlines _ _ _ _ hstart)

theorem State.creelSector_work (s : State) (ctx c a : Nat) (w p na : Bool) :
    (s.creelSector ctx c a w p na).work = s.work :=
  State.creelSector_keeps (P := fun t => t.work = s.work) (fun _ _ _ _ h => h) (fun _ _ h => h) (fun _ _ h => h)
    (fun t ctx n h => (t.charge_work ctx 0 n).trans h) (fun t ctx c l h => (t.writeBack_work ctx c l).trans h) rfl ..

@[simp] theorem State.touch_work (s : State) (ctx a n : Nat) (w na : Bool) : (s.touch ctx a n w na).work = s.work := by
  unfold State.touch
  split
  · split
    · rfl
    · exact State.creelSector_work ..
  · exact State.charge_work ..
  · split <;> rfl
  · exact s.charge_work ctx 3 n
  · rfl

theorem State.noteUe_work (s : State) (a : Nat) : (s.noteUe a).work = s.work := by
  unfold State.noteUe
  split
  · split
    · rfl
    · unfold State.setPending
      split <;> rfl
  · split <;> rfl
  · rfl
  · rfl

@[simp] theorem State.mergeNote_work (s : State) (a n : Nat) : (s.mergeNote a n).work = s.work := by
  unfold State.mergeNote
  split
  · exact State.noteUe_work ..
  · rfl

@[simp] theorem State.storePiece_work (s : State) (a : Nat) (bs : List Byte) : (s.storePiece a bs).work = s.work := by
  have hset : (s.setBytes a bs).work = s.work := by
    rw [State.setBytes_eq]
    rfl
  unfold State.storePiece
  dsimp only
  split <;> exact hset

/-! ### Reads where no word is bad -/

/-- No word of the memory is bad. -/
def State.NoBad (s : State) : Prop := s.ms.bad = [] ∧ s.ms.badWords = []

theorem State.NoBad.badAt {s : State} (h : s.NoBad) (a n : Nat) : s.badAt a n = false := by
  obtain ⟨hbad, hwords⟩ := h
  unfold State.badAt
  split <;> simp [hbad, hwords]

/-- Where no word is bad, an update of the Creel keeps the view. -/
theorem SameView.of_noBad {s t : State} (hs : s.NoBad) (ht : t.NoBad) (hr : t.regs = s.regs) (hm : t.mem = s.mem)
    (hi : t.imgBase = s.imgBase) (htlb : t.ms.tlb = s.ms.tlb) (hc : t.ms.converting = s.ms.converting) :
    SameView s t where
  regs f _ i := by rw [State.rg, State.rg, hr]
  groups f _ i := by rw [State.rg, State.rg, hr]
  mem := hm
  imgBase := hi
  tlb := htlb
  converting := hc
  bad := ht.1.trans hs.1.symm
  badWords := ht.2.trans hs.2.symm
  badAt a n := (ht.badAt a n).trans (hs.badAt a n).symm

theorem SameView.noBad {s t : State} (h : SameView s t) (hs : s.NoBad) : t.NoBad :=
  ⟨h.bad.trans hs.1, h.badWords.trans hs.2⟩

theorem State.charge_sameView (s : State) (c j n : Nat) : SameView s (s.charge c j n) := by
  unfold State.charge
  split
  · exact .refl s
  · split
    · split
      · exact (SameView.refl s).rset (by decide)
      · exact .refl s
    · refine SameView.trans ((SameView.refl s).rset (v := s.rg _ c + n) ?_) (.of_eq rfl rfl rfl rfl)
      split
      · decide
      · split
        · decide
        · split <;> decide

theorem State.setLines_sameView {s : State} (h : s.NoBad) (c k : Nat) (l : List Line) : SameView s (s.setLines c k l) :=
  .of_noBad h h rfl rfl rfl rfl rfl

theorem State.writeBack_sameView {s : State} (h : s.NoBad) (x c : Nat) (l : List Line) :
    SameView s (s.writeBack x c l) := by
  have hbad : SameView s { s with ms := { s.ms with
      bad := s.ms.bad.filter (fun k => !((l.flatMap Line.dirty).contains k)) } } :=
    .of_noBad h ⟨by simp [h.1], h.2⟩ rfl rfl rfl rfl rfl
  exact (hbad.rset (by decide)).trans (State.charge_sameView ..)

theorem State.creelSector_sameView {s : State} (h : s.NoBad) (ctx c a : Nat) (w p na : Bool) :
    SameView s (s.creelSector ctx c a w p na) :=
  State.creelSector_keeps (P := SameView s) (fun _ _ _ _ k => k.trans (State.setLines_sameView (k.noBad h) ..))
    (fun _ _ k => k.rset (by decide)) (fun _ _ k => k.rset (by decide)) (fun _ _ _ k => k.trans (State.charge_sameView ..))
    (fun _ _ _ _ k => k.trans (State.writeBack_sameView (k.noBad h) ..)) (.refl s) ..

/-- Where no word is bad, an access leaves the address map, the translations and the memory. -/
theorem State.touch_sameView {s : State} (h : s.NoBad) (ctx a n : Nat) (w na : Bool) :
    SameView s (s.touch ctx a n w na) := by
  unfold State.touch
  split
  · split
    · exact .refl s
    · exact State.creelSector_sameView h ..
  · exact State.charge_sameView ..
  · split
    · exact .refl s
    · exact (SameView.refl s).rset (by decide)
  · exact (s.charge_sameView ctx 3 n).trans (.of_eq rfl rfl rfl rfl)
  · exact .refl s

/-! ### Reading and writing through a cached leaf -/

/-- A unit that translates by its own cache alone takes the cached leaf that the walk finds too (R527, R529). -/
theorem State.xlate_of_leaf {s : State} {rq : Rq} {va : Nat} {w : Bool} {l : TlbEnt} (hunit : rq.unit < 18)
    (hroot : s.rb R.ctxPtRootValid rq.ctx = true) (hl : s.leaf rq va = some l) (hw : (s.walk rq.ctx va w).2 = some l)
    (hmay : w = true → l.write = true) :
    s.xlate rq va w = ⟨s, stOk, l.pa + va % 2 ^ l.log2, l.noAlloc, some l⟩ := by
  have hva : va < 281474976710656 := by
    by_contra hbad
    rw [State.walk, if_pos (.inl (Nat.not_lt.mp hbad))] at hw
    cases hw
  have hcached : (smGetD s.ms.tlb rq.unit []).any (fun x => x.covers rq.ctx va) = true := by
    have hmem := List.find?_some hl
    have hin := List.mem_of_find?_eq_some hl
    simp only [Rq.caches, if_pos hunit, List.flatMap_cons, List.flatMap_nil, List.append_nil] at hin
    exact List.any_eq_true.mpr ⟨l, hin, hmem⟩
  have hperm : (w && !l.write) = false := by
    cases w <;> simp_all
  have hst : stClass stOk ≠ 3 := by decide
  simp [State.xlate, hva, hroot, hl, hw, State.useLeaf, hcached, TlbEnt.apply, hperm, State.countXlt, hst]

theorem mod_page_sector {p va k : Nat} (hp : p % 4096 = 0) (hk : 12 ≤ k) : (p + va % 2 ^ k) % 64 = va % 64 := by
  have hpage : 2 ^ 6 ∣ 2 ^ k := Nat.pow_dvd_pow 2 (by omega)
  have hmod : va % 2 ^ k % 64 = va % 64 := Nat.mod_mod_of_dvd va hpage
  omega

/-- A read of memory that a requester may make answers its bytes. -/
theorem State.placeRead_of_readableAt {s : State} {rq : Rq} {va n pa : Nat} (h : s.ReadableAt rq va n pa)
    (hunit : rq.unit < 18) :
    ∃ t, s.placeRead ⟨1, 0, rq, va⟩ 0 n = (t, .ok (s.bytes pa n)) ∧ SameView s t ∧ t.work = s.work := by
  obtain ⟨hroot, hn, hsector, ⟨l, hl, hw, hpage, hlog, rfl⟩, hst, hbad, hwords⟩ := h
  have hx := State.xlate_of_leaf hunit hroot hl hw (by simp)
  have hoff := mod_page_sector (va := va) hpage hlog
  have hspan : spans 4096 va n = [(va, n)] := spans_one hn (by omega)
  refine ⟨s.touch rq.ctx (l.pa + va % 2 ^ l.log2) n false l.noAlloc, ?_, State.touch_sameView ⟨hbad, hwords⟩ ..,
    s.touch_work ..⟩
  simp [State.placeRead, State.vread, hspan, vreadPieces, hx, State.pread_one _ _ _ _ _ hn (hoff ▸ hsector) hst]

/-- A write of memory that a requester may make stores its bytes. -/
theorem State.placeWrite_of_writableAt {s : State} {rq : Rq} {va pa : Nat} {bs : List Byte}
    (h : s.WritableAt rq va bs.length pa) (hunit : rq.unit < 18) :
    ∃ t, s.placeWrite ⟨1, 0, rq, va⟩ 0 bs = (t, .ok ()) ∧ Stored s t pa bs ∧ t.work = s.work := by
  obtain ⟨hroot, hn, hsector, ⟨l, hl, hw, hmay, hpage, hlog, rfl⟩, hst⟩ := h
  have hx := State.xlate_of_leaf hunit hroot hl hw (fun _ => hmay)
  have hoff := mod_page_sector (va := va) hpage hlog
  have hspan : spans 4096 va bs.length = [(va, bs.length)] := spans_one hn (by omega)
  have hone := s.pwrite_one rq.ctx _ bs l.noAlloc hn (hoff ▸ hsector) hst
  refine ⟨(s.pwrite rq.ctx (l.pa + va % 2 ^ l.log2) bs l.noAlloc).s, ?_,
    s.pwrite_one_byte _ _ _ _ hn (hoff ▸ hsector) hst, ?_⟩
  · simp [State.placeWrite, State.vwrite, hspan, vwritePieces, hx, hone]
  · rw [hone]
    simp

/-- A read of no bytes changes nothing. -/
theorem State.placeRead_nil (s : State) (rq : Rq) (va : Nat) : s.placeRead ⟨1, 0, rq, va⟩ 0 0 = (s, .ok []) := by
  simp [State.placeRead, State.vread, spans, spansF, vreadPieces]

end Sys2Proof.Machine
end

section
/-!
SUPPORT. The steps of collectives (R611 to R645): what posting, sending, starting, taking, completing and waiting do, a rule
for each command in each of its cases, and the obligation that these rules settle.
-/

namespace Sys2Proof.Machine

/-! ### Posted operations -/

@[simp] theorem State.setOps_byte (s : State) (c : Nat) (l : List CollOp) (a : Nat) :
    (s.setOps c l).byte a = s.byte a := rfl
@[simp] theorem State.setOps_ctxs (s : State) (c : Nat) (l : List CollOp) : (s.setOps c l).ctxs = s.ctxs := rfl
@[simp] theorem State.setOps_collOps_same (s : State) (c : Nat) (l : List CollOp) : (s.setOps c l).collOps c = l :=
  smGetD_smPut_same ..

@[simp] theorem State.setHead_headOp (s : State) (c : Nat) (o : CollOp) : (s.setHead c o).headOp c = some o := by
  rw [State.headOp, State.setHead, State.setOps_collOps_same, List.head?_cons]

@[simp] theorem State.noteEarly_coll (s : State) : s.noteEarly.coll = s.coll := rfl

theorem State.collOps_congr {s t : State} (h : t.coll = s.coll) (c : Nat) : t.collOps c = s.collOps c := by
  rw [State.collOps, State.collOps, h]

theorem State.headOp_congr {s t : State} (h : t.coll = s.coll) (c : Nat) : t.headOp c = s.headOp c := by
  rw [State.headOp, State.headOp, State.collOps_congr h]

theorem State.port_congr {s t : State} (h : t.wale = s.wale) (n : Nat) : t.port n = s.port n := by
  rw [State.port, State.port, h]

theorem State.setHead_sameView (s : State) (c : Nat) (o : CollOp) : SameView s (s.setHead c o) := by
  have hops : SameView s { s with coll := { s.coll with ops := smPut [] s.coll.ops c (o :: (s.collOps c).drop 1) } } :=
    .of_eq rfl rfl rfl rfl
  exact ((((hops.rset (by decide)).rset (by decide)).rset (by decide)).rset (by decide)).rset (by decide)

theorem State.noteEarly_sameView (s : State) : SameView s s.noteEarly :=
  ((((SameView.refl s).rset (by decide)).rset (by decide)).rset (by decide)).rset (by decide)

/-- Replacing the only started step. -/
theorem CollOp.setStep_of_single {o : CollOp} {x y : CollStep} (h : o.steps = [x]) (hy : y.step = x.step) :
    o.setStep y = { o with steps := [y] } := by
  simp [CollOp.setStep, h, hy]

/-- Nothing is held back from an operation whose context no regulator holds back (R187). -/
theorem State.gateColl_of_not_held {s : State} {c : Nat}
    (h : ∀ o, s.headOp c = some o → ∀ j, j < 4 → s.heldBack o.ctx j = false) (t : State) : s.gateColl c t = t := by
  unfold State.gateColl
  split
  · rfl
  · next o ho =>
    have hheld := h o ho
    have hreg : s.regulated t o.ctx = false := by
      simp [State.regulated, heldFlds, hheld]
    split
    · rfl
    · rw [State.gate, hreg, if_neg (by simp)]

/-! ### Sending (R626 to R629) -/

theorem coSize_pos (w : Nat) : 0 < coSize w := Nat.lt_of_lt_of_le Nat.one_pos (Nat.le_max_left ..)

@[simp] theorem State.length_bytes (s : State) (a n : Nat) : (s.bytes a n).length = n := by
  simp [State.bytes, upFrom_eq_range']

/-- The message that carries a transfer of a step from a port, with its bytes as they are (R627). -/
def State.collMessage (s : State) (o : CollOp) (x : CollStep) (t : CollXfer) (p : Nat) (bs : List Byte) : Msg :=
  ⟨s.wale.nextMsg, p, coChan o.words, s.rankModule (coGroup o.words) t.rank, s.ownId,
    collHeader o.words x.step (s.groupRank (coGroup o.words)) t.tree t.grant false t.first bs.length, bs, o.ctx,
    x.entry.isSome, 0, 0⟩

theorem SameView.collMessage {s t : State} (h : SameView s t) (hw : t.wale = s.wale) (o : CollOp) (x : CollStep)
    (r : CollXfer) (p : Nat) (bs : List Byte) : t.collMessage o x r p bs = s.collMessage o x r p bs := by
  simp only [State.collMessage, h.rankModule, h.ownId, h.groupRank, hw]

/-- z comes from s by putting a message out on a port; memory, collectives and the Round are as they were. -/
structure Sends (s z : State) (p : Nat) (m : Msg) : Prop where
  out : (z.port p).out = (s.port p).out ++ [m]
  mem : z.mem = s.mem
  coll : z.coll = s.coll
  rnd : z.rnd = s.rnd

theorem State.send_sends {s : State} {m : Msg} (h : m.dst ≠ s.ownId) :
    Sends s (s.send m).1 m.port { m with id := s.wale.nextMsg } ∧ (s.send m).2 = s.wale.nextMsg := by
  have hown : ¬m.dst = { s with wale := { s.wale with nextMsg := s.wale.nextMsg + 1 } }.ownId := h
  simp only [State.send, if_neg hown, and_true]
  exact ⟨by rw [State.setPort_port_same]; rfl, rfl, rfl, rfl⟩

/-- The working area from the first element of a transfer on. -/
def xferPlace (o : CollOp) (t : CollXfer) : Place :=
  ⟨1, 0, collRq o, workBase o.words + t.first * coSize o.words⟩

/-- The bytes of the working area that a transfer carries: none for a grant. -/
def xferBytes (o : CollOp) (t : CollXfer) : Nat := if t.grant then 0 else t.len * coSize o.words

/-- A transfer of a step may go whole, plain, from port p as the bytes bs: a grant, or elements that are there to be sent,
within the eager bytes, and that the engine may read (R628, R629). -/
structure State.MayGo (s : State) (o : CollOp) (x : CollStep) (t : CollXfer) (p : Nat) (bs : List Byte) : Prop where
  dst : s.rankModule (coGroup o.words) t.rank ≠ s.ownId
  route : s.route (s.rankModule (coGroup o.words) t.rank) = some p
  plain : (coPlait o.words && !t.grant) = false
  whole : t.grant = true ∧ t.len = 0 ∧ bs = [] ∨
    t.grant = false ∧ 0 < t.len ∧ t.len * coSize o.words ≤ s.rg R.collCfgEager 0 * 4096 ∧ s.sendable o x t = true ∧
      ∃ pa, s.ReadableAt (collRq o) (xferPlace o t).base (t.len * coSize o.words) pa ∧
        bs = s.bytes pa (t.len * coSize o.words)

/-- The requester of a channel's engine translates at a Border die (R615). -/
theorem collRq_unit_lt (o : CollOp) : (collRq o).unit < 18 :=
  Nat.add_lt_add_left (Nat.mod_lt _ Nat.two_pos) 16

/-- The bytes of a transfer that may go are read. -/
theorem State.MayGo.read {s : State} {o : CollOp} {x : CollStep} {t : CollXfer} {p : Nat} {bs : List Byte}
    (h : s.MayGo o x t p bs) :
    ∃ w, s.placeRead (xferPlace o t) 0 (xferBytes o t) = (w, .ok bs) ∧ SameView s w ∧ w.work = s.work := by
  rcases h.whole with ⟨hg, -, rfl⟩ | ⟨hg, -, -, -, pa, hread, rfl⟩
  · exact ⟨s, by rw [xferBytes, if_pos hg]; exact s.placeRead_nil .., .refl s, rfl⟩
  · rw [xferBytes, if_neg (by simp [hg])]
    exact State.placeRead_of_readableAt hread (collRq_unit_lt o)

theorem SameView.rangeReady {s t : State} (h : SameView s t) (o : CollOp) (f l : Nat) :
    t.rangeReady o f l = s.rangeReady o f l := by
  have hsrc : t.srcRange o.words = s.srcRange o.words := by
    simp only [State.srcRange, h.groupN, h.groupRank]
  unfold State.rangeReady
  dsimp only
  rw [hsrc]

theorem SameView.sendable {s t : State} (h : SameView s t) (o : CollOp) (x : CollStep) (r : CollXfer) :
    t.sendable o x r = s.sendable o x r := by
  simp only [State.sendable, h.plan, h.rangeReady]

theorem SameView.mayGo {s t : State} (h : SameView s t) {o : CollOp} {x : CollStep} {r : CollXfer} {p : Nat}
    {bs : List Byte} (hgo : s.MayGo o x r p bs) : t.MayGo o x r p bs where
  dst := by rw [h.rankModule, h.ownId]; exact hgo.dst
  route := by rw [h.rankModule, h.route]; exact hgo.route
  plain := hgo.plain
  whole := hgo.whole.imp_right fun ⟨hg, hl, hfit, hready, pa, hread, hbs⟩ =>
    ⟨hg, hl, by rwa [h.groups _ (by decide)], by rwa [h.sendable], pa, h.readableAt hread, by rwa [h.bytes]⟩

/-- A grant may go once its rank has a route. -/
theorem State.mayGo_grant {s : State} {o : CollOp} {k p : Nat} (hdst : s.rankModule (coGroup o.words) k ≠ s.ownId)
    (hroute : s.route (s.rankModule (coGroup o.words) k) = some p) (x : CollStep) (tr : Nat) :
    s.MayGo o x ⟨k, tr, 0, 0, true⟩ p [] :=
  ⟨hdst, hroute, Bool.and_false _, .inl ⟨rfl, rfl, rfl⟩⟩

/-- Elements of a halving channel may go once they are ready, within the eager bytes. -/
theorem State.mayGo_elements {s : State} {o : CollOp} {k p f l pa : Nat}
    (hdst : s.rankModule (coGroup o.words) k ≠ s.ownId) (hroute : s.route (s.rankModule (coGroup o.words) k) = some p)
    (hchan : 4 ≤ coChan o.words) (hplait : coPlait o.words = false) (hl : 0 < l)
    (hfit : l * coSize o.words ≤ s.rg R.collCfgEager 0 * 4096) (hready : s.rangeReady o f l = true)
    (hread : s.ReadableAt (collRq o) (workBase o.words + f * coSize o.words) (l * coSize o.words) pa) (x : CollStep)
    (tr : Nat) : s.MayGo o x ⟨k, tr, f, l, false⟩ p (s.bytes pa (l * coSize o.words)) where
  dst := hdst
  route := hroute
  plain := by rw [hplait]; rfl
  whole := by
    have hsend : s.sendable o x ⟨k, tr, f, l, false⟩ = true := by
      simp [State.sendable, hready, Nat.not_lt.mpr hchan]
    exact .inr ⟨rfl, hl, hfit, hsend, pa, hread, rfl⟩

/-- A transfer that may go leaves as one message. -/
theorem State.sendColl_of_mayGo {s : State} {o : CollOp} {x : CollStep} {t : CollXfer} {p : Nat} {bs : List Byte}
    (h : s.MayGo o x t p bs) :
    ∃ z, s.sendColl o x t = (z, .ok (some s.wale.nextMsg)) ∧ Sends s z p (s.collMessage o x t p bs) := by
  obtain ⟨w, hread, hview, hwork⟩ := h.read
  have hwale := State.wale_of_work hwork
  let m : Msg := ⟨0, p, coChan o.words, s.rankModule (coGroup o.words) t.rank, w.ownId,
    collHeader o.words x.step (w.groupRank (coGroup o.words)) t.tree t.grant false t.first bs.length, bs, o.ctx,
    x.entry.isSome, 0, 0⟩
  obtain ⟨⟨hout, hmem, hcoll, hrnd⟩, hid⟩ := w.send_sends (m := m) (hview.ownId ▸ h.dst)
  have hm : { m with id := w.wale.nextMsg } = s.collMessage o x t p bs := by
    simp only [m, State.collMessage, hwale, hview.ownId, hview.groupRank]
  have hsends : Sends s (w.send m).1 p (s.collMessage o x t p bs) :=
    ⟨by rw [hout, hm, State.port_congr hwale], hmem.trans hview.mem, hcoll.trans (State.coll_of_work hwork),
      hrnd.trans (State.rnd_of_work hwork)⟩
  have hid' : (w.send m).2 = s.wale.nextMsg := hid.trans (congrArg WaleSt.nextMsg hwale)
  refine ⟨if 16 ≤ p ∨ portNode p = 16 + coChan o.words % 2 then (w.send m).1 else
    (w.send m).1.emit (.mesh (meshRoute (16 + coChan o.words % 2) (portNode p) (.coll (coChan o.words)))), ?_, ?_⟩
  · simp only [xferPlace, xferBytes] at hread
    simp only [State.sendColl, if_neg h.dst, h.route, hread, h.plain, State.wrap, Bool.false_eq_true, if_false, hid', m]
  · split
    · exact hsends
    · exact ⟨hsends.out, hsends.mem, hsends.coll, hsends.rnd⟩

/-- The registers of a channel once a wait has ended (R641, R645). -/
def State.noteWait (s : State) (c wait : Nat) : State :=
  let t := s.radd R.collChanWaitRounds c wait
  t.rset R.collChanWaitMaxRounds c (max wait (t.rg R.collChanWaitMaxRounds c))

theorem State.progress_eq (s : State) (c : Nat) (o : CollOp) (x : CollStep) :
    s.progress c o x = (s.noteWait c (s.beat - x.last), { o with maxWait := max o.maxWait (s.beat - x.last) },
      { x with last := s.beat }) := rfl

/-- An operation once a transfer of its step has gone. -/
def CollOp.afterSend (o : CollOp) (s : State) (x : CollStep) : CollOp :=
  { o with ids := o.ids ++ [s.wale.nextMsg], maxWait := max o.maxWait (s.beat - x.last) }

/-- No Round has passed since the step's last progress, and no wait counts. -/
theorem CollOp.afterSend_of_last {o : CollOp} {s : State} {x : CollStep} (h : x.last = s.beat) :
    o.afterSend s x = { o with ids := o.ids ++ [s.wale.nextMsg] } := by
  simp [CollOp.afterSend, h]

/-- A step once its only transfer has gone whole. -/
def CollStep.afterSend (x : CollStep) (s : State) (o : CollOp) (t : CollXfer) : CollStep :=
  { x with last := s.beat, todo := [], sent := smSet x.sent t.rank (xferBytes o t) }

/-- The only transfer that a step has to send goes whole. -/
theorem State.pumpList_single {s : State} {c : Nat} {o : CollOp} {x : CollStep} {t : CollXfer} {p : Nat} {bs : List Byte}
    (h : s.MayGo o { x with todo := [] } t p bs) (hsent : x.sent = []) :
    ∃ u, s.pumpList c [t] [] o { x with todo := [] } = (u, o.afterSend s x, x.afterSend s o t, none) ∧
      Sends s u p (s.collMessage o x t p bs) := by
  obtain ⟨z, hsend, hz⟩ := State.sendColl_of_mayGo h
  have hbeat : z.beat = s.beat := congrArg RoundSt.beats hz.rnd
  have hgone : ∀ k, smGetD x.sent k 0 = 0 := fun _ => by rw [hsent]; rfl
  refine ⟨z.noteWait c (s.beat - x.last), ?_, ⟨hz.out, hz.mem, hz.coll, hz.rnd⟩⟩
  obtain ⟨k, tr, f, l, g⟩ := t
  rcases h.whole with ⟨hg, hl, -⟩ | ⟨hg, hl, hfit, hready, -⟩
  · obtain rfl : g = true := hg
    obtain rfl : l = 0 := hl
    simp [State.pumpList, hsend, State.progress_eq, hbeat, CollOp.afterSend, CollStep.afterSend, xferBytes, hgone]
  · obtain rfl : g = false := hg
    have hroom : min l (s.rg R.collCfgEager 0 * 4096 / coSize o.words) = l :=
      Nat.min_eq_left ((Nat.le_div_iff_mul_le (coSize_pos _)).mpr hfit)
    have hne : l ≠ 0 := Nat.ne_of_gt hl
    simp [State.pumpList, hsend, State.progress_eq, hbeat, CollOp.afterSend, CollStep.afterSend, xferBytes, hgone,
      hroom, hne, hready]

/-- The only started step of a channel's head operation is pumped alone. -/
theorem State.pump_of_single {s z : State} {c : Nat} {o o' : CollOp} {x y : CollStep} (hhead : s.headOp c = some o)
    (hsteps : o.steps = [x]) (hpump : s.pumpList c x.todo [] o { x with todo := [] } = (z, o', y, none)) :
    s.pump c = z.setHead c (o'.setStep y) := by
  simp [State.pump, hhead, hsteps, hpump]

/-- A channel whose only started step has nothing to send stays as it is. -/
theorem State.pump_of_idle {s : State} {c : Nat} {o : CollOp} {x : CollStep} (hhead : s.headOp c = some o)
    (hsteps : o.steps = [x]) (htodo : x.todo = []) : s.pump c = s.setHead c o := by
  have hx : { x with todo := [] } = x := by rw [← htodo]
  have ho : o.setStep x = o := by rw [CollOp.setStep_of_single hsteps rfl, ← hsteps]
  rw [State.pump_of_single hhead hsteps (z := s) (o' := o) (y := x) (by rw [htodo, hx]; rfl), ho]

/-- The only started step of a channel sends its only transfer. -/
theorem State.pump_sends {s : State} {c : Nat} {o : CollOp} {x : CollStep} {t : CollXfer} {p : Nat} {bs : List Byte}
    (hhead : s.headOp c = some o) (hsteps : o.steps = [x]) (htodo : x.todo = [t]) (hsent : x.sent = [])
    (hgo : s.MayGo o { x with todo := [] } t p bs) :
    (s.pump c).headOp c = some { o.afterSend s x with steps := [x.afterSend s o t] } ∧
      ((s.pump c).port p).out = (s.port p).out ++ [s.collMessage o x t p bs] ∧ (s.pump c).mem = s.mem := by
  obtain ⟨u, hlist, hu⟩ := State.pumpList_single (c := c) hgo hsent
  rw [State.pump_of_single hhead hsteps (htodo ▸ hlist), State.setHead_headOp]
  exact ⟨congrArg some (CollOp.setStep_of_single (o := o.afterSend s x) hsteps rfl), hu.out, hu.mem⟩

/-! ### Starting a step (R618, R630) -/

/-- The contribution of an operation is in its working area already: it has been copied, is fed, or src is the working
area (R630, R636). -/
def CollOp.InPlace (o : CollOp) : Prop :=
  o.begun = true ∨ coFed o.words = true ∨ coKind o.words = 1 ∨ (coKind o.words = 0 ∧ coSrc o.words = coDst o.words)

theorem State.copyIn_of_src_eq_workBase {s : State} {o : CollOp} (n : Nat)
    (h : coKind o.words = 1 ∨ (coKind o.words = 0 ∧ coSrc o.words = coDst o.words)) : s.copyIn o 0 n = (s, .ok ()) := by
  have hkind : coKind o.words ≠ 2 := by omega
  have hbase : coSrc o.words = workBase o.words := by
    rcases h with h | ⟨h, heq⟩ <;> simp [workBase, *]
  simp [State.copyIn, State.engineCopy, hkind, hbase]

/-- A step of an operation whose contribution is in place starts without a copy. -/
theorem State.contribution_of_inPlace {s : State} {o : CollOp} (h : o.InPlace) :
    (if o.begun = true ∨ coFed o.words = true then (s, .ok ()) else s.copyIn o 0 (s.srcBytes o.words)) = (s, .ok ()) := by
  split
  · rfl
  · next hnot =>
    obtain h | h | h := h
    · exact absurd (.inl h) hnot
    · exact absurd (.inr h) hnot
    · exact State.copyIn_of_src_eq_workBase _ h

/-- An operation whose next step has started. -/
def CollOp.advance (o : CollOp) : CollOp := { o with begun := true, next := o.next + 1 }

/-- What a started step has to send: a grant to each rank that it expects from, then its elements, cut into messages
(R628, R629). -/
def planTodo (b : Nat) (pl : StepPlan) : List CollXfer :=
  pl.wants.foldl (fun (l : List CollXfer) v =>
    if l.any (fun t => t.rank == v.1) then l else l ++ [⟨v.1, v.2.1, 0, 0, true⟩]) [] ++
  pl.sends.flatMap (fun v => (cutRanges b v.2.2).map (fun q => ⟨v.1, v.2.1, q.1, q.2, false⟩))

/-- What a started step expects. -/
def planWant (pl : StepPlan) : List CollWant :=
  pl.wants.map (fun v => ⟨v.1, v.2.1, (v.2.2.1.headD (0, 0)).1, (v.2.2.1.map Prod.snd).sum, 0, v.2.2.2⟩)

/-- The next step of an operation as it starts on a channel that is not scheduled. -/
def State.nextStep (s : State) (o : CollOp) : CollStep :=
  ⟨o.next, s.beat, s.beat, none, planTodo (coSize o.words) (s.plan o.words o.next), planWant (s.plan o.words o.next),
    [], [], []⟩

theorem State.startStep_of_nothing {s : State} {c : Nat} {o : CollOp} (hin : o.InPlace)
    (hplan : s.plan o.words o.next = ⟨[], []⟩) : s.startStep c o none = s.setHead c o.advance := by
  unfold State.startStep
  simp only [State.contribution_of_inPlace hin, hplan]
  rfl

/-- The state in which the next step of a channel's head operation, its only one, has started. -/
def State.begunStep (s : State) (c : Nat) (o : CollOp) : State :=
  (s.setHead c { o.advance with steps := [s.nextStep o] }).noteEarly

/-- An early message of the next step of a channel's operation. -/
def ofStep (c : Nat) (o : CollOp) (m : Msg) : Bool :=
  m.vc == c && cmGroup m.header == coGroup o.words && cmSeq m.header == coSeq o.words && cmStep m.header == o.next

/-- The early messages of the next step of a channel's operation leave the early-arrival buffer (R637). -/
def State.dropOfStep (s : State) (c : Nat) (o : CollOp) : State :=
  { s with coll := { s.coll with early := s.coll.early.filter (fun m => !ofStep c o m) } }

theorem State.dropOfStep_of_none {s : State} {c : Nat} {o : CollOp} (h : ∀ m ∈ s.coll.early, ofStep c o m = false) :
    s.dropOfStep c o = s := by
  have hall : s.coll.early.filter (fun m => !ofStep c o m) = s.coll.early :=
    List.filter_eq_self.mpr (fun m hm => by simp [h m hm])
  rw [State.dropOfStep, hall]

/-- A step with something to do starts, and sends what it may; no early message of the channel waits for it. -/
theorem State.startStep_of_something {s : State} {c : Nat} {o : CollOp} (hin : o.InPlace) (hsteps : o.steps = [])
    (hearly : ∀ m ∈ s.coll.early, m.vc ≠ c)
    (hplan : ¬((s.plan o.words o.next).sends.isEmpty ∧ (s.plan o.words o.next).wants.isEmpty)) :
    s.startStep c o none = (s.begunStep c o).pump c := by
  have hmine : ∀ m ∈ s.coll.early, ofStep c o m = false := fun m hm => by simp [ofStep, hearly m hm]
  have hnone : s.coll.early.filter (ofStep c o) = [] := List.filter_eq_nil_iff.mpr (fun m hm => by simp [hmine m hm])
  unfold State.startStep
  simp only [State.contribution_of_inPlace hin, if_neg hplan, hsteps, List.nil_append]
  show (List.foldl _ (((s.setHead c { o.advance with steps := [s.nextStep o] }).dropOfStep c o).noteEarly)
    (s.coll.early.filter (ofStep c o))).pump c = _
  rw [hnone, List.foldl_nil, State.dropOfStep_of_none (s := s.setHead c _) hmine]
  rfl

/-- Steps start until one has something to do, or the last has passed. -/
theorem State.startSteps_of_one {s : State} {c fuel : Nat} {o o' : CollOp} (hhead : s.headOp c = some o)
    (hsteps : o.steps = []) (hnext : o.next ≤ s.lastStep o.words) (hhead' : (s.startStep c o none).headOp c = some o')
    (hstop : o'.steps ≠ [] ∨ (s.startStep c o none).lastStep o'.words < o'.next) :
    s.startSteps c (fuel + 2) = s.startStep c o none := by
  have hgo : ¬(¬o.steps.isEmpty = true ∨ s.lastStep o.words < o.next) := by
    simp [hsteps, hnext]
  have hdone : ¬o'.steps.isEmpty = true ∨ (s.startStep c o none).lastStep o'.words < o'.next := by
    simpa using hstop
  simp only [State.startSteps, hhead, if_neg hgo, hhead', if_pos hdone]

theorem State.begunStep_sameView (s : State) (c : Nat) (o : CollOp) : SameView s (s.begunStep c o) :=
  (s.setHead_sameView c _).trans (State.noteEarly_sameView _)

@[simp] theorem State.begunStep_wale (s : State) (c : Nat) (o : CollOp) : (s.begunStep c o).wale = s.wale := rfl
@[simp] theorem State.begunStep_headOp (s : State) (c : Nat) (o : CollOp) :
    (s.begunStep c o).headOp c = some { o.advance with steps := [s.nextStep o] } :=
  (State.headOp_congr (State.noteEarly_coll _) c).trans (State.setHead_headOp ..)

/-- A plan that only expects from one rank makes a grant to it. -/
theorem planTodo_want (b k tr : Nat) (rs : List (Nat × Nat)) (add : Bool) :
    planTodo b ⟨[], [(k, tr, rs, add)]⟩ = [⟨k, tr, 0, 0, true⟩] := rfl

/-- Elements that fit a message are not cut. -/
theorem cutRanges_single {b f l : Nat} (hl : 0 < l) (h : l ≤ 65536 / b) : cutRanges b [(f, l)] = [(f, l)] := by
  have hone : cdiv l (65536 / b) = 1 := by
    rw [cdiv]
    exact Nat.div_eq_of_lt_le (by omega) (by omega)
  simp [cutRanges, hone, below, upFrom, h]

theorem planTodo_send {b : Nat} (k tr : Nat) {f l : Nat} (hl : 0 < l) (h : l ≤ 65536 / b) :
    planTodo b ⟨[(k, tr, [(f, l)])], []⟩ = [⟨k, tr, f, l, false⟩] := by
  simp [planTodo, cutRanges_single hl h]

section
variable {s : State} {c : Nat} {o : CollOp} (hc : c < 32) (hhead : s.headOp c = some o)
  (hheld : ∀ j, j < 4 → s.heldBack o.ctx j = false)

section
include hhead hheld

/-- A channel's head operation whose context is not held back holds nothing back. -/
theorem State.gateColl_of_head (t : State) : s.gateColl c t = t :=
  State.gateColl_of_not_held (fun o' ho' => by
    obtain rfl : o = o' := by simpa [hhead] using ho'
    exact hheld) t

end

variable (hsched : s.rb R.collChanCfgScheduled c = false) (hsteps : o.steps = [])
  (hnext : o.next ≤ s.lastStep o.words) (hin : o.InPlace)
include hc hhead hheld hsched hsteps hnext

theorem exec_collStepStart_of_startStep {o' : CollOp} (hhead' : (s.startStep c o none).headOp c = some o')
    (hstop : o'.steps ≠ [] ∨ (s.startStep c o none).lastStep o'.words < o'.next) :
    exec (.collStepStart c) s = .next (s.startStep c o none) := by
  have hgo : ¬(32 ≤ c ∨ s.rb R.collChanCfgScheduled c = true) := by
    simp [hsched, hc]
  show execCollStepStart c s = _
  rw [execCollStepStart, if_neg hgo, State.startSteps_of_one hhead hsteps hnext hhead' hstop,
    State.gateColl_of_head hhead hheld]

include hin

/-- The last step of an operation, with nothing to do, passes at once (R621). -/
theorem exec_collStepStart_of_nothing (hplan : s.plan o.words o.next = ⟨[], []⟩) (hlast : o.next = s.lastStep o.words) :
    exec (.collStepStart c) s = .next (s.setHead c o.advance) := by
  have hstart := State.startStep_of_nothing (c := c) hin hplan
  have hpast : (s.startStep c o none).lastStep o.advance.words < o.advance.next := by
    rw [hstart, (s.setHead_sameView c _).lastStep]
    exact Nat.lt_succ_of_le hlast.ge
  rw [exec_collStepStart_of_startStep hc hhead hheld hsched hsteps hnext (by rw [hstart, State.setHead_headOp])
    (.inr hpast), hstart]

/-- A step whose plan makes one transfer, which may go, starts and sends it. -/
theorem exec_collStepStart_of_transfer (hearly : ∀ m ∈ s.coll.early, m.vc ≠ c) {t : CollXfer} {p : Nat} {bs : List Byte}
    (hplan : ¬((s.plan o.words o.next).sends.isEmpty ∧ (s.plan o.words o.next).wants.isEmpty))
    (htodo : planTodo (coSize o.words) (s.plan o.words o.next) = [t])
    (hgo : s.MayGo { o.advance with steps := [s.nextStep o] } { s.nextStep o with todo := [] } t p bs) :
    ∃ u, exec (.collStepStart c) s = .next u ∧
      u.headOp c = some { o with
        begun := true, next := o.next + 1, steps := [(s.nextStep o).afterSend s o t],
        ids := o.ids ++ [s.wale.nextMsg] } ∧
      (u.port p).out = (s.port p).out ++ [s.collMessage o (s.nextStep o) t p bs] ∧ u.mem = s.mem := by
  have hstart := State.startStep_of_something hin hsteps hearly hplan
  have hview := s.begunStep_sameView c o
  obtain ⟨hhead1, hout, hmem⟩ := State.pump_sends (s.begunStep_headOp c o) rfl htodo rfl (hview.mayGo hgo)
  rw [CollOp.afterSend_of_last rfl, State.begunStep_wale] at hhead1
  rw [State.port_congr (s.begunStep_wale c o), hview.collMessage (s.begunStep_wale c o)] at hout
  rw [← hstart] at hhead1 hout hmem
  exact ⟨_, exec_collStepStart_of_startStep hc hhead hheld hsched hsteps hnext hhead1 (.inl (by simp)), hhead1, hout,
    hmem⟩

/-- A step that only expects from one rank sends its grant (R629). -/
theorem exec_collStepStart_grant (hearly : ∀ m ∈ s.coll.early, m.vc ≠ c) {k tr p : Nat} {rs : List (Nat × Nat)}
    {add : Bool} (hplan : s.plan o.words o.next = ⟨[], [(k, tr, rs, add)]⟩)
    (hdst : s.rankModule (coGroup o.words) k ≠ s.ownId) (hroute : s.route (s.rankModule (coGroup o.words) k) = some p) :
    ∃ (u : State) (x : CollStep), exec (.collStepStart c) s = .next u ∧
      u.headOp c = some { o with begun := true, next := o.next + 1, steps := [x], ids := o.ids ++ [s.wale.nextMsg] } ∧
      x.step = o.next ∧ x.start = s.beat ∧ x.last = s.beat ∧ x.todo = [] ∧
      x.want = [⟨k, tr, (rs.headD (0, 0)).1, (rs.map Prod.snd).sum, 0, add⟩] ∧
      (u.port p).out = (s.port p).out ++ [s.collMessage o (s.nextStep o) ⟨k, tr, 0, 0, true⟩ p []] ∧ u.mem = s.mem := by
  obtain ⟨u, hexec, hop, hsent⟩ := exec_collStepStart_of_transfer hc hhead hheld hsched hsteps hnext hin hearly
    (by simp [hplan]) (by rw [hplan, planTodo_want])
    (State.mayGo_grant (o := { o.advance with steps := [s.nextStep o] }) hdst hroute _ tr)
  have hwant : (s.nextStep o).want = planWant ⟨[], [(k, tr, rs, add)]⟩ := congrArg planWant hplan
  exact ⟨u, _, hexec, hop, rfl, rfl, rfl, rfl, hwant, hsent⟩

/-- A step of a halving channel that only sends to one rank sends its elements from the working area (R630). -/
theorem exec_collStepStart_elements (hearly : ∀ m ∈ s.coll.early, m.vc ≠ c) {k tr f l p pa : Nat}
    (hchan : 4 ≤ coChan o.words) (hfed : coFed o.words = false) (hplait : coPlait o.words = false)
    (hplan : s.plan o.words o.next = ⟨[(k, tr, [(f, l)])], []⟩) (hl : 0 < l)
    (hfit : l * coSize o.words ≤ s.rg R.collCfgEager 0 * 4096)
    (hdst : s.rankModule (coGroup o.words) k ≠ s.ownId) (hroute : s.route (s.rankModule (coGroup o.words) k) = some p)
    (hread : s.ReadableAt (collRq o) (workBase o.words + f * coSize o.words) (l * coSize o.words) pa) :
    ∃ (u : State) (x : CollStep), exec (.collStepStart c) s = .next u ∧
      u.headOp c = some { o with begun := true, next := o.next + 1, steps := [x], ids := o.ids ++ [s.wale.nextMsg] } ∧
      x.step = o.next ∧ x.todo = [] ∧ x.want = [] ∧
      (u.port p).out = (s.port p).out ++
        [s.collMessage o (s.nextStep o) ⟨k, tr, f, l, false⟩ p (s.bytes pa (l * coSize o.words))] ∧ u.mem = s.mem := by
  have hcut : l ≤ 65536 / coSize o.words := by
    obtain ⟨-, -, hsector, -⟩ := hread
    exact (Nat.le_div_iff_mul_le (coSize_pos _)).mpr (by omega)
  have hready : s.rangeReady { o.advance with steps := [s.nextStep o] } f l = true := by
    simp [State.rangeReady, CollOp.advance, hfed]
  obtain ⟨u, hexec, hop, hsent⟩ := exec_collStepStart_of_transfer hc hhead hheld hsched hsteps hnext hin hearly
    (by simp [hplan]) (by rw [hplan, planTodo_send k tr hl hcut])
    (State.mayGo_elements (o := { o.advance with steps := [s.nextStep o] }) hdst hroute hchan hplait hl hfit hready hread _
      tr)
  have hwant : (s.nextStep o).want = planWant ⟨[(k, tr, [(f, l)])], []⟩ := congrArg planWant hplan
  exact ⟨u, _, hexec, hop, rfl, rfl, hwant, hsent⟩

end

/-! ### Ready elements (R636) -/

theorem mem_below {n x : Nat} : x ∈ below n ↔ x < n := by
  simp [below_eq_range]

theorem State.applyHeld_of_no_held {s : State} {c : Nat} {o : CollOp} {x : CollStep} (hhead : s.headOp c = some o)
    (hsteps : o.steps = [x]) (hheld : x.held = []) (fuel : Nat) : s.applyHeld c fuel = s := by
  cases fuel with
  | zero => rfl
  | succ fuel => simp [State.applyHeld, hhead, hsteps, hheld]

/-- Elements of the first sending step of a fed operation whose units are not ready are not sent (R636). -/
theorem State.sendable_of_not_ready {s : State} {o : CollOp} {x : CollStep} {t : CollXfer}
    (hready : s.rangeReady o t.first t.len = false) (hfirst : ∀ i, i < x.step → (s.plan o.words i).sends = []) :
    s.sendable o x t = false := by
  have hall : (below x.step).all (fun k => (s.plan o.words k).sends.isEmpty) = true :=
    List.all_eq_true.mpr fun k hk => by rw [hfirst k (mem_below.mp hk)]; rfl
  simp only [State.sendable, hall, hready]
  rfl

/-- A transfer that is not there to be sent stays, and nothing changes. -/
theorem State.pumpList_of_not_sendable {s : State} {c : Nat} {o : CollOp} {x : CollStep} {t : CollXfer}
    (htodo : x.todo = [t]) (hg : t.grant = false) (hsent : x.sent = [])
    (hfit : t.len * coSize o.words ≤ s.rg R.collCfgEager 0 * 4096) (hnot : s.sendable o { x with todo := [] } t = false) :
    s.pumpList c x.todo [] o { x with todo := [] } = (s, o, x, none) := by
  have hgone : smGetD x.sent t.rank 0 = 0 := by rw [hsent]; rfl
  have hroom : min t.len (s.rg R.collCfgEager 0 * 4096 / coSize o.words) = t.len :=
    Nat.min_eq_left ((Nat.le_div_iff_mul_le (coSize_pos _)).mpr hfit)
  have hx : { x with todo := [t] } = x := by rw [← htodo]
  obtain ⟨k, tr, f, l, g⟩ := t
  obtain rfl : g = false := hg
  simp [State.pumpList, htodo, hgone, hroom, hnot, hx]

section
variable {s : State} {c : Nat} {o : CollOp} (hhead : s.headOp c = some o)
  (hheld : ∀ j, j < 4 → s.heldBack o.ctx j = false)
include hhead hheld

theorem exec_collReadySend_of_single {x : CollStep} (hsteps : o.steps = [x]) (hempty : x.held = []) :
    exec (.collReadySend c) s = .next (s.pump c) := by
  show execCollReadySend c s = _
  rw [execCollReadySend, State.applyHeld_of_no_held hhead hsteps hempty, State.gateColl_of_head hhead hheld]

/-- A fed operation whose units are not ready sends nothing (R636). -/
theorem exec_collReadySend_of_not_ready {x : CollStep} {t : CollXfer} (hsteps : o.steps = [x]) (hempty : x.held = [])
    (htodo : x.todo = [t]) (hg : t.grant = false) (hsent : x.sent = [])
    (hfit : t.len * coSize o.words ≤ s.rg R.collCfgEager 0 * 4096)
    (hready : s.rangeReady o t.first t.len = false) (hfirst : ∀ i, i < x.step → (s.plan o.words i).sends = []) :
    exec (.collReadySend c) s = .next (s.setHead c o) := by
  have hlist := State.pumpList_of_not_sendable (c := c) htodo hg hsent hfit
    (State.sendable_of_not_ready (x := { x with todo := [] }) hready hfirst)
  have ho : o.setStep x = o := by rw [CollOp.setStep_of_single hsteps rfl, ← hsteps]
  rw [exec_collReadySend_of_single hhead hheld hsteps hempty, State.pump_of_single hhead hsteps hlist, ho]

/-- A fed operation sends elements once their units are ready (R636). -/
theorem exec_collReadySend_elements {x : CollStep} {k tr f l p pa : Nat} (hsteps : o.steps = [x]) (hempty : x.held = [])
    (htodo : x.todo = [⟨k, tr, f, l, false⟩]) (hsent : x.sent = []) (hchan : 4 ≤ coChan o.words)
    (hplait : coPlait o.words = false) (hl : 0 < l) (hfit : l * coSize o.words ≤ s.rg R.collCfgEager 0 * 4096)
    (hdst : s.rankModule (coGroup o.words) k ≠ s.ownId) (hroute : s.route (s.rankModule (coGroup o.words) k) = some p)
    (hready : s.rangeReady o f l = true)
    (hread : s.ReadableAt (collRq o) (workBase o.words + f * coSize o.words) (l * coSize o.words) pa) :
    ∃ u, exec (.collReadySend c) s = .next u ∧
      (u.port p).out = (s.port p).out ++
        [s.collMessage o x ⟨k, tr, f, l, false⟩ p (s.bytes pa (l * coSize o.words))] ∧
      (∀ o' y, u.headOp c = some o' → y ∈ o'.steps → y.todo = []) ∧ u.mem = s.mem := by
  obtain ⟨hop, hout, hmem⟩ := State.pump_sends hhead hsteps htodo hsent
    (State.mayGo_elements hdst hroute hchan hplait hl hfit hready hread { x with todo := [] } tr)
  refine ⟨_, exec_collReadySend_of_single hhead hheld hsteps hempty, hout, fun o' y ho' hy => ?_, hmem⟩
  obtain rfl : _ = o' := by simpa [hop] using ho'
  obtain rfl : y = _ := by simpa using hy
  rfl

/-! ### Completing steps and operations (R617, R632) -/

/-- The end of an operation's last step ends the operation. -/
theorem exec_collStepComplete_of_last (hsteps : o.steps = []) (hlast : s.lastStep o.words < o.next)
    (hids : ∀ id ∈ o.ids, s.accepted id = true) (hsrc : s.srcReady o = true) :
    exec (.collStepComplete c) s = .next (s.endColl c o) := by
  show execCollStepComplete c s = _
  have hend : o.steps.isEmpty = true ∧ s.lastStep o.words < o.next ∧ o.ids.all (fun id => s.accepted id) = true ∧
      s.srcReady o = true := ⟨by rw [hsteps]; rfl, hlast, List.all_eq_true.mpr hids, hsrc⟩
  simp only [execCollStepComplete, hhead, hsteps, List.find?_nil]
  rw [hsteps] at hend
  rw [if_pos hend, State.gateColl_of_head hhead hheld]

end

/-- The end of an operation in the state that its copy to dst leaves (R632). -/
def State.retireColl (s : State) (c : Nat) (o : CollOp) : State :=
  (((s.setOps c ((s.collOps c).drop 1)).radd R.collChanOpsCount c 1).radd R.collGroupSeqCompleted
    (coGroup o.words) 1).finish o.ctx o.ring o.slot ⟨0, o.maxWait, 0⟩

@[simp] theorem State.retireColl_byte (s : State) (c : Nat) (o : CollOp) (a : Nat) :
    (s.retireColl c o).byte a = s.byte a := by
  rw [State.retireColl, State.finish_byte, State.radd_byte, State.radd_byte, State.setOps_byte]

@[simp] theorem State.retireColl_collOps (s : State) (c : Nat) (o : CollOp) :
    (s.retireColl c o).collOps c = (s.collOps c).drop 1 := by
  rw [State.retireColl, State.collOps, State.finish_coll, State.radd_coll, State.radd_coll]
  exact s.setOps_collOps_same c _

/-- A rank that keeps no segment, or an operation that is no SUM_SCATTER, copies nothing at its end (R607). -/
theorem State.endColl_of_no_copy {s : State} {o : CollOp} (c : Nat)
    (h : coKind o.words ≠ 1 ∨ 2 ^ Nat.log2 (s.groupN (coGroup o.words)) ≤ s.groupRank (coGroup o.words)) :
    s.endColl c o = s.retireColl c o := by
  have hno : ¬(coKind o.words = 1 ∧
      decide (s.groupRank (coGroup o.words) < 2 ^ Nat.log2 (s.groupN (coGroup o.words))) = true) := by
    rw [decide_eq_true_eq]
    omega
  simp only [State.endColl, if_neg hno]
  rfl

/-- The end of an operation ends its packet's job, which other work leaves as it was. -/
theorem State.retireColl_ctx {s t : State} (h : t.work = s.work) (c : Nat) (o : CollOp) :
    (t.retireColl c o).ctx o.ctx = (s.finish o.ctx o.ring o.slot ⟨0, o.maxWait, 0⟩).ctx o.ctx := by
  have hctx : (((t.setOps c ((t.collOps c).drop 1)).radd R.collChanOpsCount c 1).radd R.collGroupSeqCompleted
      (coGroup o.words) 1).ctx o.ctx = s.ctx o.ctx := by
    rw [State.ctx, State.radd_ctxs, State.radd_ctxs, State.setOps_ctxs, State.ctxs_of_work h, State.ctx]
  rw [State.retireColl, State.finish, State.finish, State.setCtx_ctx_same, State.setCtx_ctx_same, hctx]

/-- An engine's copy between places it may read and write stores the bytes, after which the work goes on. -/
theorem State.engineCopy_of_access {s : State} {rq : Rq} {src dst n pa pb : Nat} (hunit : rq.unit < 18) (hne : src ≠ dst)
    (hr : s.ReadableAt rq src n pa) (hw : s.WritableAt rq dst n pb) :
    ∃ t, s.engineCopy rq src dst n = (t, .ok ()) ∧ Stored s t pb (s.bytes pa n) ∧ t.work = s.work := by
  obtain ⟨u, hread, hview, hwork⟩ := State.placeRead_of_readableAt hr hunit
  have hlen : (s.bytes pa n).length = n := s.length_bytes pa n
  obtain ⟨t, hwrite, hstored, hwork'⟩ :=
    State.placeWrite_of_writableAt (hlen.symm ▸ hview.writableAt hw : u.WritableAt rq dst (s.bytes pa n).length pb) hunit
  have hn : n ≠ 0 := Nat.ne_of_gt hr.2.1
  refine ⟨t, ?_, ⟨hstored.1, fun x hx => (hstored.2 x hx).trans (State.byte_congr ⟨hview.mem, hview.imgBase⟩ x)⟩,
    hwork'.trans hwork⟩
  simp [State.engineCopy, hne, hn, hread, Got.next, hwrite]

/-- The segment of a SUM_SCATTER is copied to dst before the operation ends (R607, R632). -/
theorem State.endColl_of_copy {s t : State} {o : CollOp} (c : Nat) (hkind : coKind o.words = 1)
    (hcore : s.groupRank (coGroup o.words) < 2 ^ Nat.log2 (s.groupN (coGroup o.words)))
    (hcopy : s.engineCopy (collRq o) (coSrc o.words + (s.dstRange o.words).1 * coSize o.words) (coDst o.words)
      ((s.dstRange o.words).2 * coSize o.words) = (t, .ok ())) : s.endColl c o = t.retireColl c o := by
  simp only [State.endColl, hkind, hcore, hcopy, decide_true, and_self, if_true]
  rfl

/-- At the end of a SUM_SCATTER on a rank that keeps a segment, the segment is copied to dst, and the packet ends
(R607, R632). -/
theorem exec_collStepComplete_of_copy {s : State} {c pa pb : Nat} {o : CollOp}
    (hexec : exec (.collStepComplete c) s = .next (s.endColl c o)) (hkind : coKind o.words = 1)
    (hcore : s.groupRank (coGroup o.words) < 2 ^ Nat.log2 (s.groupN (coGroup o.words)))
    (hne : coSrc o.words + (s.dstRange o.words).1 * coSize o.words ≠ coDst o.words)
    (hr : s.ReadableAt (collRq o) (coSrc o.words + (s.dstRange o.words).1 * coSize o.words)
      ((s.dstRange o.words).2 * coSize o.words) pa)
    (hw : s.WritableAt (collRq o) (coDst o.words) ((s.dstRange o.words).2 * coSize o.words) pb) :
    ∃ u, exec (.collStepComplete c) s = .next u ∧
      Stored s u pb (s.bytes pa ((s.dstRange o.words).2 * coSize o.words)) ∧ u.collOps c = (s.collOps c).drop 1 ∧
      (u.ctx o.ctx).jobs = ((s.finish o.ctx o.ring o.slot ⟨0, o.maxWait, 0⟩).ctx o.ctx).jobs := by
  obtain ⟨t, hcopy, hstored, hwork⟩ := State.engineCopy_of_access (collRq_unit_lt o) hne hr hw
  refine ⟨t.retireColl c o, hexec.trans (congrArg _ (State.endColl_of_copy c hkind hcore hcopy)), ?_, ?_, ?_⟩
  · simpa only [Stored, State.retireColl_byte] using hstored
  · rw [State.retireColl_collOps, State.collOps_congr (State.coll_of_work hwork)]
  · rw [State.retireColl_ctx hwork]

section
variable {s : State} {c : Nat} {o : CollOp} (hhead : s.headOp c = some o)
include hhead

/-- A step that has sent and received everything leaves the operation (R632). -/
theorem exec_collStepComplete_of_step {x : CollStep} (hfind : o.steps.find? CollStep.complete = some x)
    (hentry : x.entry = none) :
    exec (.collStepComplete c) s =
      .next (s.setHead c { o with steps := o.steps.filter (fun y => y.step != x.step) }) := by
  show execCollStepComplete c s = _
  simp only [execCollStepComplete, hhead, hfind, hentry]

/-! ### Timeouts (R641, R642) -/

/-- A started step that has waited for too long raises the fault that the early arrivals of its channel call for. -/
theorem exec_collTimeout_of_late (hlate : ∃ x ∈ o.steps, s.rg R.collCfgTimeout 0 ≤ s.beat - x.last) {other : Bool}
    (hother : s.coll.early.any (fun m => m.vc == c &&
      (cmGroup m.header != coGroup o.words || cmSeq m.header != coSeq o.words)) = other) :
    exec (.collTimeout c) s = .next (s.raise
      { FaultInfo.mk0 (if other then fltCollectiveOrder else fltCollTimeout) 6 c with
        part := s.rg R.ctxCfgPartition o.ctx, ctx := o.ctx }) := by
  have hany : o.steps.any (fun x => decide (s.rg R.collCfgTimeout 0 ≤ s.beat - x.last)) = true := by
    simpa using hlate
  show execCollTimeout c s = _
  simp only [execCollTimeout, hhead, if_pos hany, hother]

theorem exec_collTimeout_of_early (hearly : ∀ x ∈ o.steps, s.beat - x.last < s.rg R.collCfgTimeout 0) :
    exec (.collTimeout c) s = .next s := by
  have hnone : ¬o.steps.any (fun x => decide (s.rg R.collCfgTimeout 0 ≤ s.beat - x.last)) = true := by
    simpa using hearly
  show execCollTimeout c s = _
  simp only [execCollTimeout, hhead, if_neg hnone]

end

/-! ### Messages off the link (R633, R637) -/

/-- The state in which a message has left the receive buffer and reached its engine (R30, R586). -/
def State.offLink (s : State) (port vc : Nat) (m : Msg) : State :=
  (s.collCross (portNode port) (16 + vc % 2) vc port).takeMsg m

theorem State.oweCredit_eq (s : State) (p vc a b : Nat) :
    s.oweCredit p vc a b = { s with wale := { s.wale with ports := (s.oweCredit p vc a b).wale.ports } } := by
  unfold State.oweCredit
  split <;> rfl

theorem State.collCross_eq (s : State) (a b c p : Nat) :
    s.collCross a b c p = { s with out := (s.collCross a b c p).out } := by
  unfold State.collCross
  split <;> rfl

/-- A message that is taken changes the boundary, the ports and the receive buffer alone. -/
theorem State.offLink_eq (s : State) (port vc : Nat) (m : Msg) :
    s.offLink port vc m = { s with
      out := (s.offLink port vc m).out
      wale := { s.wale with
        ports := (s.offLink port vc m).wale.ports, inbox := s.wale.inbox.filter (fun x => x.id != m.id) } } := by
  unfold State.offLink State.takeMsg
  rw [State.oweCredit_eq, State.collCross_eq]

section
variable (s : State) (port vc : Nat) (m : Msg)

@[simp] theorem State.offLink_mem : (s.offLink port vc m).mem = s.mem := by rw [State.offLink_eq]
@[simp] theorem State.offLink_coll : (s.offLink port vc m).coll = s.coll := by rw [State.offLink_eq]
@[simp] theorem State.offLink_inbox :
    (s.offLink port vc m).wale.inbox = s.wale.inbox.filter (fun x => x.id != m.id) := by rw [State.offLink_eq]
@[simp] theorem State.offLink_byte (a : Nat) : (s.offLink port vc m).byte a = s.byte a := by rw [State.offLink_eq]; rfl
@[simp] theorem State.offLink_beat : (s.offLink port vc m).beat = s.beat := by rw [State.offLink_eq]; rfl
@[simp] theorem State.offLink_rg (f : Fld) (i : Nat) : (s.offLink port vc m).rg f i = s.rg f i := by
  rw [State.offLink_eq]; rfl

theorem State.offLink_sameView : SameView s (s.offLink port vc m) :=
  .of_eq (by rw [State.offLink_eq]) (s.offLink_mem ..) (by rw [State.offLink_eq]) (by rw [State.offLink_eq])

end

theorem SameView.collBad {s t : State} (h : SameView s t) (hc : t.coll = s.coll) (m : Msg) :
    t.collBad m = s.collBad m := by
  simp only [State.collBad, State.seqDone, State.collOps, hc, State.rb, h.groups R.collGroupCfgEnable (by decide),
    h.groupN, h.rankModule, h.groups R.collGroupSeqNext (by decide)]

theorem State.stepFor_congr {s t : State} (h : t.coll = s.coll) (m : Msg) : t.stepFor m = s.stepFor m := by
  rw [State.stepFor, State.stepFor, State.headOp_congr h]

theorem State.offLink_collBad (s : State) (port vc : Nat) (m : Msg) : (s.offLink port vc m).collBad m = s.collBad m :=
  (s.offLink_sameView port vc m).collBad (s.offLink_coll ..) m

theorem State.offLink_stepFor (s : State) (port vc : Nat) (m : Msg) : (s.offLink port vc m).stepFor m = s.stepFor m :=
  State.stepFor_congr (s.offLink_coll ..) m

/-- The message that waits from a port on a VC came in on them. -/
theorem State.vc_of_nextMsg {s : State} {n vc k : Nat} {m : Msg} (h : s.nextMsg n vc k = some m) : m.vc = vc := by
  unfold State.nextMsg at h
  split at h
  · cases h
  · next m' hm' =>
    split at h
    · obtain rfl : m' = m := by simpa using h
      have := List.find?_some hm'
      simp only [Bool.and_eq_true, beq_iff_eq] at this
      exact this.2
    · cases h

/-- What a message of a started step says of the channel's head operation. -/
theorem State.stepFor_some {s : State} {m : Msg} {o : CollOp} {x : CollStep} (h : s.stepFor m = some (o, x)) :
    s.headOp m.vc = some o ∧ (cmGrant m.header = true ∨
      x.want.any (fun v => v.rank == cmRank m.header && v.tree == cmTree m.header) = true) := by
  unfold State.stepFor at h
  split at h
  · cases h
  · next o' ho' =>
    split at h
    · cases h
    · split at h
      · cases h
      · split at h
        · next hmine =>
          cases h
          exact ⟨ho', hmine⟩
        · cases h

section
variable {s : State} {n vc : Nat} {m : Msg} (hmsg : s.nextMsg n vc 2 = some m) (hgood : s.collBad m = false)
include hmsg hgood

theorem State.takeColl_of_unexpected (hstep : s.stepFor m = none) :
    s.takeColl n vc (cmGrant m.header) = (s.offLink n vc m).storeEarly m := by
  have hbad := (s.offLink_collBad n vc m).trans hgood
  have hfor := (s.offLink_stepFor n vc m).trans hstep
  unfold State.offLink at *
  simp [State.takeColl, hmsg, hbad, hfor]

theorem State.takeColl_of_step {o : CollOp} {x : CollStep} (hstep : s.stepFor m = some (o, x)) :
    s.takeColl n vc (cmGrant m.header) = ((s.offLink n vc m).takeStep o x m).pump vc := by
  have hbad := (s.offLink_collBad n vc m).trans hgood
  have hfor := (s.offLink_stepFor n vc m).trans hstep
  unfold State.offLink at *
  simp [State.takeColl, hmsg, hbad, hfor]

end

/-- A message with room in the early-arrival buffer waits there (R637, R638). -/
theorem State.storeEarly_of_room {s : State} {m : Msg} (h : s.rg R.collEarlyUseUsed (m.vc % 2) + m.bytes ≤ 8388608) :
    (s.storeEarly m).coll.early = s.coll.early ++ [m] ∧ (s.storeEarly m).wale = s.wale ∧ (s.storeEarly m).mem = s.mem := by
  rw [State.storeEarly, if_neg (Nat.not_lt.mpr h)]
  exact ⟨rfl, rfl, rfl⟩

/-! ### Applying data (R622, R630, R631) -/

@[simp] theorem State.noteRx_work (s : State) (c : Nat) (m : Msg) : (s.noteRx c m).work = s.work := by
  unfold State.noteRx
  split <;> rfl

@[simp] theorem State.noteRx_mem (s : State) (c : Nat) (m : Msg) :
    (s.noteRx c m).mem = s.mem ∧ (s.noteRx c m).imgBase = s.imgBase := by
  unfold State.noteRx
  split <;> exact ⟨rfl, rfl⟩

/-- Whether what a step receives from a message is added. -/
def adds (x : CollStep) (m : Msg) : Bool :=
  x.want.any (fun v => v.rank == cmRank m.header && v.tree == cmTree m.header && v.add)

/-- What the elements of a message do to the working area (R630, R631). -/
def State.takeIn (s : State) (o : CollOp) (x : CollStep) (m : Msg) : Got Unit :=
  if adds x m then
    (if coMemAdd o.words then s.addMem o (cmOffset m.header) m.data else s.addIn o (cmOffset m.header) m.data)
  else s.storeIn o (cmOffset m.header) m.data

/-- A step that has taken the elements of a message in a Round (R641). -/
def CollStep.afterTake (x : CollStep) (o : CollOp) (m : Msg) (beat : Nat) : CollStep :=
  { x with last := beat, want := x.want.map (fun v =>
      if v.rank = cmRank m.header ∧ v.tree = cmTree m.header then { v with got := v.got + m.data.length / coSize o.words }
      else v) }

theorem State.msgImage_of_plain {m : Msg} (h : bit m.header 4 = false) (s : State) (ctx set : Nat) :
    s.msgImage m ctx set = (s, .ok m.data) := by
  rw [State.msgImage, if_neg (by simp [h])]

/-- Plain elements that the working area takes are applied (R641). -/
theorem State.applyColl_of_takeIn {s w : State} {o : CollOp} {x : CollStep} {m : Msg} (hplain : bit m.header 4 = false)
    (htake : s.takeIn o x m = (w, .ok ())) :
    s.applyColl o x m =
      ((w.noteRx o.ctx m).noteWait m.vc ((w.noteRx o.ctx m).beat - x.last)).setHead m.vc
        ({ o with maxWait := max o.maxWait ((w.noteRx o.ctx m).beat - x.last) }.setStep
          (x.afterTake o m (w.noteRx o.ctx m).beat)) := by
  unfold State.takeIn adds at htake
  simp only [State.applyColl, State.msgImage_of_plain hplain, htake, State.progress_eq]
  rfl

/-- Plain data of a halving channel may be applied where they are not added, or no unit of the sum has to be ready. -/
theorem State.mayApply_of_plain {s : State} {o : CollOp} {x : CollStep} {m : Msg} (hplain : bit m.header 4 = false)
    (hchan : 4 ≤ coChan o.words) (hready : adds x m = false ∨ coFed o.words = false) : s.mayApply o x m = true := by
  have hwaits : s.msgWaits o m = false := by
    rw [State.msgWaits, State.msgImage_of_plain hplain]
  have hadd : (x.want.filter (fun v => v.tree == cmTree m.header)).any
      (fun v => v.rank == cmRank m.header && v.add) = adds x m := by
    rw [List.any_filter, adds]
    congr 1
    funext v
    rw [← Bool.and_assoc, Bool.and_comm (v.tree == _)]
  simp only [State.mayApply, hadd, hwaits, Nat.not_lt.mpr hchan, decide_false, Bool.not_false, Bool.true_or, Bool.and_true]
  rcases hready with h | h <;> simp [h, State.rangeReady]

section
variable {s : State} {vc : Nat} (hheld : ∀ o, s.headOp vc = some o → ∀ j, j < 4 → s.heldBack o.ctx j = false) (n : Nat)
include hheld

theorem exec_coll_eq : exec (.coll n vc) s = .next (s.takeColl n vc false) :=
  congrArg _ (State.gateColl_of_not_held hheld _)

theorem exec_collGrant_eq : exec (.collGrant n vc) s = .next (s.takeColl n vc true) :=
  congrArg _ (State.gateColl_of_not_held hheld _)

end

/-- A message that no started step expects waits in the early-arrival buffer, where it has room (R637). -/
theorem exec_coll_of_unexpected {s : State} {n vc : Nat} {m : Msg}
    (hheld : ∀ o, s.headOp vc = some o → ∀ j, j < 4 → s.heldBack o.ctx j = false) (hmsg : s.nextMsg n vc 2 = some m)
    (hgood : s.collBad m = false) (hgrant : cmGrant m.header = false) (hstep : s.stepFor m = none)
    (hroom : s.rg R.collEarlyUseUsed (vc % 2) + m.bytes ≤ 8388608) :
    ∃ t, exec (.coll n vc) s = .next t ∧ t.coll.early = s.coll.early ++ [m] ∧
      t.wale.inbox = s.wale.inbox.filter (fun x => x.id != m.id) ∧ t.mem = s.mem := by
  have hvc := State.vc_of_nextMsg hmsg
  have htake := State.takeColl_of_unexpected hmsg hgood hstep
  rw [hgrant] at htake
  obtain ⟨hearly, hwale, hmem⟩ := State.storeEarly_of_room (s := s.offLink n vc m) (m := m)
    (by rwa [State.offLink_rg, hvc])
  exact ⟨_, (exec_coll_eq hheld n).trans (congrArg _ htake), by rw [hearly, State.offLink_coll],
    by rw [hwale, State.offLink_inbox], by rw [hmem, State.offLink_mem]⟩

section
variable {s : State} {n vc : Nat} {m : Msg} {o : CollOp} {x : CollStep} (hmsg : s.nextMsg n vc 2 = some m)
  (hgood : s.collBad m = false) (hheld : ∀ o, s.headOp vc = some o → ∀ j, j < 4 → s.heldBack o.ctx j = false)
  (hstep : s.stepFor m = some (o, x)) (hsteps : o.steps = [x]) (htodo : x.todo = [])
include hmsg hgood hheld hstep hsteps htodo

/-- A grant is noted in the step that it belongs to (R629). -/
theorem exec_collGrant_of_step (hgrant : cmGrant m.header = true) :
    ∃ t, exec (.collGrant n vc) s = .next t ∧
      t.headOp vc = some { o with steps := [{ x with granted := cmRank m.header :: x.granted }] } ∧ t.mem = s.mem := by
  have hvc := State.vc_of_nextMsg hmsg
  have htake := State.takeColl_of_step hmsg hgood hstep
  have hset : o.setStep { x with granted := cmRank m.header :: x.granted } =
      { o with steps := [{ x with granted := cmRank m.header :: x.granted }] } := CollOp.setStep_of_single hsteps rfl
  rw [hgrant, State.takeStep, if_pos hgrant, hvc, hset,
    State.pump_of_idle (State.setHead_headOp ..) (x := { x with granted := cmRank m.header :: x.granted }) rfl htodo]
    at htake
  refine ⟨_, (exec_collGrant_eq hheld n).trans (congrArg _ htake), State.setHead_headOp .., ?_⟩
  exact ((s.offLink n vc m).noteRx_mem o.ctx m).1.trans (s.offLink_mem n vc m)

/-- Plain data that the only started step of a halving channel's operation expects, once the working area has taken
them (R637, R641). -/
theorem exec_coll_of_takeIn {v : CollWant} {w : State} (hgrant : cmGrant m.header = false) (hwant : x.want = [v])
    (hempty : x.held = []) (hchan : 4 ≤ coChan o.words) (hplain : bit m.header 4 = false)
    (hready : adds x m = false ∨ coFed o.words = false)
    (htake : (s.offLink n vc m).takeIn o x m = (w, .ok ())) (hwork : w.work = (s.offLink n vc m).work) :
    ∃ t, exec (.coll n vc) s = .next t ∧ (∀ a, t.byte a = w.byte a) ∧
      t.headOp vc = some { o with maxWait := max o.maxWait (s.beat - x.last), steps := [{ x with
        last := s.beat, want := [{ v with got := v.got + m.data.length / coSize o.words }] }] } := by
  have hvc := State.vc_of_nextMsg hmsg
  have hbeat : (w.noteRx o.ctx m).beat = s.beat :=
    (congrArg RoundSt.beats (State.rnd_of_work ((w.noteRx_work o.ctx m).trans hwork))).trans (s.offLink_beat n vc m)
  have hmine : v.rank = cmRank m.header ∧ v.tree = cmTree m.header := by
    simpa [hgrant, hwant] using (State.stepFor_some hstep).2
  have hafter : x.afterTake o m s.beat =
      { x with last := s.beat, want := [{ v with got := v.got + m.data.length / coSize o.words }] } := by
    simp [CollStep.afterTake, hwant, hmine]
  have hset : { o with maxWait := max o.maxWait (s.beat - x.last) }.setStep (x.afterTake o m s.beat) =
      { o with maxWait := max o.maxWait (s.beat - x.last), steps := [x.afterTake o m s.beat] } :=
    CollOp.setStep_of_single (o := { o with maxWait := max o.maxWait (s.beat - x.last) }) hsteps rfl
  have hcoll := State.takeColl_of_step hmsg hgood hstep
  rw [hgrant, State.takeStep, if_neg (by simp [hgrant]), if_pos (State.mayApply_of_plain hplain hchan hready),
    State.applyColl_of_takeIn hplain htake, hbeat, hvc,
    hset, State.applyHeld_of_no_held (State.setHead_headOp ..) (x := x.afterTake o m s.beat) rfl hempty,
    State.pump_of_idle (State.setHead_headOp ..) (x := x.afterTake o m s.beat) rfl htodo, hafter] at hcoll
  exact ⟨_, (exec_coll_eq hheld n).trans (congrArg _ hcoll), fun a => State.byte_congr (w.noteRx_mem o.ctx m) a,
    State.setHead_headOp ..⟩

end

/-! ### Numbers in bytes -/

@[simp] theorem length_natLe (n v : Nat) : (natLe n v).length = n := by
  induction n generalizing v with
  | zero => rfl
  | succ n ih => simp [natLe, ih]

theorem leNat_natLe (n v : Nat) : leNat (natLe n v) = v % 256 ^ n := by
  induction n generalizing v with
  | zero => simp [natLe, leNat, Nat.mod_one]
  | succ n ih =>
    have hlow : (BitVec.ofNat 8 (v % 256)).toNat = v % 256 := by simp
    rw [natLe, leNat, ih, hlow, Nat.pow_succ', Nat.mod_mul]

theorem piecesF_nil {α : Type} (n f : Nat) : piecesF n f ([] : List α) = [] := by
  cases f <;> rfl

/-- A list of one piece. -/
theorem pieces_self {α : Type} {n : Nat} {l : List α} (hn : 0 < n) (h : l.length = n) : pieces n l = [l] := by
  obtain ⟨a, l', rfl⟩ : ∃ a l', l = a :: l' := List.exists_cons_of_length_pos (h ▸ hn)
  simp [pieces, piecesF, piecesF_nil, ← h]

/-- The signed reading of a number is the number modulo 2^w. -/
theorem toSigned_emod (w n : Nat) : toSigned w n % ((2 ^ w : Nat) : Int) = ((n % 2 ^ w : Nat) : Int) := by
  unfold toSigned
  split
  · push_cast
    exact Int.emod_emod_of_dvd _ dvd_rfl
  · push_cast
    rw [Int.sub_emod_right]
    exact Int.emod_emod_of_dvd _ dvd_rfl

/-- The sum of two signed readings is the sum of the numbers modulo 2^w (R504). -/
theorem ofSigned_toSigned_add (w a b : Nat) : ofSigned w (toSigned w a + toSigned w b) = (a + b) % 2 ^ w := by
  rw [ofSigned, Int.add_emod, toSigned_emod, toSigned_emod, ← Int.natCast_add, ← Int.natCast_emod, ← Nat.add_mod,
    Int.toNat_natCast]

/-- The bytes that were stored read back as their number. -/
theorem Stored.num {s t : State} {a : Nat} {l : List Byte} (h : Stored s t a l) : t.num a l.length = leNat l := by
  have hbytes : t.bytes a l.length = l := by
    refine List.ext_getElem (t.length_bytes a _) fun k _ hk => ?_
    simp [State.bytes, upFrom_eq_range', h.1 k hk, hk]
  rw [State.num, hbytes]

/-! ### What the working area takes (R630, R631) -/

/-- Elements that are not added are stored where the engine may write them (R607, R630). -/
theorem State.takeIn_of_store {s : State} {o : CollOp} {x : CollStep} {m : Msg} {va pa : Nat} (hadd : adds x m = false)
    (hva : va = if coKind o.words = 1 then coDst o.words + (cmOffset m.header - (s.dstRange o.words).1) * coSize o.words
      else workBase o.words + cmOffset m.header * coSize o.words)
    (hw : s.WritableAt (collRq o) va m.data.length pa) :
    ∃ w, s.takeIn o x m = (w, .ok ()) ∧ Stored s w pa m.data ∧ w.work = s.work := by
  obtain ⟨w, hwrite, hstored, hwork⟩ := State.placeWrite_of_writableAt hw (collRq_unit_lt o)
  refine ⟨w, ?_, hstored, hwork⟩
  rw [State.takeIn, hadd, ← hwrite, hva]
  rfl

theorem coSize_int32 {w : Nat} (h : coFmt w = 0x10) : coSize w = 4 := by
  rw [coSize, h]
  rfl

/-- One INT32 element is added where the engine may read and write it (R609, R631). -/
theorem State.takeIn_of_add_int32 {s : State} {o : CollOp} {x : CollStep} {m : Msg} {va pa : Nat} (hadd : adds x m = true)
    (hmem : coMemAdd o.words = false) (hfmt : coFmt o.words = 0x10) (hlen : m.data.length = 4)
    (hva : va = workBase o.words + cmOffset m.header * 4)
    (hr : s.ReadableAt (collRq o) va 4 pa) (hw : s.WritableAt (collRq o) va 4 pa) :
    ∃ w, s.takeIn o x m = (w, .ok ()) ∧ Stored s w pa (natLe 4 ((s.num pa 4 + leNat m.data) % 2 ^ 32)) ∧
      w.work = s.work := by
  obtain ⟨u, hread, hview, hwork⟩ := State.placeRead_of_readableAt hr (collRq_unit_lt o)
  have hw' : u.WritableAt (collRq o) va (natLe 4 ((s.num pa 4 + leNat m.data) % 2 ^ 32)).length pa := by
    rw [length_natLe]
    exact hview.writableAt hw
  obtain ⟨w, hwrite, hstored, hwork'⟩ := State.placeWrite_of_writableAt hw' (collRq_unit_lt o)
  have hsum : ∀ a b, addElemCode 0x10 0x10 a b = (a + b) % 2 ^ 32 := ofSigned_toSigned_add 32
  have hold : pieces 4 (s.bytes pa 4) = [s.bytes pa 4] := pieces_self (by omega) (s.length_bytes pa 4)
  have hnew : pieces 4 m.data = [m.data] := pieces_self (by omega) hlen
  refine ⟨w, ?_, ⟨hstored.1, fun a ha => (hstored.2 a ha).trans (State.byte_congr ⟨hview.mem, hview.imgBase⟩ a)⟩,
    hwork'.trans hwork⟩
  subst hva
  rw [State.takeIn, hadd, if_pos rfl, hmem, if_neg (by simp), State.addIn]
  simp only [coSize_int32 hfmt, hfmt, hlen, hread, Got.next, hold, hnew, List.zip_cons_cons, List.zip_nil_right,
    List.flatMap_cons, List.flatMap_nil, List.append_nil, hsum]
  exact hwrite

section
variable {s : State} {n vc va pa : Nat} {m : Msg} {o : CollOp} {x : CollStep} {v : CollWant}
  (hmsg : s.nextMsg n vc 2 = some m) (hgood : s.collBad m = false)
  (hheld : ∀ o, s.headOp vc = some o → ∀ j, j < 4 → s.heldBack o.ctx j = false) (hstep : s.stepFor m = some (o, x))
  (hsteps : o.steps = [x]) (htodo : x.todo = []) (hgrant : cmGrant m.header = false) (hwant : x.want = [v])
  (hempty : x.held = []) (hchan : 4 ≤ coChan o.words) (hplain : bit m.header 4 = false)

include hstep hgrant hwant in
/-- Where a step expects from one rank and tree, a message of it is added as that says. -/
theorem adds_of_single : adds x m = v.add := by
  have hmine : v.rank = cmRank m.header ∧ v.tree = cmTree m.header := by
    simpa [hgrant, hwant] using (State.stepFor_some hstep).2
  simp [adds, hwant, hmine]

include hmsg hgood hheld hstep hsteps htodo hgrant hwant hempty hchan hplain

/-- Expected data that are not added are stored in the working area, or in dst (R607, R630). -/
theorem exec_coll_of_store (hadd : v.add = false)
    (hva : va = if coKind o.words = 1 then coDst o.words + (cmOffset m.header - (s.dstRange o.words).1) * coSize o.words
      else workBase o.words + cmOffset m.header * coSize o.words)
    (hw : s.WritableAt (collRq o) va m.data.length pa) :
    ∃ t, exec (.coll n vc) s = .next t ∧ Stored s t pa m.data ∧
      t.headOp vc = some { o with maxWait := max o.maxWait (s.beat - x.last), steps := [{ x with
        last := s.beat, want := [{ v with got := v.got + m.data.length / coSize o.words }] }] } := by
  have hview := s.offLink_sameView n vc m
  have hadds : adds x m = false := (adds_of_single hstep hgrant hwant).trans hadd
  have hdst : (s.offLink n vc m).dstRange o.words = s.dstRange o.words := by
    simp only [State.dstRange, hview.groupN, hview.groupRank]
  obtain ⟨w, htake, hstored, hwork⟩ := State.takeIn_of_store hadds (hdst.symm ▸ hva) (hview.writableAt hw)
  obtain ⟨t, hexec, hbyte, hop⟩ := exec_coll_of_takeIn hmsg hgood hheld hstep hsteps htodo hgrant hwant hempty hchan
    hplain (.inl hadds) htake hwork
  refine ⟨t, hexec, ?_, hop⟩
  simpa only [Stored, hbyte, State.offLink_byte] using hstored

/-- An expected INT32 element that is added is added into the working area (R609, R631). -/
theorem exec_coll_of_add_int32 (hadd : v.add = true) (hmem : coMemAdd o.words = false) (hfed : coFed o.words = false)
    (hfmt : coFmt o.words = 0x10) (hlen : m.data.length = 4) (hva : va = workBase o.words + cmOffset m.header * 4)
    (hr : s.ReadableAt (collRq o) va 4 pa) (hw : s.WritableAt (collRq o) va 4 pa) :
    ∃ t, exec (.coll n vc) s = .next t ∧ t.num pa 4 = (s.num pa 4 + leNat m.data) % 2 ^ 32 ∧
      (∀ a, a < pa ∨ pa + 4 ≤ a → t.byte a = s.byte a) ∧
      t.headOp vc = some { o with maxWait := max o.maxWait (s.beat - x.last), steps := [{ x with
        last := s.beat, want := [{ v with got := v.got + 1 }] }] } := by
  have hview := s.offLink_sameView n vc m
  obtain ⟨w, htake, hstored, hwork⟩ := State.takeIn_of_add_int32 ((adds_of_single hstep hgrant hwant).trans hadd) hmem hfmt
    hlen hva (hview.readableAt hr) (hview.writableAt hw)
  obtain ⟨t, hexec, hbyte, hop⟩ := exec_coll_of_takeIn hmsg hgood hheld hstep hsteps htodo hgrant hwant hempty hchan
    hplain (.inr hfed) htake hwork
  have hstored : Stored s t pa (natLe 4 ((s.num pa 4 + leNat m.data) % 2 ^ 32)) := by
    simpa only [Stored, hbyte, State.offLink_byte, hview.num] using hstored
  have hnum := hstored.num
  rw [length_natLe, leNat_natLe] at hnum
  refine ⟨t, hexec, hnum.trans (Nat.mod_mod _ _), by simpa using hstored.2, ?_⟩
  rw [hop, hlen, coSize_int32 hfmt]

end

/-! ### Enabling a group (R611, R646) -/

theorem State.rset_rg_off (s : State) {f g : Fld} (h : offFlds [g] f = true) (i j v : Nat) :
    (s.rset f i v).rg g j = s.rg g j :=
  s.rset_rg_of_offFlds h (List.mem_singleton.mpr rfl) i j v

/-- What a write of COLL_GROUP_CFG does to cfg_refused, which is RW1C (R14, R646). -/
def State.clearRefused (s : State) (g v : Nat) : State :=
  if bit v 1 then s.rset R.collGroupCfgCfgRefused g 0 else s

/-- A group's configuration as a write of COLL_GROUP_CFG sets it before it looks at the rank table (R611). -/
def State.setGroup (s : State) (g v : Nat) : State :=
  (((s.clearRefused g v).rset R.collGroupCfgPartition g (bits v 8 6)).rset R.collGroupCfgRank g (bits v 16 16)).rset
    R.collGroupCfgSize g (bits v 32 17)

section
variable (s : State) (g v : Nat)

theorem State.clearRefused_enable : (s.clearRefused g v).rb R.collGroupCfgEnable g = s.rb R.collGroupCfgEnable g := by
  unfold State.clearRefused State.rb
  split
  · rw [State.rset_rg_off]
    decide
  · rfl

theorem State.setGroup_enable : (s.setGroup g v).rb R.collGroupCfgEnable g = s.rb R.collGroupCfgEnable g := by
  rw [← State.clearRefused_enable s g v, State.setGroup, State.rb, State.rset_rg_off, State.rset_rg_off,
    State.rset_rg_off]
  · rfl
  all_goals decide

theorem State.setGroup_sameMap : SameMap s (s.setGroup g v) := by
  have hstart : SameMap s (s.clearRefused g v) := by
    unfold State.clearRefused
    split
    · exact (SameMap.refl s).rset (by decide)
    · exact .refl s
  exact ((hstart.rset (by decide)).rset (by decide)).rset (by decide)

@[simp] theorem State.setGroup_groupN : (s.setGroup g v).groupN g = bits v 32 17 :=
  (State.rset_rg_same ..).trans (bits_mod ..)

@[simp] theorem State.setGroup_groupRank : (s.setGroup g v).groupRank g = bits v 16 16 :=
  (State.rset_rg_off _ (by decide) ..).trans ((State.rset_rg_same ..).trans (bits_mod ..))

@[simp] theorem State.setGroup_partition : (s.setGroup g v).rg R.collGroupCfgPartition g = bits v 8 6 :=
  (State.rset_rg_off _ (by decide) ..).trans
    ((State.rset_rg_off _ (by decide) ..).trans ((State.rset_rg_same ..).trans (bits_mod ..)))

end

section
variable {s : State} {g v : Nat} (hbar : s.barOpen 0xA00000 = true) (hg : g < 1024)
  (hoff : s.rb R.collGroupCfgEnable g = false) (hon : bit v 0 = true) (hlo : 1 ≤ bits v 32 17)
  (hhi : bits v 32 17 ≤ 65536)
include hbar hg hoff hon hlo hhi

/-- A write that enables a group sets its configuration and looks at the rank table (R611). -/
theorem exec_groupEnable_eq :
    exec (.groupEnable g v 0) s = .next ((s.setGroup g v).rset
      (if s.region (s.rg R.collGroupRanksBase g) = .hbm ∧ bits v 16 16 < bits v 32 17 ∧
        s.rankModule g (bits v 16 16) = s.ownId then R.collGroupCfgEnable else R.collGroupCfgCfgRefused) g 1) := by
  have hmap := s.setGroup_sameMap g v
  have hgroup : ¬(1024 ≤ g ∨ (0 : Nat) ≠ 0) := by omega
  have hsize : ¬(bits v 32 17 = 0 ∨ 65536 < bits v 32 17) := by omega
  have hstart := (s.clearRefused_enable g v).trans hoff
  unfold State.clearRefused at hstart
  show execGroupEnable g v 0 s = _
  simp only [execGroupEnable, hbar, not_true_eq_false, if_false, if_neg hgroup, hstart, Bool.false_eq_true, if_neg hsize,
    hon]
  show Host.Outcome.next ((s.setGroup g v).rset (if decide
    ((s.setGroup g v).region ((s.setGroup g v).rg R.collGroupRanksBase g) = .hbm ∧
      (s.setGroup g v).groupRank g < (s.setGroup g v).groupN g ∧
      (s.setGroup g v).rankModule g ((s.setGroup g v).groupRank g) = (s.setGroup g v).ownId) = true then _ else _) g 1) = _
  rw [hmap.region, hmap.regs _ (by decide), hmap.rankModule, hmap.ownId, State.setGroup_groupRank, State.setGroup_groupN]
  simp only [decide_eq_true_eq]

/-- A group is enabled where its rank table names the module at its rank (R611). -/
theorem exec_groupEnable_of_named (hregion : s.region (s.rg R.collGroupRanksBase g) = .hbm)
    (hrank : bits v 16 16 < bits v 32 17) (hnamed : s.rankModule g (bits v 16 16) = s.ownId) :
    exec (.groupEnable g v 0) s = .next ((s.setGroup g v).rset R.collGroupCfgEnable g 1) := by
  rw [exec_groupEnable_eq hbar hg hoff hon hlo hhi, if_pos ⟨hregion, hrank, hnamed⟩]

/-- It is refused where the rank table names another module (R611). -/
theorem exec_groupEnable_of_other (hother : s.rankModule g (bits v 16 16) ≠ s.ownId) :
    exec (.groupEnable g v 0) s = .next ((s.setGroup g v).rset R.collGroupCfgCfgRefused g 1) := by
  rw [exec_groupEnable_eq hbar hg hoff hon hlo hhi, if_neg fun h => hother h.2.2]

end

/-- A one-bit field that is set reads as set. -/
theorem State.rset_rb_same (s : State) {f : Fld} (hf : f.width = 1) (i : Nat) : (s.rset f i 1).rb f i = true := by
  rw [State.rb, State.rset_rg_same, hf]
  rfl

/-! ### The collectives' statement -/

/-- Settles O52: each clause is the rule of its command in that case; what a step has to send follows from its plan, and
what a message does to the working area from whether its elements are added. -/
theorem collectivesRunTheirSteps : Obligations.CollectivesRunTheirSteps := by
  unfold Obligations.CollectivesRunTheirSteps
  refine ⟨rfl, ?enable, ?operation, ?message⟩
  case enable =>
    intro s g v hbar hg hoff hon hlo hhi hregion
    refine ⟨fun hrank hnamed => ?_, fun hother => ?_⟩
    · have hexec := exec_groupEnable_of_named hbar hg hoff hon hlo hhi hregion hrank hnamed
      have hkeep := fun f => (s.setGroup g v).rset_rg_off (f := R.collGroupCfgEnable) (g := f) (i := g) (j := g) (v := 1)
      exact ⟨_, hexec, State.rset_rb_same _ rfl g, (hkeep _ (by decide)).trans (s.setGroup_groupN g v),
        (hkeep _ (by decide)).trans (s.setGroup_groupRank g v), (hkeep _ (by decide)).trans (s.setGroup_partition g v),
        (s.setGroup_sameMap g v).mem⟩
    · have hexec := exec_groupEnable_of_other hbar hg hoff hon hlo hhi hother
      have henable : ((s.setGroup g v).rset R.collGroupCfgCfgRefused g 1).rb R.collGroupCfgEnable g = false := by
        rw [State.rb, State.rset_rg_off _ (by decide)]
        exact (s.setGroup_enable g v).trans hoff
      exact ⟨_, hexec, henable, State.rset_rb_same _ rfl g, (s.setGroup_sameMap g v).mem⟩
  case operation =>
    intro s c o hc hhead hchan hheld
    refine ⟨?start, ?ready, ?completeStep, ?completeOp, ?timeout, ?order, ?early⟩
    case start =>
      intro hsched hsteps hnext hearly hin
      refine ⟨?nothing, ?grant, ?elements⟩
      case nothing =>
        exact exec_collStepStart_of_nothing hc hhead hheld hsched hsteps hnext hin
      case grant =>
        intro k tr rs add p hplan hdst hroute _
        have h := exec_collStepStart_grant hc hhead hheld hsched hsteps hnext hin hearly hplan hdst hroute
        simpa only [State.collMessage, State.nextStep, List.length_nil, Option.isSome_none, hchan] using h
      case elements =>
        intro k tr f l p pa hhalving hfed hplait hplan hl hfit hdst hroute hread
        have h := exec_collStepStart_elements hc hhead hheld hsched hsteps hnext hin hearly (hchan ▸ hhalving) hfed hplait
          hplan hl hfit hdst hroute hread
        simpa only [State.collMessage, State.nextStep, State.length_bytes, Option.isSome_none, hchan] using h
    case ready =>
      intro x k f l p pa hfed hhalving hplait hsteps hempty hentry htodo hsent _ hl hfit hdst hroute
      refine ⟨fun hready hread => ?_, fun hready hfirst => ?_⟩
      · have h := exec_collReadySend_elements hhead hheld hsteps hempty htodo hsent (hchan ▸ hhalving) hplait hl hfit hdst
          hroute hready hread
        simpa only [State.collMessage, State.length_bytes, Option.isSome_none, hchan, hentry] using h
      · exact ⟨_, exec_collReadySend_of_not_ready hhead hheld hsteps hempty htodo rfl hsent hfit hready hfirst, rfl, rfl,
          by rw [State.setHead_headOp, Option.map_some, hsteps]⟩
    case completeStep =>
      intro x hfind hentry
      exact exec_collStepComplete_of_step hhead hfind hentry
    case completeOp =>
      intro hsteps hlast hids hsrc
      have hexec := exec_collStepComplete_of_last hhead hheld hsteps hlast hids hsrc
      refine ⟨fun hno => ?_, ?_⟩
      · rw [hexec, State.endColl_of_no_copy c hno, State.retireColl]
      · rintro b d pa pb hkind hcore hne rfl rfl hr hw
        exact exec_collStepComplete_of_copy hexec hkind hcore hne hr hw
    case timeout =>
      intro hlate hall
      refine exec_collTimeout_of_late hhead hlate (other := false) (List.any_eq_false.mpr fun m hm => ?_)
      simpa using hall m hm
    case order =>
      intro m hm hvc hother hlate
      refine exec_collTimeout_of_late hhead hlate (other := true) (List.any_eq_true.mpr ⟨m, hm, ?_⟩)
      simpa [hvc] using hother
    case early =>
      exact exec_collTimeout_of_early hhead
  case message =>
    intro s n vc m hmsg hgood hheld
    refine ⟨?unexpected, ?data, ?grant⟩
    case unexpected =>
      exact exec_coll_of_unexpected hheld hmsg hgood
    case data =>
      intro o x v va pa hgrant hstep hsteps hwant hempty htodo hhalving hchan hplain
      have hhalving : 4 ≤ coChan o.words := hchan ▸ hhalving
      exact ⟨exec_coll_of_store hmsg hgood hheld hstep hsteps htodo hgrant hwant hempty hhalving hplain,
        exec_coll_of_add_int32 hmsg hgood hheld hstep hsteps htodo hgrant hwant hempty hhalving hplain⟩
    case grant =>
      intro o x hgrant hstep hsteps htodo
      exact exec_collGrant_of_step hmsg hgood hheld hstep hsteps htodo hgrant

end Sys2Proof.Machine
end

section
/-!
SUPPORT. What accesses of memory keep: what the elementary updates of reads keep, every translation and every read keeps,
and what storing bytes keeps besides, every write keeps (R40, R186, R487, R520 to R529).
-/

namespace Sys2Proof.Machine

/-- The register fields that accesses of memory count and log in. -/
def accessFlds : List Fld :=
  [R.creelHitsCount, R.creelMissesCount, R.creelWritebacksCount, R.creelEccUeCount, R.memErrLogChannel,
    R.memErrLogAddress, R.memErrLogValid, R.memChanStateUe, R.hampChanStateUe, R.mmuWalksCount, R.mmuFaultsCount,
    R.partAcctHbmCount, R.partAcctHamperCount, R.partAcctWaleTxCount, R.partAcctPcieCount, R.partAcctCreelCount]

/-- A property of states that the elementary updates of reads keep: counts and logs, the memory system's own state, tokens,
requests on the boundary, changes of the store, free values. -/
structure KeptByReads (P : State → Prop) : Prop where
  rset : ∀ {s : State} {f : Fld} {i v : Nat}, f ∈ accessFlds → P s → P (s.rset f i v)
  ms : ∀ {s : State} {m : MemSt}, P s → P { s with ms := m }
  parts : ∀ {s : State} {p : PartSt}, P s → P { s with parts := p }
  out : ∀ {s : State} {o : List Output}, P s → P { s with out := o }
  hdl : ∀ {s : State} {h : HdlSt}, P s → P { s with hdl := h }
  free : ∀ {s : State} {n : Nat}, P s → P { s with free := n }

/-- A property that storing bytes keeps too. -/
structure KeptByWrites (P : State → Prop) : Prop extends KeptByReads P where
  mem : ∀ {s : State} {m : List Host.Cell}, P s → P { s with mem := m }

namespace KeptByReads

variable {P : State → Prop} (hP : KeptByReads P) {s : State} (h : P s)
include hP h

theorem charge (c j n : Nat) : P (s.charge c j n) := by
  unfold State.charge
  split
  · exact h
  · split
    · split
      · exact hP.rset (by decide) h
      · exact h
    · refine hP.parts (hP.rset ?_ h)
      split
      · decide
      · split
        · decide
        · split <;> decide

theorem writeBack (x c : Nat) (l : List Line) : P (s.writeBack x c l) :=
  hP.charge (hP.rset (by decide) (hP.ms h)) ..

theorem creelSector (ctx c a : Nat) (w p na : Bool) : P (s.creelSector ctx c a w p na) :=
  State.creelSector_keeps (fun _ _ _ _ k => hP.ms k) (fun _ _ k => hP.rset (by decide) k)
    (fun _ _ k => hP.rset (by decide) k) (fun _ _ _ k => hP.charge k ..) (fun _ _ _ _ k => hP.writeBack k ..) h ..

theorem touch (ctx a n : Nat) (w na : Bool) : P (s.touch ctx a n w na) := by
  unfold State.touch
  split
  · split
    · exact h
    · exact hP.creelSector h ..
  · exact hP.charge h ..
  · split
    · exact h
    · exact hP.rset (by decide) h
  · exact hP.out (hP.charge h ..)
  · exact h

theorem noteUe (a : Nat) : P (s.noteUe a) := by
  unfold State.noteUe
  split
  · split
    · exact h
    · unfold State.setPending
      have hlog := fun ch v w => hP.rset (f := R.memChanStateUe) (i := ch) (v := v) (by decide)
        (hP.rset (f := R.memErrLogValid) (i := 0) (v := 1) (by decide)
          (hP.rset (f := R.memErrLogAddress) (i := 0) (v := w) (by decide)
            (hP.rset (f := R.memErrLogChannel) (i := 0) (v := ch) (by decide) h)))
      split
      · exact hP.hdl (hlog ..)
      · exact hlog ..
  · split
    · exact h
    · exact hP.rset (by decide) h
  · exact hP.rset (by decide) h
  · exact h

theorem mergeNote (a n : Nat) : P (s.mergeNote a n) := by
  unfold State.mergeNote
  split
  · exact hP.noteUe h a
  · exact h

omit h in
theorem readPieces (ctx : Nat) (na : Bool) (ps : List (Nat × Nat)) (r : Rd) (h : P r.s) :
    P (readPieces ctx na ps r).s := by
  induction ps generalizing r with
  | nil => exact h
  | cons p ps ih =>
    obtain ⟨a, n⟩ := p
    unfold Machine.readPieces
    split
    · exact ih _ (hP.touch h ..)
    · dsimp only
      split
      · exact hP.noteUe (hP.touch h ..) a
      · exact h

theorem pread (ctx a n : Nat) (na : Bool) : P (s.pread ctx a n na).s := hP.readPieces _ _ _ _ h

/-! ### Translations -/

theorem readTables (ctx : Nat) (l : List Nat) : P (s.readTables ctx l) := by
  refine List.foldlRecOn l _ h fun t ht a _ => ?_
  dsimp only
  split
  · exact hP.touch ht ..
  · exact hP.noteUe (hP.touch ht ..) a

theorem walkCached (rq : Rq) (va : Nat) (w : Bool) : P (s.walkCached rq va w).1 := by
  unfold State.walkCached
  dsimp only
  have hfree : ∀ l : List WalkEnt, P (if l.isEmpty then (0, s) else s.fresh).2 := fun l => by
    split
    · exact h
    · exact hP.free h
  split
  · exact hP.readTables (hfree _) ..
  · dsimp only
    split
    · exact hP.readTables (hfree _) ..
    · exact hP.ms (hP.readTables (hfree _) ..)

theorem countXlt (rq : Rq) (st : Status) : P (s.countXlt rq st) := by
  unfold State.countXlt
  split
  · exact hP.rset (by decide) h
  · exact h

theorem keepLeaf (rq : Rq) (va : Nat) (t : TlbEnt) : P (s.keepLeaf rq va t) :=
  List.foldlRecOn _ _ h fun _ ht _ _ => hP.ms ht

theorem useWalk (rq : Rq) (va : Nat) (w : Bool) (r : Status × Option TlbEnt) : P (s.useWalk rq va w r).s := by
  refine hP.countXlt ?_ rq r.1
  split
  · exact h
  · exact hP.keepLeaf h ..

theorem useLeaf (rq : Rq) (va : Nat) (w : Bool) (t : TlbEnt) : P (s.useLeaf rq va w t).s := by
  refine hP.countXlt ?_ rq _
  split
  · exact h
  · exact hP.keepLeaf h ..

theorem xlate (rq : Rq) (va : Nat) (w : Bool) : P (s.xlate rq va w).s := by
  have hfree : P s.fresh.2 := hP.free h
  unfold State.xlate
  split
  · exact hP.countXlt h rq stXltNotPresent
  · split
    · exact hP.useWalk (hP.walkCached (hP.rset (by decide) h) ..) ..
    · dsimp only
      split
      · split
        · exact hP.useWalk h ..
        · exact hP.useLeaf h ..
      · split
        · exact hP.useWalk hfree ..
        · exact hP.useLeaf hfree ..

/-! ### Reads by virtual address -/

omit h in
theorem vreadPieces (rq : Rq) (ps : List (Nat × Nat)) (r : Rd) (h : P r.s) : P (vreadPieces rq ps r).s := by
  induction ps generalizing r with
  | nil => exact h
  | cons p ps ih =>
    obtain ⟨va, n⟩ := p
    have hx := hP.xlate h rq va false
    unfold Machine.vreadPieces
    dsimp only
    split
    · split
      · exact ih _ (hP.pread hx ..)
      · exact hP.pread hx ..
    · exact hx

theorem vread (rq : Rq) (va n : Nat) : P (s.vread rq va n).s := hP.vreadPieces _ _ _ h

theorem workRead (rq : Rq) (work len : Nat) (l : List (Nat × Nat)) : P (s.workRead rq work len l).1 := by
  induction l generalizing s with
  | nil => exact h
  | cons p l ih =>
    have hread := hP.vread h rq (work + p.1) (min p.2 (len - p.1))
    unfold State.workRead
    dsimp only
    split
    · exact ih hread
    · exact hread

theorem encRows (b : Nat) (j : VidJob) (f : Nat) : P (s.encRows b j f).1 := by
  refine List.foldlRecOn (motive := fun w : State × Except (Status × Nat) (List (List Nat)) => P w.1) _ _ h fun w hw y _ => ?_
  dsimp only
  split
  · exact hw
  · rw [apply_ite Prod.fst, ite_self]
    exact hP.vread hw ..

/-- What loading windows keeps too, the motion search keeps. -/
theorem search (hwin : ∀ {t : State} {m : SMap VidWindow}, P t → P { t with vid := { t.vid with windows := m } })
    (rq : Rq) (b : Nat) (x : VidSess) (cur : List Nat) : P (s.search rq b x cur).1 := by
  refine List.foldlRecOn (motive := fun w : State × Option (Status × Nat) => P w.1) _ _ h fun w hw t _ => ?_
  split
  · exact hw
  · exact hwin (hP.workRead hw ..)

end KeptByReads

namespace KeptByWrites

variable {P : State → Prop} (hP : KeptByWrites P) {s : State} (h : P s)
include hP h

theorem storePiece (a : Nat) (bs : List Byte) : P (s.storePiece a bs) := by
  have hset : P (s.setBytes a bs) := by
    rw [State.setBytes_eq]
    exact hP.mem h
  unfold State.storePiece
  dsimp only
  split
  · exact hP.ms (hP.ms hset)
  · exact hP.ms hset

omit h in
theorem writePieces (ctx : Nat) (na : Bool) (ps : List (Nat × Nat)) (bs : List Byte) (r : Wr) (h : P r.s) :
    P (writePieces ctx na ps bs r).s := by
  induction ps generalizing bs r with
  | nil => exact h
  | cons p ps ih =>
    obtain ⟨a, n⟩ := p
    unfold Machine.writePieces
    split
    · exact ih _ _ (hP.storePiece (hP.touch (hP.mergeNote h ..) ..) ..)
    · exact h

theorem pwrite (ctx a : Nat) (bs : List Byte) (na : Bool) : P (s.pwrite ctx a bs na).s := hP.writePieces _ _ _ _ _ h

omit h in
theorem vwritePieces (rq : Rq) (ps : List (Nat × Nat)) (bs : List Byte) (r : Wr) (h : P r.s) :
    P (vwritePieces rq ps bs r).s := by
  induction ps generalizing bs r with
  | nil => exact h
  | cons p ps ih =>
    obtain ⟨va, n⟩ := p
    have hx := hP.xlate h rq va true
    unfold Machine.vwritePieces
    dsimp only
    split
    · split
      · exact ih _ _ (hP.pwrite hx ..)
      · exact hP.pwrite hx ..
    · exact hx

theorem vwrite (rq : Rq) (va : Nat) (bs : List Byte) : P (s.vwrite rq va bs).s := hP.vwritePieces _ _ _ _ h

theorem workWrite (rq : Rq) (work len : Nat) (l : List (Nat × List Byte)) : P (s.workWrite rq work len l).1 := by
  induction l generalizing s with
  | nil => exact h
  | cons p l ih =>
    have hwrite := hP.vwrite h rq (work + p.1) (p.2.take (len - p.1))
    unfold State.workWrite
    dsimp only
    split
    · exact ih hwrite
    · exact hwrite

theorem frameAccess (b : Nat) (j : VidJob) (f : VidFrame) : P (s.frameAccess b j f).1 := by
  have hread := hP.pread h j.ctx (s.rg R.vidSyntaxBaseBase b + f.place) f.len false
  unfold State.frameAccess
  dsimp only
  split
  · exact hread
  · split
    · exact hP.workRead hread ..
    · exact hP.workWrite (hP.workRead hread ..) ..

theorem jobWrite (b : Nat) (j : VidJob) (va : Nat) (bs : List Byte) : P (s.jobWrite b j va bs).1 := by
  unfold State.jobWrite
  split
  · exact h
  · exact hP.vwrite h ..

theorem statusRecord (b : Nat) (j : VidJob) (count r : Nat) : P (s.statusRecord b j count r).1 := by
  unfold State.statusRecord
  split
  · exact h
  · exact hP.jobWrite h ..

end KeptByWrites

/-- Reads leave memory as it is. -/
theorem keptByReads_mem (s : State) : KeptByReads (fun t => t.mem = s.mem) :=
  ⟨fun _ h => h, id, id, id, id, id⟩

end Sys2Proof.Machine
end

section
/-!
SUPPORT. The codec unit's state (R651 to R662, R689): its registers, sessions, queues and the contexts over accesses of
memory, and what each update of a queue and of a session gives.
-/

namespace Sys2Proof.Machine

/-! ### What accesses leave of the codec unit -/

/-- The register fields that the codec unit's work depends on and counts in. -/
def codecFlds : List Fld :=
  [R.vidSessionState, R.vidSessionEncode, R.vidSessionCodec, R.vidSessionFrames, R.vidDecFramesCount,
    R.vidEncFramesCount, R.vidPixelsCount]

/-- t has the codec unit's registers, the sessions and the contexts of s. -/
structure SameSess (s t : State) : Prop where
  regs : ∀ f ∈ codecFlds, ∀ i, t.rg f i = s.rg f i
  sess : t.vid.sess = s.vid.sess
  ctxs : t.ctxs = s.ctxs

/-- t also has the job queues of s. -/
structure SameCodec (s t : State) : Prop extends SameSess s t where
  jobs : t.vid.jobs = s.vid.jobs

theorem SameCodec.refl (s : State) : SameCodec s s := ⟨⟨fun _ _ _ => rfl, rfl, rfl⟩, rfl⟩

theorem SameCodec.trans {s t u : State} (h : SameCodec s t) (k : SameCodec t u) : SameCodec s u :=
  ⟨⟨fun f hf i => (k.regs f hf i).trans (h.regs f hf i), k.sess.trans h.sess, k.ctxs.trans h.ctxs⟩, k.jobs.trans h.jobs⟩

theorem codecFlds_off_access : ∀ f ∈ accessFlds, offFlds codecFlds f = true := by decide

/-- Accesses of memory leave the codec unit as it is. -/
theorem keptByWrites_sameCodec (s : State) : KeptByWrites (SameCodec s) where
  rset hf h := ⟨⟨fun g hg j =>
    (State.rset_rg_of_offFlds _ (codecFlds_off_access _ hf) hg ..).trans (h.regs g hg j), h.sess, h.ctxs⟩, h.jobs⟩
  ms h := ⟨⟨h.regs, h.sess, h.ctxs⟩, h.jobs⟩
  parts h := ⟨⟨h.regs, h.sess, h.ctxs⟩, h.jobs⟩
  out h := ⟨⟨h.regs, h.sess, h.ctxs⟩, h.jobs⟩
  hdl h := ⟨⟨h.regs, h.sess, h.ctxs⟩, h.jobs⟩
  free h := ⟨⟨h.regs, h.sess, h.ctxs⟩, h.jobs⟩
  mem h := ⟨⟨h.regs, h.sess, h.ctxs⟩, h.jobs⟩

/-- Loading search windows leaves registers, sessions, queues and contexts. -/
theorem SameCodec.setWindows {s t : State} (h : SameCodec s t) {m : SMap VidWindow} :
    SameCodec s { t with vid := { t.vid with windows := m } } :=
  ⟨⟨h.regs, h.sess, h.ctxs⟩, h.jobs⟩

theorem SameCodec.vidJobs {s t : State} (h : SameCodec s t) (b : Nat) : t.vidJobs b = s.vidJobs b := by
  rw [State.vidJobs, State.vidJobs, h.jobs]

/-- The next frame depends on the session's codec and streams, and on what the job has parsed. -/
theorem State.nextFrame_congr {s t : State} {j k : VidJob} (hn : k.session = j.session) (hp : k.parsed = j.parsed)
    (hs : k.stop = j.stop) (he : k.ends = j.ends) (hc : t.rg R.vidSessionCodec j.session = s.rg R.vidSessionCodec j.session)
    (hst : (t.session j.session).streams = (s.session j.session).streams) : t.nextFrame k = s.nextFrame j := by
  simp only [State.nextFrame, hn, hp, hs, he, hc, hst]

theorem State.ends_of_nextFrame {s : State} {j : VidJob} {f : Config.FrameInfo} (h : s.nextFrame j = some f) :
    j.ends = none ∧ j.stop = none := by
  unfold State.nextFrame at h
  split at h
  · cases h
  · next hrun => simpa using hrun

/-- An output row depends on the job's records and on the session's frames, streams and codec. -/
theorem State.outRow_congr {s t : State} {j k : VidJob} (hn : k.session = j.session) (hw : k.words = j.words)
    (hcol : k.colour = j.colour) (hc : t.rg R.vidSessionCodec j.session = s.rg R.vidSessionCodec j.session)
    (hst : (t.session j.session).streams = (s.session j.session).streams)
    (hf : (t.session j.session).frames = (s.session j.session).frames) (i : Nat) (f : Config.FrameInfo) (y : Nat) :
    t.outRow k i f y = s.outRow j i f y := by
  have hget : t.outSample j.session i (bit j.words 18) = s.outSample j.session i (bit j.words 18) := by
    funext plane x y
    simp only [State.outSample, hc, hst, hf]
  simp only [State.outRow, hn, hw, hcol, hget]

namespace SameSess

variable {s t : State} (h : SameSess s t)
include h

theorem session (n : Nat) : t.session n = s.session n := by
  rw [State.session, State.session, h.sess]

theorem rb {f : Fld} (hf : f ∈ codecFlds) (i : Nat) : t.rb f i = s.rb f i := by
  rw [State.rb, State.rb, h.regs f hf]

theorem encKey (j : VidJob) : t.encKey j = s.encKey j := by
  simp only [State.encKey, h.regs R.vidSessionFrames (by decide), h.session]

end SameSess

/-! ### Queues -/

@[simp] theorem State.setVidJobs_vidJobs_same (s : State) (b : Nat) (l : List VidJob) :
    (s.setVidJobs b l).vidJobs b = l :=
  smGetD_smPut_same ..

theorem State.setVidJobs_sameSess (s : State) (b : Nat) (l : List VidJob) : SameSess s (s.setVidJobs b l) :=
  ⟨fun _ hf i => State.rset_rg_of_offFlds { s with vid := { s.vid with jobs := smPut [] s.vid.jobs b l } }
    (l := codecFlds) (by decide) hf .., rfl, rfl⟩

theorem State.putJob_sameSess (s : State) (b : Nat) (k : VidJob) : SameSess s (s.putJob b k) :=
  s.setVidJobs_sameSess ..

/-- The packet of a job. -/
def VidJob.packet (j : VidJob) : Nat × Nat × Nat := (j.ctx, j.ring, j.slot)

/-- The head of a queue is replaced. -/
theorem State.putJob_vidJobs {s : State} {b : Nat} {j k : VidJob} {rest : List VidJob} (hq : s.vidJobs b = j :: rest)
    (hk : k.packet = j.packet) :
    ∃ l, (s.putJob b k).vidJobs b = k :: l ∧ (rest = [] → l = []) := by
  obtain ⟨hc, hr, hs⟩ : k.ctx = j.ctx ∧ k.ring = j.ring ∧ k.slot = j.slot := by simpa [VidJob.packet] using hk
  rw [State.putJob, State.setVidJobs_vidJobs_same, hq, List.map_cons, if_pos ⟨hc.symm, hr.symm, hs.symm⟩]
  exact ⟨_, rfl, by rintro rfl; rfl⟩

theorem State.putJob_head {s : State} {b : Nat} {j k : VidJob} {rest : List VidJob} (hq : s.vidJobs b = j :: rest)
    (hk : k.packet = j.packet) : ((s.putJob b k).vidJobs b).head? = some k := by
  obtain ⟨l, hl, -⟩ := State.putJob_vidJobs hq hk
  rw [hl, List.head?_cons]

theorem State.putJob_single {s : State} {b : Nat} {j k : VidJob} (hq : s.vidJobs b = [j]) (hk : k.packet = j.packet) :
    (s.putJob b k).vidJobs b = [k] := by
  obtain ⟨l, hl, hnil⟩ := State.putJob_vidJobs hq hk
  rw [hl, hnil rfl]

/-! ### Sessions -/

@[simp] theorem State.setSession_session_same (s : State) (n : Nat) (x : VidSess) : (s.setSession n x).session n = x :=
  smGetD_smPut_same ..
@[simp] theorem State.setSession_rg (s : State) (n : Nat) (x : VidSess) (f : Fld) (i : Nat) :
    (s.setSession n x).rg f i = s.rg f i := rfl
@[simp] theorem State.radd_session (s : State) (f : Fld) (i v n : Nat) : (s.radd f i v).session n = s.session n := rfl

theorem State.setNeeds_eq (s : State) (n : Nat) (v : Bool) :
    s.setNeeds n v = { s with
      regs := (s.setNeeds n v).regs, vid := { s.vid with sess := (s.setNeeds n v).vid.sess } } := by
  unfold State.setNeeds
  dsimp only
  split <;> rfl

section
variable (s : State) (n : Nat) (v : Bool)

@[simp] theorem State.setNeeds_vidJobs (b : Nat) : (s.setNeeds n v).vidJobs b = s.vidJobs b := by
  rw [State.setNeeds_eq]; rfl
@[simp] theorem State.setNeeds_ctxs : (s.setNeeds n v).ctxs = s.ctxs := by rw [State.setNeeds_eq]
@[simp] theorem State.setNeeds_mem : (s.setNeeds n v).mem = s.mem := by rw [State.setNeeds_eq]

@[simp] theorem State.setNeeds_session : (s.setNeeds n v).session n = { s.session n with needs := v } := by
  unfold State.setNeeds
  dsimp only
  split <;> exact s.setSession_session_same ..

/-- A session's state is the only register that shows whether it needs a key frame (R654). -/
theorem State.setNeeds_rg {f : Fld} (hf : offFlds [f] R.vidSessionState = true) (i : Nat) :
    (s.setNeeds n v).rg f i = s.rg f i := by
  unfold State.setNeeds
  dsimp only
  split
  · exact State.rset_rg_off _ hf ..
  · rfl

end

@[simp] theorem State.needKey_vidJobs (s : State) (n b : Nat) : (s.needKey n).vidJobs b = s.vidJobs b :=
  s.setNeeds_vidJobs ..
@[simp] theorem State.needKey_ctxs (s : State) (n : Nat) : (s.needKey n).ctxs = s.ctxs := s.setNeeds_ctxs ..
@[simp] theorem State.needKey_mem (s : State) (n : Nat) : (s.needKey n).mem = s.mem := s.setNeeds_mem ..
@[simp] theorem State.needKey_session (s : State) (n : Nat) :
    (s.needKey n).session n = { s.session n with needs := true } := s.setNeeds_session ..
@[simp] theorem State.needKey_encode (s : State) (n m : Nat) :
    (s.needKey n).rb R.vidSessionEncode m = s.rb R.vidSessionEncode m :=
  congrArg (· != 0) (s.setNeeds_rg n true (by decide) m)

/-! ### The end of a job -/

/-- How the packet of a job that ends completes (R139, R671, R676, R677, R683). -/
def VidJob.result (j : VidJob) (enc : Bool) : Done :=
  let e := j.ends.getD (j.stop.getD (if j.concealed = 0 then stOk else stVidDamaged), 0)
  ⟨e.1, if enc then min 65535 j.done else min 65535 j.written + min 65535 j.concealed * 2 ^ 16,
    if stClass e.1 = 2 ∨ stClass e.1 = 3 then e.2 else j.used⟩

/-- A job that parsing stopped completes with that status, which names no address. -/
theorem VidJob.result_of_stop {j : VidJob} {st : Status} (hends : j.ends = none) (hstop : j.stop = some st)
    (hclass : ¬(stClass st = 2 ∨ stClass st = 3)) :
    j.result false = ⟨st, min 65535 j.written + min 65535 j.concealed * 2 ^ 16, j.used⟩ := by
  simp only [VidJob.result, hends, hstop, Option.getD_none, Option.getD_some, Bool.false_eq_true, if_false, if_neg hclass]

/-- A job that an access or its unit ended completes with that status, and with the address of an access. -/
theorem VidJob.result_of_ends {j : VidJob} {e : Status × Nat} (hends : j.ends = some e) (enc : Bool) :
    j.result enc = ⟨e.1, if enc then min 65535 j.done else min 65535 j.written + min 65535 j.concealed * 2 ^ 16,
      if stClass e.1 = 2 ∨ stClass e.1 = 3 then e.2 else j.used⟩ := by
  simp only [VidJob.result, hends, Option.getD_some]

/-- An encode job that nothing ended completes with the frames and bytes that it has put out. -/
theorem VidJob.result_of_coded {j : VidJob} (hends : j.ends = none) (hstop : j.stop = none) (hconcealed : j.concealed = 0) :
    j.result true = ⟨stOk, min 65535 j.done, j.used⟩ := by
  have hclass : ¬(stClass stOk = 2 ∨ stClass stOk = 3) := by decide
  simp only [VidJob.result, hends, hstop, hconcealed, Option.getD_none, if_true, if_neg hclass]

@[simp] theorem State.endVid_mem (s : State) (b : Nat) (j : VidJob) : (s.endVid b j).mem = s.mem := rfl
@[simp] theorem State.endVid_session (s : State) (b : Nat) (j : VidJob) (n : Nat) :
    (s.endVid b j).session n = s.session n := rfl

theorem State.endVid_rg (s : State) (b : Nat) (j : VidJob) {f : Fld} (hf : f ∈ codecFlds) (i : Nat) :
    (s.endVid b j).rg f i = s.rg f i :=
  (s.setVidJobs_sameSess b _).regs f hf i

/-- The only job of a queue leaves it. -/
theorem State.endVid_vidJobs {s : State} {b : Nat} {j : VidJob} (hq : s.vidJobs b = [j]) : (s.endVid b j).vidJobs b = [] := by
  have hnone : (s.vidJobs b).filter (fun x => !(x.ctx == j.ctx && x.ring == j.ring && x.slot == j.slot)) = [] := by
    simp [hq]
  exact (State.setVidJobs_vidJobs_same ..).trans hnone

/-- A job that ends finishes its packet. -/
theorem State.endVid_jobs {s t : State} (h : t.ctxs = s.ctxs) (b : Nat) (j : VidJob) :
    ((t.endVid b j).ctx j.ctx).jobs =
      ((s.finish j.ctx j.ring j.slot (j.result (t.rb R.vidSessionEncode j.session))).ctx j.ctx).jobs := by
  have hctx : (t.setVidJobs b ((t.vidJobs b).filter fun x => !(x.ctx == j.ctx && x.ring == j.ring && x.slot == j.slot))).ctx
      j.ctx = s.ctx j.ctx := by
    rw [State.ctx, State.ctx, (t.setVidJobs_sameSess b _).ctxs, h]
  rw [State.endVid, State.finish, State.finish, State.setCtx_ctx_same, State.setCtx_ctx_same, hctx]
  rfl

/-! ### Settling a queue -/

/-- A queue stays as it is while its head has work left (R659). -/
theorem State.settleVid_of_waits {s : State} {b : Nat} {j : VidJob} {rest : List VidJob} (hq : s.vidJobs b = j :: rest)
    (h : s.rb R.vidSessionEncode j.session = true ∨ ¬ j.begun = true ∨ j.parsing = true ∨ j.busy = true ∨
      (s.nextFrame j).isSome = true ∨ j.ready ≠ []) (fuel : Nat) : s.settleVid b fuel = s := by
  cases fuel with
  | zero => rfl
  | succ fuel =>
    rw [State.settleVid, hq]
    dsimp only
    split
    · rfl
    · next hrun =>
      simp only [not_or, not_not] at hrun
      obtain ⟨henc, hbegun, hparse, hbusy⟩ := hrun
      rw [if_pos (by simpa [henc, hbegun, hparse, hbusy] using h)]

/-- A decode job alone in its queue, with no frame left and nothing to flush, ends (R671). -/
theorem State.settleVid_of_ended {s : State} {b : Nat} {j : VidJob} (hq : s.vidJobs b = [j])
    (henc : s.rb R.vidSessionEncode j.session = false) (hbegun : j.begun = true) (hparse : j.parsing = false)
    (hbusy : j.busy = false) (hnext : s.nextFrame j = none) (hready : j.ready = [])
    (hflush : j.ends.isSome = true ∨ bit j.words 16 = false ∨ (s.session j.session).held = []) (fuel : Nat) :
    s.settleVid b (fuel + 1) = s.endVid b j := by
  have hout : (if bit j.words 16 = true ∧ j.ends.isNone = true then s.outputs b j (s.session j.session).held else (s, j)) =
      (s, j) := by
    split
    · next hif =>
      have hheld : (s.session j.session).held = [] := by
        rcases hflush with hend | hbit | hheld
        · simp [Option.isNone_iff_eq_none.mp hif.2] at hend
        · simp [hif.1] at hbit
        · exact hheld
      rw [hheld, State.outputs, List.foldl_nil]
    · rfl
  have hneed : ¬(j.ends.isSome = true ∧ j.ends.isNone = true) := by
    cases j.ends <;> simp
  have hempty : ∀ n, (s.endVid b j).settleVid b n = s.endVid b j := by
    intro n
    cases n with
    | zero => rfl
    | succ n => rw [State.settleVid, State.endVid_vidJobs hq]
  rw [State.settleVid, hq]
  simp only [henc, hbegun, hparse, hbusy, hnext, hready, Bool.false_eq_true, not_true, or_self, if_false,
    Option.isSome_none, List.isEmpty_nil, hout, if_neg hneed, hempty]

/-- A job that has become the only one of its queue and is over leaves it and finishes its packet. -/
theorem State.settleVid_of_over {s u : State} {b : Nat} {j k : VidJob} (hq : u.vidJobs b = [j]) (hk : k.packet = j.packet)
    (hctxs : u.ctxs = s.ctxs) (henc : u.rb R.vidSessionEncode k.session = false) (hbegun : k.begun = true)
    (hparse : k.parsing = false) (hbusy : k.busy = false) (hover : k.ends.isSome = true ∨ k.stop.isSome = true)
    (hready : k.ready = [])
    (hflush : k.ends.isSome = true ∨ bit k.words 16 = false ∨ (u.session k.session).held = []) (fuel : Nat) :
    ∃ t, (u.putJob b k).settleVid b (fuel + 1) = t ∧ t.vidJobs b = [] ∧ t.session k.session = u.session k.session ∧
      (t.ctx k.ctx).jobs = ((s.finish k.ctx k.ring k.slot (k.result false)).ctx k.ctx).jobs := by
  have hone := State.putJob_single hq hk
  have hsame := u.putJob_sameSess b k
  have henc' := (hsame.rb (f := R.vidSessionEncode) (by decide) k.session).trans henc
  have hnext : (u.putJob b k).nextFrame k = none := if_pos hover
  refine ⟨_, State.settleVid_of_ended hone henc' hbegun hparse hbusy hnext hready (by rwa [hsame.session]) fuel,
    State.endVid_vidJobs hone, hsame.session _, ?_⟩
  rw [State.endVid_jobs (hsame.ctxs.trans hctxs), henc']

end Sys2Proof.Machine
end

section
/-!
SUPPORT. Parsing, reconstruction and encoding of frames (R659 to R689): a rule for each command of the codec unit in each of
its cases, the encoder's search window, and the obligation that these rules settle.
-/

namespace Sys2Proof.Machine

/-- No work waits where no regulator holds its context back (R187). -/
theorem State.regulated_of_not_held {s : State} {ctx : Nat} (h : ∀ i, i < 4 → s.heldBack ctx i = false) (t : State) :
    s.regulated t ctx = false := by
  simp [State.regulated, heldFlds, h]

/-- A cluster translates at a Border die (R660). -/
theorem vidRq_unit_lt {b : Nat} (hb : b < 2) (ctx : Nat) : (vidRq ctx b).unit < 18 := Nat.add_lt_add_left hb 16

theorem State.placeRead_memory (s : State) (rq : Rq) (va n : Nat) :
    s.placeRead ⟨1, 0, rq, va⟩ 0 n = ((s.vread rq va n).s, if (s.vread rq va n).st = 0 then .ok (s.vread rq va n).bs
      else .error ⟨(s.vread rq va n).st, 0, va + (s.vread rq va n).off⟩) := by
  unfold State.placeRead
  exact if_neg (Int.not_lt.mpr (Int.natCast_nonneg va))

theorem State.placeWrite_memory (s : State) (rq : Rq) (va : Nat) (bs : List Byte) :
    s.placeWrite ⟨1, 0, rq, va⟩ 0 bs = ((s.vwrite rq va bs).s, if (s.vwrite rq va bs).st = 0 then .ok ()
      else .error ⟨(s.vwrite rq va bs).st, 0, va + (s.vwrite rq va bs).off⟩) := by
  unfold State.placeWrite
  exact if_neg (Int.not_lt.mpr (Int.natCast_nonneg va))

theorem State.vread_of_readableAt {s : State} {rq : Rq} {va n pa : Nat} (h : s.ReadableAt rq va n pa)
    (hunit : rq.unit < 18) : (s.vread rq va n).st = 0 ∧ (s.vread rq va n).bs = s.bytes pa n := by
  obtain ⟨t, hread, -, -⟩ := State.placeRead_of_readableAt h hunit
  rw [State.placeRead_memory, Prod.mk.injEq] at hread
  obtain ⟨-, hres⟩ := hread
  split at hres
  · next hst => exact ⟨hst, by injection hres⟩
  · cases hres

theorem State.vwrite_of_writableAt {s : State} {rq : Rq} {va pa : Nat} {bs : List Byte}
    (h : s.WritableAt rq va bs.length pa) (hunit : rq.unit < 18) :
    (s.vwrite rq va bs).st = 0 ∧ Stored s (s.vwrite rq va bs).s pa bs := by
  obtain ⟨t, hwrite, hstored, -⟩ := State.placeWrite_of_writableAt h hunit
  rw [State.placeWrite_memory, Prod.mk.injEq] at hwrite
  obtain ⟨rfl, hres⟩ := hwrite
  split at hres
  · next hst => exact ⟨hst, hstored⟩
  · cases hres

/-! ### FRAME_PARSE_START (R662) -/

/-- A job that has begun is not read again. -/
theorem State.beginJob_of_begun (s : State) (b : Nat) {j : VidJob} (h : j.begun = true) : s.beginJob b j = (s, j) :=
  if_pos h

/-- The stream of a new job joins its session (R649). -/
theorem State.beginJob_of_readable {s : State} {b pa : Nat} {j : VidJob} (hb : b < 2) (hnew : j.begun = false)
    (hread : s.ReadableAt (vidRq j.ctx b) (bits j.words 64 48) (bits j.words 128 32) pa) :
    ∃ t, SameCodec s t ∧ t.mem = s.mem ∧ s.beginJob b j = (t.setSession j.session { s.session j.session with
      streams := (s.session j.session).streams ++ [s.bytes pa (bits j.words 128 32)] }, { j with begun := true }) := by
  obtain ⟨hst, hbs⟩ := State.vread_of_readableAt hread (vidRq_unit_lt hb j.ctx)
  have hsame := (keptByWrites_sameCodec s).vread (.refl s) (vidRq j.ctx b) (bits j.words 64 48) (bits j.words 128 32)
  refine ⟨_, hsame, (keptByReads_mem s).vread rfl .., ?_⟩
  simp [State.beginJob, hnew, hst, hbs, hsame.session]

/-- Past its run-ahead the entropy engine begins nothing. -/
theorem exec_frameParseStart_of_ahead {s : State} {b : Nat} (h : s.rg R.vidCfgRunahead 0 ≤ aheadOf (s.vidJobs b)) :
    exec (.frameParseStart b) s = .next s :=
  if_pos (.inr (.inr h))

section
variable {s : State} {b : Nat} {j : VidJob} {rest : List VidJob} (hq : s.vidJobs b = j :: rest)
  (hheld : ∀ i, i < 4 → s.heldBack j.ctx i = false)
include hq hheld

/-- Within its run-ahead the idle entropy engine begins the next frame of the head job, once its stream is read. -/
theorem exec_frameParseStart_of_next {u : State} {k : VidJob} (hb : b < 2) (hidle : ∀ l ∈ s.vidJobs b, l.parsing = false)
    (hroom : aheadOf (s.vidJobs b) < s.rg R.vidCfgRunahead 0) (hleft : s.parsedOut j = false)
    (hbegin : s.beginJob b j = (u, k)) (hu : u.vidJobs b = s.vidJobs b) (hk : k.packet = j.packet)
    (hnext : (u.nextFrame k).isSome = true) :
    exec (.frameParseStart b) s = .next (u.putJob b { k with parsing := true }) := by
  have hany : (s.vidJobs b).any VidJob.parsing = false := List.any_eq_false.mpr fun l hl => by simp [hidle l hl]
  have hgo : ¬(2 ≤ b ∨ (s.vidJobs b).any VidJob.parsing = true ∨ s.rg R.vidCfgRunahead 0 ≤ aheadOf (s.vidJobs b)) := by
    simp only [hany, Bool.false_eq_true, false_or]
    omega
  have hjob : s.parseJob (s.vidJobs b) = some j := by
    rw [hq, State.parseJob, hleft, if_neg Bool.false_ne_true]
  obtain ⟨l, hl, -⟩ := State.putJob_vidJobs (k := { k with parsing := true }) (hu.trans hq) hk
  show execFrameParseStart b s = _
  simp only [execFrameParseStart, if_neg hgo, hjob, hbegin, State.regulated_of_not_held hheld, Bool.false_eq_true,
    if_false, hnext]
  rw [State.settleVid_of_waits hl (.inr (.inr (.inl rfl)))]

/-- The entropy engine goes on with a job that it has begun. -/
theorem exec_frameParseStart_of_begun {f : Config.FrameInfo} (hb : b < 2) (hidle : ∀ l ∈ s.vidJobs b, l.parsing = false)
    (hroom : aheadOf (s.vidJobs b) < s.rg R.vidCfgRunahead 0) (henc : s.rb R.vidSessionEncode j.session = false)
    (hbegun : j.begun = true) (hnext : s.nextFrame j = some f) :
    exec (.frameParseStart b) s = .next (s.putJob b { j with parsing := true }) :=
  exec_frameParseStart_of_next hq hheld hb hidle hroom (by simp [State.parsedOut, henc, hnext])
    (s.beginJob_of_begun b hbegun) rfl rfl (by rw [hnext]; rfl)

/-- The entropy engine reads the stream of a new job, and begins its first frame. -/
theorem exec_frameParseStart_of_new {f : Config.FrameInfo} {pa : Nat} (hb : b < 2)
    (hidle : ∀ l ∈ s.vidJobs b, l.parsing = false) (hroom : aheadOf (s.vidJobs b) < s.rg R.vidCfgRunahead 0)
    (henc : s.rb R.vidSessionEncode j.session = false) (hstop : j.stop = none) (hends : j.ends = none)
    (hnew : j.begun = false) (hread : s.ReadableAt (vidRq j.ctx b) (bits j.words 64 48) (bits j.words 128 32) pa)
    (hnext : Config.codecFrame (s.rg R.vidSessionCodec j.session)
      ((s.session j.session).streams ++ [s.bytes pa (bits j.words 128 32)]) j.parsed = some f) :
    ∃ t, exec (.frameParseStart b) s = .next t ∧
      (t.vidJobs b).head? = some { j with begun := true, parsing := true } ∧
      (t.session j.session).streams = (s.session j.session).streams ++ [s.bytes pa (bits j.words 128 32)] ∧
      t.mem = s.mem := by
  obtain ⟨t, hsame, hmem, hbegin⟩ := State.beginJob_of_readable hb hnew hread
  have hcodec : t.rg R.vidSessionCodec j.session = s.rg R.vidSessionCodec j.session := hsame.regs _ (by decide) _
  have hjobs := hsame.vidJobs b
  refine ⟨_, exec_frameParseStart_of_next hq hheld hb hidle hroom (by simp [State.parsedOut, henc, hnew]) hbegin hjobs rfl
    ?_, State.putJob_head (hjobs.trans hq) rfl, ?_, hmem⟩
  · simp [State.nextFrame, hstop, hends, hcodec, hnext]
  · rw [(State.putJob_sameSess ..).session, State.setSession_session_same]

end

/-! ### FRAME_PARSE_DONE (R662, R663, R673 to R677) -/

/-- A frame that the session's decoder takes: its headers and its size are supported, and it is not skipped (R648, R651,
R673, R676). -/
structure State.Decodable (s : State) (n : Nat) (f : Config.FrameInfo) : Prop where
  supported : f.unsupported = false
  width : f.width ≤ (s.session n).maxW
  height : f.height ≤ (s.session n).maxH
  size : f.width * f.height ≤ 35651584
  depth : 8 < f.depth → s.rb R.vidSessionBit10 n = true
  needs : (s.session n).needs = false
  leading : f.rasl = false

/-- The session once it has taken a frame that it does not skip (R673). -/
def State.noteRasl (s : State) (n : Nat) (f : Config.FrameInfo) : State :=
  s.setSession n { s.session n with rasl := if f.key then false else (s.session n).rasl }

/-- A job once a frame of it is parsed. -/
def VidJob.afterParse (j : VidJob) (f : Config.FrameInfo) : VidJob :=
  { j with parsed := j.parsed + 1, parsing := false, used := f.used }

/-- None of the grounds on which a frame is unsupported holds of one that the decoder takes. -/
theorem State.Decodable.not_refused {s : State} {n : Nat} {f : Config.FrameInfo} (h : s.Decodable n f) :
    ¬(f.unsupported = true ∨ (s.session n).maxW < f.width ∨ (s.session n).maxH < f.height ∨
      35651584 < f.width * f.height ∨ (8 < f.depth ∧ ¬s.rb R.vidSessionBit10 n = true)) := by
  simp only [h.supported, Bool.false_eq_true, false_or, not_or, Nat.not_lt, not_and, not_not]
  exact ⟨h.width, h.height, h.size, h.depth⟩

/-- Damage stops a job that asks for it (R675, R676). -/
theorem State.judge_of_stop {s : State} {j : VidJob} {f : Config.FrameInfo} (hdec : s.Decodable j.session f)
    (hdamage : f.damage ≠ 0) (hstop : bit j.words 17 = true) :
    s.judge j f = ((s.noteRasl j.session f).needKey j.session, { j.afterParse f with stop := some stVidDamaged }) := by
  simp only [State.judge, State.noteRasl, VidJob.afterParse, if_neg hdec.not_refused, hdec.needs, hdec.leading, hdamage,
    hstop, Bool.false_eq_true, false_and, if_false, ne_eq, not_false_eq_true, and_self, if_true]

/-- The records of a whole frame are placed in the buffer, and the frame waits for the pixel engines (R662). -/
theorem State.judge_of_whole {s : State} {j : VidJob} {f : Config.FrameInfo} (hdec : s.Decodable j.session f)
    (hwhole : f.damage = 0) {b n : Nat} (hb : s.rg R.vidSessionCluster j.session = b)
    (hn : n = (vidRecords (s.rg R.vidSessionCodec j.session) (s.session j.session).streams j.parsed f).length) :
    SameCodec (s.noteRasl j.session f) (s.judge j f).1 ∧
      (s.judge j f).2 = { j.afterParse f with
        ready := j.ready ++ [⟨(s.session j.session).streams.length, j.parsed, f, false, false, false,
          recordPlace (recordsHeld (s.vidJobs b)) (s.rg R.vidSyntaxSizeSize b) n, n⟩] } := by
  subst hb hn
  have hput := fun a bs => (keptByWrites_sameCodec (s.noteRasl j.session f)).pwrite (.refl _) j.ctx a bs false
  simp only [State.judge, State.noteRasl, VidJob.afterParse, if_neg hdec.not_refused, hdec.needs, hdec.leading, hwhole,
    Bool.false_eq_true, false_and, if_false, ne_eq, not_true_eq_false] at hput ⊢
  exact ⟨hput .., rfl⟩

section
variable {s : State} {b : Nat} {j : VidJob} {rest : List VidJob} {f : Config.FrameInfo} (hq : s.vidJobs b = j :: rest)
  (hheld : ∀ i, i < 4 → s.heldBack j.ctx i = false) (hparse : j.parsing = true) (hnext : s.nextFrame j = some f)
include hq hparse hnext

/-- A frame whose records have no room waits. -/
theorem exec_frameParseDone_of_noRoom (hroom : s.syntaxRoom b j f = false) : exec (.frameParseDone b) s = .next s := by
  have hjob : (s.vidJobs b).find? VidJob.parsing = some j := by rw [hq, List.find?_cons_of_pos hparse]
  show execFrameParseDone b s = _
  simp only [execFrameParseDone, hjob, hnext, hroom, Bool.false_eq_true, not_false_eq_true, true_or, if_true]

include hheld

/-- A frame whose records have room is judged, and the queue settles. -/
theorem exec_frameParseDone_of_room (hroom : s.syntaxRoom b j f = true) :
    exec (.frameParseDone b) s = .next (((s.judge j f).1.putJob b (s.judge j f).2).settleVid b 64) := by
  have hjob : (s.vidJobs b).find? VidJob.parsing = some j := by rw [hq, List.find?_cons_of_pos hparse]
  show execFrameParseDone b s = _
  simp only [execFrameParseDone, hjob, hnext, hroom, State.regulated_of_not_held hheld, not_true_eq_false, Bool.false_eq_true,
    or_self, if_false]

variable (hdec : s.Decodable j.session f) (hroom : s.syntaxRoom b j f = true)
include hdec hroom

/-- A whole frame waits for the pixel engines. -/
theorem exec_frameParseDone_of_whole {n : Nat} (hcluster : s.rg R.vidSessionCluster j.session = b)
    (hn : n = (vidRecords (s.rg R.vidSessionCodec j.session) (s.session j.session).streams j.parsed f).length)
    (hwhole : f.damage = 0) :
    ∃ t, exec (.frameParseDone b) s = .next t ∧ (t.vidJobs b).head? = some { j.afterParse f with
      ready := j.ready ++ [⟨(s.session j.session).streams.length, j.parsed, f, false, false, false,
        recordPlace (recordsHeld (s.vidJobs b)) (s.rg R.vidSyntaxSizeSize b) n, n⟩] } := by
  obtain ⟨hsame, hjob⟩ := State.judge_of_whole hdec hwhole hcluster hn
  have hq' : (s.judge j f).1.vidJobs b = j :: rest := (hsame.vidJobs b).trans hq
  obtain ⟨l, hl, -⟩ := State.putJob_vidJobs (k := (s.judge j f).2) hq' (by rw [hjob]; rfl)
  have hready : (s.judge j f).2.ready ≠ [] := by
    rw [hjob]
    exact List.append_ne_nil_of_right_ne_nil _ (List.cons_ne_nil _ _)
  refine ⟨_, exec_frameParseDone_of_room hq hheld hparse hnext hroom, ?_⟩
  rw [State.settleVid_of_waits hl (.inr (.inr (.inr (.inr (.inr hready))))), hl, List.head?_cons, hjob]

/-- Damage ends a job that stops on it, where no frame of it waits and none is held for output. -/
theorem exec_frameParseDone_of_stop (hdamage : f.damage ≠ 0) (hstop : bit j.words 17 = true) (hready : j.ready = [])
    (hbusy : j.busy = false) (hlast : rest = []) (henc : s.rb R.vidSessionEncode j.session = false)
    (hbegun : j.begun = true) (hflush : bit j.words 16 = false ∨ (s.session j.session).held = []) :
    ∃ t, exec (.frameParseDone b) s = .next t ∧ t.vidJobs b = [] ∧ (t.session j.session).needs = true ∧
      (t.ctx j.ctx).jobs = ((s.finish j.ctx j.ring j.slot
        ⟨stVidDamaged, min 65535 j.written + min 65535 j.concealed * 2 ^ 16, f.used⟩).ctx j.ctx).jobs := by
  subst hlast
  obtain ⟨hends, -⟩ := State.ends_of_nextFrame hnext
  let k : VidJob := { j.afterParse f with stop := some stVidDamaged }
  have hq' : ((s.noteRasl j.session f).needKey j.session).vidJobs b = [j] := (State.needKey_vidJobs ..).trans hq
  obtain ⟨t, hsettle, hjobs, hsess, hfin⟩ := State.settleVid_of_over (s := s) (k := k) hq' rfl (State.needKey_ctxs ..)
    ((State.needKey_encode ..).trans henc) hbegun rfl hbusy (.inr rfl) hready
    (.inr (hflush.imp_right fun h => by simpa [k, VidJob.afterParse, State.noteRasl] using h)) 63
  refine ⟨t, ?_, hjobs, ?_, ?_⟩
  · rw [exec_frameParseDone_of_room hq hheld hparse hnext hroom, State.judge_of_stop hdec hdamage hstop, ← hsettle]
  · exact congrArg VidSess.needs (hsess.trans (State.needKey_session ..))
  · rw [VidJob.result_of_stop (j := k) (st := stVidDamaged) hends rfl (by decide)] at hfin
    exact hfin

end

/-! ### FRAME_RECONSTRUCT_START (R659, R662) -/

/-- The pixel engines begin a frame that is parsed, or is to be coded. -/
theorem exec_frameReconstructStart_of_ready {s : State} {b : Nat} {j : VidJob} {rest : List VidJob} (hb : b < 2)
    (hq : s.vidJobs b = j :: rest) (hidle : j.busy = false)
    (hready : s.rb R.vidSessionEncode j.session = true ∨ j.ready ≠ []) :
    exec (.frameReconstructStart b) s = .next (s.putJob b { j with busy := true }) := by
  have hgo : ¬(2 ≤ b ∨ j.busy = true ∨ (¬s.rb R.vidSessionEncode j.session = true ∧ j.ready.isEmpty = true)) := by
    simp only [hidle, Bool.false_eq_true, false_or, not_or, not_and, List.isEmpty_iff]
    exact ⟨Nat.not_le.mpr hb, fun h => hready.resolve_left h⟩
  show execFrameReconstructStart b s = _
  simp only [execFrameReconstructStart, hq, if_neg hgo]

/-! ### The search window (R687) -/

/-- A vector that the encoder considers has its block and its interpolation support within the window. -/
theorem motionInside_of_considered {coded : List (List Nat)} {cur : List Nat} {m : Config.Motion}
    (h : m ∈ considered coded cur) : motionInside m = true := by
  have hm := (List.mem_filter.mp h).2
  exact (Bool.and_eq_true _ _ ▸ hm).1

/-- A block within one area may move by up to 252 luma samples horizontally and 124 vertically. -/
theorem motionInside_of_reach {m : Config.Motion} (hx : m.x % 64 + m.w ≤ 64) (hy : m.y % 64 + m.h ≤ 64)
    (hl : -252 * 8 ≤ m.dx) (hr : m.dx ≤ 252 * 8) (ht : -124 * 8 ≤ m.dy) (hd : m.dy ≤ 124 * 8) : motionInside m = true := by
  simp only [motionInside, decide_eq_true_eq]
  omega

/-! ### FRAME_RECONSTRUCT_DONE of a decoder (R659, R660, R665, R670, R677) -/

/-- Whether a frame is concealed, or predicts from a tainted one and is no key frame (R675). -/
def State.taints (s : State) (n : Nat) (f : VidFrame) : Bool :=
  let x := s.session n
  f.concealed || (f.info.refs.any (fun k => decide (0 < k ∧ k ≤ x.frames.length) &&
    ((x.frames[x.frames.length - k]?).map VidFrame.tainted).getD false) && !f.info.key)

/-- A decoded frame as its session keeps it. -/
def State.keptFrame (s : State) (n : Nat) (f : VidFrame) : VidFrame := { f with tainted := s.taints n f }

/-- A session that keeps one more frame, for prediction and for output. -/
def VidSess.keep (x : VidSess) (f : VidFrame) : VidSess :=
  { x with frames := x.frames ++ [f], held := insertHeld (x.frames ++ [f]) x.frames.length x.held }

/-- The state once a decoded frame is counted and its session keeps it (R665, R689). -/
def State.keepFrame (s : State) (b n : Nat) (f : VidFrame) : State :=
  ((s.radd R.vidDecFramesCount b 1).radd R.vidPixelsCount b (f.info.width * f.info.height)).setSession n
    ((s.session n).keep (s.keptFrame n f))

section
variable (s : State) (b n : Nat) (f : VidFrame)

@[simp] theorem State.keepFrame_session : (s.keepFrame b n f).session n = (s.session n).keep (s.keptFrame n f) :=
  State.setSession_session_same ..

theorem State.keepFrame_decFrames :
    (s.keepFrame b n f).rg R.vidDecFramesCount b = (s.rg R.vidDecFramesCount b + 1) % 2 ^ R.vidDecFramesCount.width :=
  (State.rset_rg_off _ (by decide) ..).trans (State.rset_rg_same ..)

theorem State.keepFrame_pixels :
    (s.keepFrame b n f).rg R.vidPixelsCount b =
      (s.rg R.vidPixelsCount b + f.info.width * f.info.height) % 2 ^ R.vidPixelsCount.width :=
  (State.rset_rg_same ..).trans
    (congrArg (fun v => (v + _) % _) (State.rset_rg_off s (f := R.vidDecFramesCount) (by decide) b b _))

/-- Every field but the two counters is as before. -/
theorem State.keepFrame_rg {g : Fld} (hd : offFlds [g] R.vidDecFramesCount = true)
    (hp : offFlds [g] R.vidPixelsCount = true) (i : Nat) : (s.keepFrame b n f).rg g i = s.rg g i :=
  (State.rset_rg_off _ hp ..).trans (State.rset_rg_off _ hd ..)

end

/-- What a frame that is not concealed gives is what its outputs give (R665). -/
theorem State.decoded_of_outputs {s t : State} {b : Nat} {j k : VidJob} {f : VidFrame} (hwhole : f.concealed = false)
    (hout : (s.keepFrame b j.session f).outputs b { j with done := j.done + 1 }
      ((f.info.outputs.filter (fun k => decide (k ≤ (s.session j.session).frames.length))).map
        (fun k => (s.session j.session).frames.length - k)) = (t, k)) (hends : k.ends = none) :
    s.decoded b j f = (t, k) := by
  have hzero : b2n f.concealed = 0 := by rw [hwhole]; rfl
  have hnot : ¬f.concealed = true := by simp [hwhole]
  unfold State.decoded
  dsimp only
  rw [if_neg hnot, hzero]
  exact (congrArg (fun w : State × VidJob =>
    if w.2.ends.isSome then (w.1.needKey j.session, { w.2 with ready := [] }) else w) hout).trans (if_neg (by simp [hends]))

theorem mem_insertHeld (fs : List VidFrame) (i : Nat) (l : List Nat) : i ∈ insertHeld fs i l := by
  induction l with
  | nil => exact List.mem_singleton.mpr rfl
  | cons h l ih =>
    unfold insertHeld
    dsimp only
    split
    · exact List.mem_cons_self
    · exact List.mem_cons_of_mem _ ih

@[simp] theorem State.length_outRow (s : State) (j : VidJob) (i : Nat) (f : Config.FrameInfo) (y : Nat) :
    (s.outRow j i f y).length =
      f.width * ((bits j.words 21 2 + 1) * (fmtBits (bits j.words 24 8) / 8)) := by
  simp [State.outRow, List.length_flatMap, below_eq_range]

/-- Output frame i of a session: it is no longer held (R665). -/
def State.release (s : State) (n i : Nat) : State :=
  s.setSession n { s.session n with held := (s.session n).held.filter (fun h => h != i) }

/-- A held frame is output and no longer held. -/
theorem State.outputs_single {s : State} {b : Nat} {j : VidJob} {i : Nat} (h : i ∈ (s.session j.session).held) :
    s.outputs b j [i] = (s.release j.session i).outFrame b j i := by
  simp only [State.outputs, List.foldl_cons, List.foldl_nil, List.contains_iff_mem.mpr h, if_true]
  rfl

/-- A job that no status has ended keeps on after a write that meets none. -/
theorem State.jobWrite_of_stored {s : State} {b va : Nat} {j : VidJob} {bs : List Byte} (hends : j.ends = none)
    (hst : (s.vwrite (vidRq j.ctx b) va bs).st = 0) :
    s.jobWrite b j va bs = ((s.vwrite (vidRq j.ctx b) va bs).s, j) := by
  have hgo : ¬j.ends.isSome = true := by simp [hends]
  simp only [State.jobWrite, if_neg hgo, hst, if_true]

/-- A record that asks for no status records gets none. -/
theorem State.statusRecord_zero (s : State) (b : Nat) (j : VidJob) (r : Nat) : s.statusRecord b j 0 r = (s, j) :=
  if_pos (Nat.zero_le _)

/-- A frame of one row that a job writes, without a status record (R665, R670). -/
theorem State.outFrame_of_row {s u : State} {b i k : Nat} {j : VidJob} {f : VidFrame}
    (hf : (s.session j.session).frames[i]? = some f) (hends : j.ends = none) (hrow : f.info.height = 1)
    (hrec : bits j.words 560 16 = 0) (hk : k = s.rg R.vidSessionFrames j.session) (hfirst : bits j.words 192 32 ≤ k)
    (hstep : (k - bits j.words 192 32) % bits j.words 176 8 = 0) (hroom : j.written < bits j.words 160 16)
    (hu : u = s.radd R.vidSessionFrames j.session 1)
    (hst : (u.vwrite (vidRq j.ctx b) (bits j.words 256 48 + j.written * bits j.words 384 40)
      (u.outRow j i f.info 0)).st = 0) :
    s.outFrame b j i = ((u.vwrite (vidRq j.ctx b) (bits j.words 256 48 + j.written * bits j.words 384 40)
      (u.outRow j i f.info 0)).s, { j with written := j.written + 1 }) := by
  subst hk hu
  have hwr : (decide (bits j.words 192 32 ≤ s.rg R.vidSessionFrames j.session) &&
      (s.rg R.vidSessionFrames j.session - bits j.words 192 32) % bits j.words 176 8 == 0 &&
      decide (j.written < bits j.words 160 16)) = true := by
    simp [hfirst, hstep, hroom]
  have hone : below 1 = [0] := rfl
  have hgo : ¬j.ends.isSome = true := by simp [hends]
  have hon : j.ends.isNone = true := by simp [hends]
  simp only [State.outFrame, hf, if_neg hgo, hwr, if_true, hrow, hone, List.foldl_cons, List.foldl_nil, Nat.zero_mul,
    Nat.add_zero, State.jobWrite_of_stored hends hst, hon, and_self, hrec, State.statusRecord_zero]

/-- The state once a decoded frame is counted, kept and shown: its number is the session's next (R670, R689). -/
def State.showFrame (s : State) (b n : Nat) (f : VidFrame) : State :=
  ((s.keepFrame b n f).release n (s.session n).frames.length).radd R.vidSessionFrames n 1

section
variable (s : State) (b n : Nat) (f : VidFrame)

theorem State.showFrame_session :
    ((s.showFrame b n f).session n).frames = (s.session n).frames ++ [s.keptFrame n f] ∧
      ((s.showFrame b n f).session n).streams = (s.session n).streams := by
  simp [State.showFrame, State.release, VidSess.keep]

theorem State.showFrame_frames :
    (s.showFrame b n f).rg R.vidSessionFrames n =
      (s.rg R.vidSessionFrames n + 1) % 2 ^ R.vidSessionFrames.width :=
  (State.rset_rg_same ..).trans
    (congrArg (fun v => (v + 1) % _) (s.keepFrame_rg b n f (g := R.vidSessionFrames) (by decide) (by decide) n))

theorem State.showFrame_codec (i : Nat) : (s.showFrame b n f).rg R.vidSessionCodec i = s.rg R.vidSessionCodec i :=
  (State.rset_rg_off _ (by decide) ..).trans (s.keepFrame_rg b n f (by decide) (by decide) i)

theorem State.setSession_sameMap (x : VidSess) : SameMap s (s.setSession n x) := .of_regs (fun _ _ _ => rfl) rfl rfl rfl

/-- Counting and keeping a frame leaves memory and its translations. -/
theorem State.showFrame_sameMap : SameMap s (s.showFrame b n f) :=
  (((((SameMap.refl s).rset (by decide)).rset (by decide)).trans (State.setSession_sameMap ..)).trans
    (State.setSession_sameMap ..)).rset (by decide)

end

/-- A frame of one row that alone is output is shown, written, and counted as written (R665, R670). -/
theorem State.decoded_of_row {s : State} {b k pa : Nat} {j : VidJob} {f : VidFrame} (hb : b < 2)
    (hwhole : f.concealed = false) (hends : j.ends = none) (hout : f.info.outputs = [0]) (hrow : f.info.height = 1)
    (hrec : bits j.words 560 16 = 0) (hk : k = s.rg R.vidSessionFrames j.session) (hfirst : bits j.words 192 32 ≤ k)
    (hstep : (k - bits j.words 192 32) % bits j.words 176 8 = 0) (hroom : j.written < bits j.words 160 16)
    (hw : s.WritableAt (vidRq j.ctx b) (bits j.words 256 48 + j.written * bits j.words 384 40)
      (f.info.width * ((bits j.words 21 2 + 1) * (fmtBits (bits j.words 24 8) / 8))) pa) :
    ∃ t, s.decoded b j f = (t, { j with done := j.done + 1, written := j.written + 1 }) ∧
      SameCodec (s.showFrame b j.session f) t ∧
      Stored s t pa ((s.showFrame b j.session f).outRow j (s.session j.session).frames.length f.info 0) := by
  have hu := (s.showFrame_sameMap b j.session f).writableAt hw
  rw [← (s.showFrame b j.session f).length_outRow j (s.session j.session).frames.length f.info 0] at hu
  obtain ⟨hst, hstored⟩ := State.vwrite_of_writableAt hu (vidRq_unit_lt hb j.ctx)
  have hframe : (((s.keepFrame b j.session f).release j.session (s.session j.session).frames.length).session
      j.session).frames[(s.session j.session).frames.length]? = some (s.keptFrame j.session f) := by
    simp [State.release, VidSess.keep]
  have hheld : (s.session j.session).frames.length ∈ ((s.keepFrame b j.session f).session j.session).held := by
    rw [State.keepFrame_session]
    exact mem_insertHeld ..
  refine ⟨_, State.decoded_of_outputs hwhole ?_ hends, (keptByWrites_sameCodec _).vwrite (.refl _) .., hstored⟩
  rw [hout, List.filter_cons_of_pos (by simp), List.filter_nil, List.map_cons, List.map_nil, Nat.sub_zero]
  refine (State.outputs_single (j := { j with done := j.done + 1 }) hheld).trans
    (State.outFrame_of_row (j := { j with done := j.done + 1 }) (f := s.keptFrame j.session f) (k := k) hframe hends hrow
      hrec ?_ hfirst hstep hroom rfl hst)
  exact hk.trans (s.keepFrame_rg b j.session f (by decide) (by decide) j.session).symm

theorem State.sameCodec_of_frameAccess {s u : State} {b : Nat} {j : VidJob} {f : VidFrame} {r : Option (Status × Nat)}
    (h : s.frameAccess b j f = (u, r)) : SameCodec s u := by
  have hsame := (keptByWrites_sameCodec s).frameAccess (.refl s) b j f
  rwa [h] at hsame

section
variable {s u : State} {b : Nat} {j : VidJob} {rest : List VidJob} {f : VidFrame} {fs : List VidFrame}
  (hq : s.vidJobs b = j :: rest) (hheld : ∀ i, i < 4 → s.heldBack j.ctx i = false) (hbusy : j.busy = true)
  (henc : s.rb R.vidSessionEncode j.session = false) (hready : j.ready = f :: fs)
include hq hheld hbusy henc hready

/-- The pixel engines finish the head job's frame, and the queue settles. -/
theorem exec_frameReconstructDone_of_decoder {r : State × VidJob}
    (hrec : s.reconstruct b { j with busy := false, ready := fs } f = r) :
    exec (.frameReconstructDone b) s = .next ((r.1.putJob b r.2).settleVid b 64) := by
  show execFrameReconstructDone b s = _
  simp only [execFrameReconstructDone, hq, hbusy, henc, hready, hrec, State.regulated_of_not_held hheld, not_true_eq_false,
    Bool.false_eq_true, if_false]

/-- A frame that is decoded leaves a job that has more frames at the head of its queue. -/
theorem exec_frameReconstructDone_of_decoded {t : State} {k : VidJob} (hsame : SameCodec s u)
    (haccess : s.frameAccess b { j with busy := false, ready := fs } f = (u, none))
    (hdec : u.decoded b { j with busy := false, ready := fs } f = (t, k)) (hjobs : t.vidJobs b = u.vidJobs b)
    (hpacket : k.packet = j.packet) (hrest : k.ready = fs) (hnext : t.nextFrame k = u.nextFrame j)
    (hmore : fs ≠ [] ∨ (s.nextFrame j).isSome = true) :
    exec (.frameReconstructDone b) s = .next (t.putJob b k) := by
  have hrec : s.reconstruct b { j with busy := false, ready := fs } f = (t, k) := by
    simp only [State.reconstruct, haccess, hdec]
  obtain ⟨l, hl, -⟩ := State.putJob_vidJobs ((hjobs.trans (hsame.vidJobs b)).trans hq) hpacket
  have hput := t.putJob_sameSess b k
  have hleft : (t.putJob b k).nextFrame k = s.nextFrame j := by
    rw [State.nextFrame_congr rfl rfl rfl rfl (hput.regs _ (by decide) _) (by rw [hput.session]), hnext]
    exact State.nextFrame_congr rfl rfl rfl rfl (hsame.regs _ (by decide) _) (by rw [hsame.session])
  rw [exec_frameReconstructDone_of_decoder hq hheld hbusy henc hready hrec, State.settleVid_of_waits hl]
  rw [hleft, hrest]
  exact .inr (.inr (.inr (.inr hmore.symm)))

/-- An access that fails ends a job alone in its queue with its status and address. -/
theorem exec_frameReconstructDone_of_failed {e : Status × Nat} (hparse : j.parsing = false) (hbegun : j.begun = true)
    (hlast : rest = []) (haccess : s.frameAccess b { j with busy := false, ready := fs } f = (u, some e)) :
    ∃ t, exec (.frameReconstructDone b) s = .next t ∧ t.vidJobs b = [] ∧ (t.session j.session).needs = true ∧
      (t.ctx j.ctx).jobs = ((s.finish j.ctx j.ring j.slot ⟨e.1, min 65535 j.written + min 65535 j.concealed * 2 ^ 16,
        if stClass e.1 = 2 ∨ stClass e.1 = 3 then e.2 else j.used⟩).ctx j.ctx).jobs := by
  subst hlast
  have hsame := State.sameCodec_of_frameAccess haccess
  have hrec : s.reconstruct b { j with busy := false, ready := fs } f =
      (u.needKey j.session, { j with busy := false, ready := [], ends := some e }) := by
    simp only [State.reconstruct, haccess]
  obtain ⟨t, hsettle, hjobs, hsess, hfin⟩ := State.settleVid_of_over (s := s) (u := u.needKey j.session) (j := j)
    (k := { j with busy := false, ready := [], ends := some e })
    (((State.needKey_vidJobs ..).trans (hsame.vidJobs b)).trans hq) rfl ((State.needKey_ctxs ..).trans hsame.ctxs)
    ((State.needKey_encode ..).trans ((hsame.rb (by decide) _).trans henc)) hbegun hparse rfl (.inl rfl) rfl (.inl rfl) 63
  refine ⟨t, ?_, hjobs, congrArg VidSess.needs (hsess.trans (State.needKey_session ..)), ?_⟩
  · rw [exec_frameReconstructDone_of_decoder hq hheld hbusy henc hready hrec, ← hsettle]
  · rw [VidJob.result_of_ends (j := { j with busy := false, ready := [], ends := some e }) rfl] at hfin
    exact hfin

variable (hends : j.ends = none) (haccess : s.frameAccess b { j with busy := false, ready := fs } f = (u, none))
  (hwhole : f.concealed = false) (hmore : fs ≠ [] ∨ (s.nextFrame j).isSome = true)
include hends haccess hwhole hmore

/-- A frame without output is counted and kept. -/
theorem exec_frameReconstructDone_of_kept (hout : f.info.outputs = []) :
    ∃ t, exec (.frameReconstructDone b) s = .next t ∧
      (t.vidJobs b).head? = some { j with busy := false, ready := fs, done := j.done + 1 } ∧
      (t.session j.session).frames.length = (s.session j.session).frames.length + 1 ∧
      t.rg R.vidDecFramesCount b = (s.rg R.vidDecFramesCount b + 1) % 2 ^ R.vidDecFramesCount.width ∧
      t.rg R.vidPixelsCount b =
        (s.rg R.vidPixelsCount b + f.info.width * f.info.height) % 2 ^ R.vidPixelsCount.width ∧ t.mem = u.mem := by
  have hsame := State.sameCodec_of_frameAccess haccess
  have hdec : u.decoded b { j with busy := false, ready := fs } f =
      (u.keepFrame b j.session f, { j with busy := false, ready := fs, done := j.done + 1 }) :=
    State.decoded_of_outputs hwhole (by rw [hout]; rfl) hends
  have hexec := exec_frameReconstructDone_of_decoded hq hheld hbusy henc hready hsame haccess hdec rfl rfl rfl
    (State.nextFrame_congr rfl rfl rfl rfl (u.keepFrame_rg b j.session f (by decide) (by decide) _)
      (by rw [State.keepFrame_session]; rfl)) hmore
  have hput := (u.keepFrame b j.session f).putJob_sameSess b { j with busy := false, ready := fs, done := j.done + 1 }
  refine ⟨_, hexec, State.putJob_head ((hsame.vidJobs b).trans hq) rfl, ?_, ?_, ?_, rfl⟩
  · rw [hput.session, State.keepFrame_session, hsame.session]
    simp [VidSess.keep]
  · rw [hput.regs _ (by decide), State.keepFrame_decFrames, hsame.regs _ (by decide)]
  · rw [hput.regs _ (by decide), State.keepFrame_pixels, hsame.regs _ (by decide)]

/-- A frame of one row that is output is written. -/
theorem exec_frameReconstructDone_of_written {k n pa : Nat} (hb : b < 2) (hout : f.info.outputs = [0])
    (hrow : f.info.height = 1) (hrec : bits j.words 560 16 = 0) (hk : k = s.rg R.vidSessionFrames j.session)
    (hfirst : bits j.words 192 32 ≤ k) (hstep : (k - bits j.words 192 32) % bits j.words 176 8 = 0)
    (hroom : j.written < bits j.words 160 16)
    (hn : n = f.info.width * ((bits j.words 21 2 + 1) * (fmtBits (bits j.words 24 8) / 8)))
    (hw : u.WritableAt (vidRq j.ctx b) (bits j.words 256 48 + j.written * bits j.words 384 40) n pa) :
    ∃ t, exec (.frameReconstructDone b) s = .next t ∧
      Stored u t pa (t.outRow j (s.session j.session).frames.length f.info 0) ∧
      (t.vidJobs b).head? = some { j with
        busy := false, ready := fs, done := j.done + 1, written := j.written + 1 } ∧
      t.rg R.vidSessionFrames j.session = (k + 1) % 2 ^ R.vidSessionFrames.width := by
  subst hn
  have hsame := State.sameCodec_of_frameAccess haccess
  obtain ⟨t, hdec, hshow, hstored⟩ := State.decoded_of_row (j := { j with busy := false, ready := fs }) hb hwhole hends hout
    hrow hrec (hk.trans (hsame.regs _ (by decide) _).symm) hfirst hstep hroom hw
  obtain ⟨hframes, hstreams⟩ := u.showFrame_session b j.session f
  have hexec := exec_frameReconstructDone_of_decoded hq hheld hbusy henc hready hsame haccess hdec (hshow.vidJobs b) rfl rfl
    (State.nextFrame_congr rfl rfl rfl rfl ((hshow.regs _ (by decide) _).trans (u.showFrame_codec ..))
      ((congrArg VidSess.streams (hshow.session _)).trans hstreams)) hmore
  let k' : VidJob := { j with busy := false, ready := fs, done := j.done + 1, written := j.written + 1 }
  have hput := t.putJob_sameSess b k'
  have hsess := (hput.session j.session).trans (hshow.session j.session)
  have hbytes : (t.putJob b k').outRow j (s.session j.session).frames.length f.info 0 =
      (u.showFrame b j.session f).outRow j (s.session j.session).frames.length f.info 0 :=
    State.outRow_congr rfl rfl rfl ((hput.regs _ (by decide) _).trans (hshow.regs _ (by decide) _)) (by rw [hsess])
      (by rw [hsess]) ..
  refine ⟨t.putJob b k', hexec, ?_, State.putJob_head (((hshow.vidJobs b).trans (hsame.vidJobs b)).trans hq) rfl, ?_⟩
  · rw [hbytes, ← hsame.session]
    exact hstored
  · rw [hput.regs _ (by decide), hshow.regs _ (by decide), State.showFrame_frames, hsame.regs _ (by decide), hk]

end

/-! ### FRAME_RECONSTRUCT_DONE of an encoder (R679 to R683, R689) -/

/-- A write for a job changes of the job only what ends it. -/
theorem State.jobWrite_job (s : State) (b : Nat) (j : VidJob) (va : Nat) (bs : List Byte) :
    ∃ e, (s.jobWrite b j va bs).2 = { j with ends := e } := by
  unfold State.jobWrite
  split
  · exact ⟨j.ends, rfl⟩
  · dsimp only
    split
    · exact ⟨j.ends, rfl⟩
    · exact ⟨_, rfl⟩

/-- A status record changes of the job only its count of records and what ends it. -/
theorem State.statusRecord_job (s : State) (b : Nat) (j : VidJob) (count r : Nat) :
    ∃ e m, (s.statusRecord b j count r).2 = { j with ends := e, records := m } := by
  unfold State.statusRecord
  split
  · exact ⟨j.ends, j.records, rfl⟩
  · obtain ⟨e, he⟩ := s.jobWrite_job b j (bits j.words 512 48 + 16 * j.records) (natLe 16 r)
    exact ⟨e, j.records + 1, by simp only [he]⟩

/-- The state once a session keeps a coded frame, after which it needs no key frame (R682). -/
def State.keepCoded (s : State) (n : Nat) (cur : List Nat) : State :=
  let x := s.session n
  let t := (s.setSession n { x with coded := x.coded ++ [cur] }).radd R.vidSessionFrames n 1
  if x.needs then t.setNeeds n false else t

/-- The state once a coded frame is kept and counted (R682, R689). -/
def State.keepUnit (s : State) (b : Nat) (j : VidJob) (cur : List Nat) : State :=
  ((s.keepCoded j.session cur).radd R.vidEncFramesCount b 1).radd R.vidPixelsCount b
    (bits j.words 256 16 * bits j.words 272 16)

section
variable (s : State) (b n : Nat) (j : VidJob) (cur : List Nat)

/-- What keeping the frame gives and a change of the session's need keeps, holds of the session that keeps the frame. -/
theorem State.keepCoded_of_setNeeds {P : State → Prop} (hneeds : ∀ t v, P t → P (t.setNeeds n v))
    (h : P ((s.setSession n { s.session n with coded := (s.session n).coded ++ [cur] }).radd R.vidSessionFrames n 1)) :
    P (s.keepCoded n cur) := by
  unfold State.keepCoded
  dsimp only
  split
  · exact hneeds _ _ h
  · exact h

theorem State.keepCoded_rg {f : Fld} (hs : offFlds [f] R.vidSessionState = true)
    (hf : offFlds [f] R.vidSessionFrames = true) (i : Nat) : (s.keepCoded n cur).rg f i = s.rg f i :=
  s.keepCoded_of_setNeeds n cur (P := fun t => t.rg f i = s.rg f i) (fun _ _ h => (State.setNeeds_rg _ _ _ hs _).trans h)
    (State.rset_rg_off _ hf ..)

theorem State.keepUnit_vidJobs (c : Nat) : (s.keepUnit b j cur).vidJobs c = s.vidJobs c :=
  s.keepCoded_of_setNeeds j.session cur (P := fun t => t.vidJobs c = s.vidJobs c)
    (fun _ _ h => (State.setNeeds_vidJobs ..).trans h) rfl

theorem State.keepUnit_ctxs : (s.keepUnit b j cur).ctxs = s.ctxs :=
  s.keepCoded_of_setNeeds j.session cur (P := fun t => t.ctxs = s.ctxs) (fun _ _ h => (State.setNeeds_ctxs ..).trans h) rfl

theorem State.keepUnit_coded :
    ((s.keepUnit b j cur).session j.session).coded = (s.session j.session).coded ++ [cur] :=
  s.keepCoded_of_setNeeds j.session cur (P := fun t => (t.session j.session).coded = (s.session j.session).coded ++ [cur])
    (fun _ _ h => (congrArg VidSess.coded (State.setNeeds_session ..)).trans h)
    (congrArg VidSess.coded (State.setSession_session_same ..))

theorem State.keepUnit_encode (i : Nat) : (s.keepUnit b j cur).rg R.vidSessionEncode i = s.rg R.vidSessionEncode i :=
  (State.rset_rg_off _ (by decide) ..).trans ((State.rset_rg_off _ (by decide) ..).trans
    (s.keepCoded_rg j.session cur (by decide) (by decide) i))

theorem State.keepUnit_frames :
    (s.keepUnit b j cur).rg R.vidSessionFrames j.session =
      (s.rg R.vidSessionFrames j.session + 1) % 2 ^ R.vidSessionFrames.width :=
  (State.rset_rg_off _ (by decide) ..).trans ((State.rset_rg_off _ (by decide) ..).trans
    (s.keepCoded_of_setNeeds j.session cur (P := fun t => t.rg R.vidSessionFrames j.session = _)
      (fun _ _ h => (State.setNeeds_rg _ _ _ (by decide) _).trans h) (State.rset_rg_same ..)))

theorem State.keepUnit_encFrames :
    (s.keepUnit b j cur).rg R.vidEncFramesCount b =
      (s.rg R.vidEncFramesCount b + 1) % 2 ^ R.vidEncFramesCount.width :=
  (State.rset_rg_off _ (by decide) ..).trans ((State.rset_rg_same ..).trans
    (congrArg (fun v => (v + 1) % _) (s.keepCoded_rg j.session cur (f := R.vidEncFramesCount) (by decide) (by decide) b)))

end

/-- The writes of a coded unit: its bytes, then its status record (R683). -/
def State.writeUnit (s : State) (b : Nat) (j : VidJob) (cur : List Nat) (unit : List Byte) : State × VidJob :=
  (s.jobWrite b j (bits j.words 384 48 + j.used) unit).1.statusRecord b
    (s.jobWrite b j (bits j.words 384 48 + j.used) unit).2 (bits j.words 240 16)
    (j.done + 2 ^ 32 + cur.getD 0 0 * 2 ^ 35 + j.used * 2 ^ 64 + unit.length * 2 ^ 96)

theorem State.writeUnit_sameCodec (s : State) (b : Nat) (j : VidJob) (cur : List Nat) (unit : List Byte) :
    SameCodec s (s.writeUnit b j cur unit).1 :=
  (keptByWrites_sameCodec s).statusRecord ((keptByWrites_sameCodec s).jobWrite (.refl s) ..) ..

theorem State.writeUnit_job (s : State) (b : Nat) (j : VidJob) (cur : List Nat) (unit : List Byte) :
    ∃ e m, (s.writeUnit b j cur unit).2 = { j with ends := e, records := m } := by
  obtain ⟨e, he⟩ := s.jobWrite_job b j (bits j.words 384 48 + j.used) unit
  obtain ⟨e', m, hm⟩ := (s.jobWrite b j (bits j.words 384 48 + j.used) unit).1.statusRecord_job b
    (s.jobWrite b j (bits j.words 384 48 + j.used) unit).2 (bits j.words 240 16)
    (j.done + 2 ^ 32 + cur.getD 0 0 * 2 ^ 35 + j.used * 2 ^ 64 + unit.length * 2 ^ 96)
  exact ⟨e', m, hm.trans (by rw [he])⟩

/-- A unit whose writes, and those of the work area, meet no status is kept. -/
theorem State.putUnit_of_ends_none {s : State} {b : Nat} {j : VidJob} {cur : List Nat} {unit : List Byte}
    (h : (s.putUnit b j cur unit).2.ends = none) :
    ∃ t m, SameCodec s t ∧ s.putUnit b j cur unit = (t.keepUnit b j cur,
      { j with records := m, ends := none, done := j.done + 1, used := j.used + unit.length }) := by
  have hwrite : (s.jobWrite b j (bits j.words 384 48 + j.used) unit).1.statusRecord b
      (s.jobWrite b j (bits j.words 384 48 + j.used) unit).2 (bits j.words 240 16)
      (j.done + 2 ^ 32 + cur.getD 0 0 * 2 ^ 35 + j.used * 2 ^ 64 + unit.length * 2 ^ 96) = s.writeUnit b j cur unit := rfl
  have hsame := s.writeUnit_sameCodec b j cur unit
  obtain ⟨e, m, hjob⟩ := s.writeUnit_job b j cur unit
  unfold State.putUnit at h ⊢
  dsimp only at h ⊢
  rw [hwrite] at h ⊢
  rw [hjob] at h ⊢
  cases e with
  | some e => simp at h
  | none =>
    have hwork := (keptByWrites_sameCodec s).workWrite hsame (vidRq j.ctx b) (s.session j.session).work
      (s.session j.session).workLen (Config.encodeKeeps (s.session j.session).coded cur)
    simp only [Option.isSome_none, Bool.false_eq_true, if_false] at h ⊢
    generalize (s.writeUnit b j cur unit).1.workWrite (vidRq j.ctx b) (s.session j.session).work
      (s.session j.session).workLen (Config.encodeKeeps (s.session j.session).coded cur) = k at hwork h ⊢
    obtain ⟨t, r⟩ := k
    cases r with
    | some r => simp at h
    | none =>
      refine ⟨t, m, hwork, ?_⟩
      simp only [State.keepUnit, State.keepCoded, hwork.session]

/-- A frame is coded from its samples and the search of its references; its unit is put out where the output has room for it,
and ends the job where it has none (R681 to R683). -/
theorem State.encodeFrame_of_search {s u v : State} {b : Nat} {j : VidJob} {rows : List (List Nat)} {cur : List Nat}
    {unit : List Byte} (hrows : s.encRows b j j.done = (u, .ok rows))
    (hcur : cur = [b2n (s.encKey j), bits j.words 32 8, bits j.words 40 2, bits j.words 256 16, bits j.words 272 16,
      bits j.words 22 1] ++ encSamples j.words j.colour rows)
    (hsearch : u.search (vidRq j.ctx b) b (s.session j.session) cur = (v, none))
    (hunit : unit = Config.encodeUnit (s.session j.session).coded cur (considered (s.session j.session).coded cur)) :
    s.encodeFrame b j = if bits j.words 448 32 < j.used + unit.length then
      (v.needKey j.session, { j with ends := some (stCmdLength, 0) }) else v.putUnit b j cur unit := by
  subst hcur hunit
  have hsame : SameCodec s u := by
    have h := (keptByWrites_sameCodec s).encRows (.refl s) b j j.done
    rwa [hrows] at h
  simp only [State.encodeFrame, hrows, hsame.session, hsame.encKey, hsearch]

section
variable {s u v : State} {b : Nat} {j : VidJob} {rest : List VidJob} {rows : List (List Nat)} {cur : List Nat}
  {unit : List Byte} (hq : s.vidJobs b = j :: rest) (hheld : ∀ i, i < 4 → s.heldBack j.ctx i = false)
  (hbusy : j.busy = true) (henc : s.rb R.vidSessionEncode j.session = true)
include hq hheld hbusy henc

/-- A frame that is coded leaves its job at the head of the queue, or ends it. -/
theorem exec_frameReconstructDone_of_encoder {t : State} {k : VidJob}
    (hcode : s.encodeFrame b { j with busy := false } = (t, k)) :
    exec (.frameReconstructDone b) s =
      .next (if k.ends.isSome || k.done == bits j.words 240 16 then t.endVid b k else t.putJob b k) := by
  show execFrameReconstructDone b s = _
  simp only [execFrameReconstructDone, hq, hbusy, henc, hcode, State.regulated_of_not_held hheld, not_true_eq_false,
    Bool.false_eq_true, if_false, if_true]

variable (hrows : s.encRows b { j with busy := false } j.done = (u, .ok rows))
  (hcur : cur = [b2n (s.encKey j), bits j.words 32 8, bits j.words 40 2, bits j.words 256 16, bits j.words 272 16,
    bits j.words 22 1] ++ encSamples j.words j.colour rows)
  (hsearch : u.search (vidRq j.ctx b) b (s.session j.session) cur = (v, none))
  (hunit : unit = Config.encodeUnit (s.session j.session).coded cur (considered (s.session j.session).coded cur))
include hrows hcur hsearch hunit

omit hq hheld hbusy henc hcur hunit in
/-- The samples and the search are reads. -/
theorem State.sameCodec_of_search : SameCodec s v ∧ v.mem = s.mem := by
  have hread := (keptByWrites_sameCodec s).encRows (.refl s) b { j with busy := false } j.done
  have hmem := (keptByReads_mem s).encRows rfl b { j with busy := false } j.done
  rw [hrows] at hread hmem
  have hread := (keptByWrites_sameCodec s).search hread (fun h => h.setWindows) (vidRq j.ctx b) b (s.session j.session) cur
  have hmem := (keptByReads_mem s).search hmem (fun h => h) (vidRq j.ctx b) b (s.session j.session) cur
  rw [hsearch] at hread hmem
  exact ⟨hread, hmem⟩

/-- A unit that does not fit ends its job. -/
theorem exec_frameReconstructDone_of_unfit (hlong : bits j.words 448 32 < j.used + unit.length) :
    ∃ t, exec (.frameReconstructDone b) s = .next t ∧ (t.session j.session).needs = true ∧ t.mem = s.mem ∧
      (t.ctx j.ctx).jobs = ((s.finish j.ctx j.ring j.slot ⟨stCmdLength, min 65535 j.done, j.used⟩).ctx j.ctx).jobs := by
  obtain ⟨hsame, hmem⟩ := State.sameCodec_of_search hrows hsearch
  let k : VidJob := { j with busy := false, ends := some (stCmdLength, 0) }
  have hcode : s.encodeFrame b { j with busy := false } = (v.needKey j.session, k) := by
    rw [State.encodeFrame_of_search (j := { j with busy := false }) hrows hcur hsearch hunit, if_pos hlong]
  refine ⟨(v.needKey j.session).endVid b k, ?_, ?_, ?_, ?_⟩
  · exact (exec_frameReconstructDone_of_encoder hq hheld hbusy henc hcode).trans (congrArg _ (if_pos rfl))
  · rw [State.endVid_session, State.needKey_session]
  · rw [State.endVid_mem, State.needKey_mem, hmem]
  · have hfin := State.endVid_jobs ((v.needKey_ctxs j.session).trans hsame.ctxs) b k
    rw [State.needKey_encode, hsame.rb (by decide), show k.session = j.session from rfl, henc,
      VidJob.result_of_ends (j := k) (e := (stCmdLength, 0)) rfl] at hfin
    exact hfin

/-- A unit that fits is kept and counted, and the job goes on until its last frame. -/
theorem exec_frameReconstructDone_of_coded (hfit : j.used + unit.length ≤ bits j.words 448 32)
    (hends : (v.putUnit b { j with busy := false } cur unit).2.ends = none) (hstop : j.stop = none)
    (hconcealed : j.concealed = 0) :
    ∃ t, exec (.frameReconstructDone b) s = .next t ∧
      (t.session j.session).coded = (s.session j.session).coded ++ [cur] ∧
      t.rg R.vidEncFramesCount b = (s.rg R.vidEncFramesCount b + 1) % 2 ^ R.vidEncFramesCount.width ∧
      t.rg R.vidSessionFrames j.session =
        (s.rg R.vidSessionFrames j.session + 1) % 2 ^ R.vidSessionFrames.width ∧
      (j.done + 1 ≠ bits j.words 240 16 → ∃ k, (t.vidJobs b).head? = some k ∧ k.done = j.done + 1 ∧
        k.used = j.used + unit.length ∧ k.busy = false) ∧
      (j.done + 1 = bits j.words 240 16 → (t.ctx j.ctx).jobs =
        ((s.finish j.ctx j.ring j.slot ⟨0, min 65535 (j.done + 1), j.used + unit.length⟩).ctx j.ctx).jobs) := by
  obtain ⟨hsame, -⟩ := State.sameCodec_of_search hrows hsearch
  obtain ⟨w, m, hput, hkept⟩ := State.putUnit_of_ends_none hends
  have hsame := hsame.trans hput
  let k : VidJob := { j with
    busy := false, records := m, ends := none, done := j.done + 1, used := j.used + unit.length }
  let t := w.keepUnit b { j with busy := false } cur
  have hcode : s.encodeFrame b { j with busy := false } = (t, k) := by
    rw [State.encodeFrame_of_search (j := { j with busy := false }) hrows hcur hsearch hunit,
      if_neg (Nat.not_lt.mpr hfit), hkept]
  have hexec := exec_frameReconstructDone_of_encoder hq hheld hbusy henc hcode
  have hcoded : (t.session j.session).coded = (s.session j.session).coded ++ [cur] :=
    (w.keepUnit_coded b { j with busy := false } cur).trans (by rw [hsame.session])
  have hframes : t.rg R.vidSessionFrames j.session =
      (s.rg R.vidSessionFrames j.session + 1) % 2 ^ R.vidSessionFrames.width :=
    (w.keepUnit_frames b { j with busy := false } cur).trans (by rw [hsame.regs _ (by decide)])
  have hunits : t.rg R.vidEncFramesCount b = (s.rg R.vidEncFramesCount b + 1) % 2 ^ R.vidEncFramesCount.width :=
    (w.keepUnit_encFrames b { j with busy := false } cur).trans (by rw [hsame.regs _ (by decide)])
  by_cases hlast : j.done + 1 = bits j.words 240 16
  · refine ⟨t.endVid b k, hexec.trans (congrArg _ (if_pos ?_)), hcoded, ?_, ?_, fun h => absurd hlast h, fun _ => ?_⟩
    · simpa [k] using hlast
    · rw [State.endVid_rg _ _ _ (by decide), hunits]
    · rw [State.endVid_rg _ _ _ (by decide), hframes]
    · have hfin := State.endVid_jobs ((w.keepUnit_ctxs b { j with busy := false } cur).trans hsame.ctxs) b k
      have henc' : t.rb R.vidSessionEncode k.session = true :=
        (congrArg (· != 0) ((w.keepUnit_encode b _ cur _).trans (hsame.regs _ (by decide) _))).trans henc
      rw [henc', VidJob.result_of_coded (j := k) rfl hstop hconcealed] at hfin
      exact hfin
  · have hputJob := t.putJob_sameSess b k
    refine ⟨t.putJob b k, hexec.trans (congrArg _ (if_neg ?_)), ?_, ?_, ?_, fun _ => ⟨k, ?_, rfl, rfl, rfl⟩,
      fun h => absurd h hlast⟩
    · simpa [k] using hlast
    · rw [hputJob.session, hcoded]
    · rw [hputJob.regs _ (by decide), hunits]
    · rw [hputJob.regs _ (by decide), hframes]
    · exact State.putJob_head (((w.keepUnit_vidJobs b _ cur b).trans (hsame.vidJobs b)).trans hq) rfl

end

/-! ### The codec unit's statement -/

/-- Settles O53: each clause is the rule of its command in that case, and the encoder's vectors are those that the search
window admits. -/
theorem videoFramesAreParsedAndReconstructed : Obligations.VideoFramesAreParsedAndReconstructed := by
  unfold Obligations.VideoFramesAreParsedAndReconstructed
  refine ⟨fun s b j rest hb hq hheld => ⟨?parse, ?ahead, ?parsed, ?begin, ?decoder, ?encoder⟩, ?window, ?reach⟩
  case parse =>
    intro hidle henc hroom hstop hends
    refine ⟨fun f hbegun hnext => ?_, fun f pa hnew hread hnext => ?_⟩
    · exact ⟨_, exec_frameParseStart_of_begun hq hheld hb hidle hroom henc hbegun hnext, State.putJob_head hq rfl, rfl⟩
    · exact exec_frameParseStart_of_new hq hheld hb hidle hroom henc hstop hends hnew hread hnext
  case ahead =>
    exact exec_frameParseStart_of_ahead
  case parsed =>
    rintro f x n hparse hnext rfl hcluster hsup hwidth hheight hsize hdepth hneeds hrasl hn
    have hdec : s.Decodable j.session f := ⟨hsup, hwidth, hheight, hsize, hdepth, hneeds, hrasl⟩
    refine ⟨?noRoom, ?whole, ?damaged⟩
    case noRoom =>
      exact exec_frameParseDone_of_noRoom hq hparse hnext
    case whole =>
      intro hroom hwhole
      exact exec_frameParseDone_of_whole hq hheld hparse hnext hdec hroom hcluster hn hwhole
    case damaged =>
      intro hroom hdamage hstop hready hbusy hlast henc hbegun hflush
      exact exec_frameParseDone_of_stop hq hheld hparse hnext hdec hroom hdamage hstop hready hbusy hlast henc hbegun hflush
  case begin =>
    exact exec_frameReconstructStart_of_ready hb hq
  case decoder =>
    intro u f fs hbusy henc hready hends hparse
    refine ⟨fun haccess hwhole hmore => ⟨?kept, ?written⟩, ?failed⟩
    case kept =>
      exact exec_frameReconstructDone_of_kept hq hheld hbusy henc hready hends haccess hwhole hmore
    case written =>
      intro k n pa hout hrow hrec hk hfirst hstep hroom hn hw
      exact exec_frameReconstructDone_of_written hq hheld hbusy henc hready hends haccess hwhole hmore hb hout hrow hrec hk
        hfirst hstep hroom hn hw
    case failed =>
      intro e haccess hlast hbegun
      exact exec_frameReconstructDone_of_failed hq hheld hbusy henc hready hparse hbegun hlast haccess
  case encoder =>
    rintro u v rows cur unit x hbusy henc hends hstop hconcealed rfl hrows hcur hsearch hunit
    refine ⟨?unfit, ?coded⟩
    case unfit =>
      exact exec_frameReconstructDone_of_unfit hq hheld hbusy henc hrows hcur hsearch hunit
    case coded =>
      intro hfit hkept
      exact exec_frameReconstructDone_of_coded hq hheld hbusy henc hrows hcur hsearch hunit hfit hkept hstop hconcealed
  case window =>
    intro coded cur m hm
    have hinside := motionInside_of_considered hm
    simp only [motionInside, decide_eq_true_eq] at hinside
    obtain ⟨-, -, hleft, hright, htop, hbottom⟩ := hinside
    exact ⟨hleft, hright, htop, hbottom⟩
  case reach =>
    intro m hx hy hl hr ht hd
    exact motionInside_of_reach hx hy hl hr ht hd

end Sys2Proof.Machine
end

section
/-!
SUPPORT. The bytes around a write by physical address, and what such a write leaves of the address map (R36, R41, R538).
-/

namespace Sys2Proof.Machine

/-! ### Bytes below a write -/

/-- The pieces of a range lie from its start on. -/
theorem le_of_mem_spansF {step f a n : Nat} {p : Nat × Nat} (h : p ∈ spansF step f a n) : a ≤ p.1 := by
  induction f generalizing a n with
  | zero => cases h
  | succ f ih =>
    unfold spansF at h
    split at h
    · cases h
    · rcases List.mem_cons.mp h with rfl | h
      · exact Nat.le_refl a
      · exact Nat.le_trans (Nat.le_add_right ..) (ih h)

theorem writePieces_byte_below {ctx x : Nat} {na : Bool} {ps : List (Nat × Nat)} (hps : ∀ p ∈ ps, x < p.1)
    (bs : List Byte) (r : Wr) : (writePieces ctx na ps bs r).s.byte x = r.s.byte x := by
  induction ps generalizing bs r with
  | nil => rfl
  | cons p ps ih =>
    obtain ⟨a, n⟩ := p
    obtain ⟨hlt, hps⟩ := List.forall_mem_cons.mp hps
    unfold writePieces
    split
    · rw [ih hps, State.storePiece_byte, State.setBytes_byte_out _ _ _ (.inl hlt), State.byte_congr (State.touch_mem ..),
        State.byte_congr (State.mergeNote_mem ..)]
    · rfl

/-- A write leaves the bytes below it. -/
theorem State.pwrite_byte_below (s : State) (ctx : Nat) {a x : Nat} (bs : List Byte) (na : Bool) (h : x < a) :
    (s.pwrite ctx a bs na).s.byte x = s.byte x :=
  writePieces_byte_below (fun _ hp => Nat.lt_of_lt_of_le h (le_of_mem_spansF hp)) bs _

/-- A write of no bytes changes nothing. -/
theorem State.pwrite_nil (s : State) (ctx a : Nat) (na : Bool) : (s.pwrite ctx a [] na).s = s := by
  simp [State.pwrite, spans, spansF, writePieces]

/-- A write within one sector that meets no status stores its bytes. -/
theorem State.pwrite_stored {s : State} {ctx a : Nat} {bs : List Byte} {na : Bool} (hn : 0 < bs.length)
    (h : a % 64 + bs.length ≤ 64) (hw : s.writeStatus a = 0) : Stored s (s.pwrite ctx a bs na).s a bs :=
  s.pwrite_one_byte ctx a bs na hn h hw

/-- A number depends on its bytes. -/
theorem State.num_of_bytes {s t : State} {a n : Nat} (h : ∀ x, a ≤ x → x < a + n → t.byte x = s.byte x) :
    t.num a n = s.num a n := by
  have hbytes : t.bytes a n = s.bytes a n := by
    simp only [State.bytes, upFrom_eq_range']
    refine List.map_congr_left fun x hx => ?_
    obtain ⟨hlo, hhi⟩ := List.mem_range'_1.mp hx
    exact h x hlo hhi
  rw [State.num, State.num, hbytes]

/-! ### What an access leaves of registers and of the address map -/

/-- Accesses leave the registers that they do not count or log in. -/
theorem keptByWrites_regs {l : List Fld} (hl : ∀ f ∈ accessFlds, offFlds l f = true) (s : State) :
    KeptByWrites (fun t => ∀ f ∈ l, ∀ i, t.rg f i = s.rg f i) :=
  ⟨⟨fun hf h g hg j => (State.rset_rg_of_offFlds _ (hl _ hf) hg ..).trans (h g hg j), id, id, id, id, id⟩, id⟩

/-- An access leaves a register field that accesses do not count or log in. -/
theorem State.touch_rg_off {f : Fld} (hf : ∀ g ∈ accessFlds, offFlds [f] g = true) (s : State) (ctx a n : Nat)
    (w na : Bool) (i : Nat) : (s.touch ctx a n w na).rg f i = s.rg f i :=
  (keptByWrites_regs hf s).touch (fun _ _ _ => rfl) ctx a n w na f (List.mem_singleton.mpr rfl) i

theorem mapFlds_off_access : ∀ f ∈ accessFlds, offFlds mapFlds f = true := by decide

/-- The ways that are being converted, by Coil (R492). -/
def State.converting (s : State) : SMap Nat := s.ms.converting

@[simp] theorem State.charge_converting (s : State) (c j n : Nat) : (s.charge c j n).converting = s.converting := by
  unfold State.charge
  split
  · rfl
  · split
    · split <;> rfl
    · rfl

@[simp] theorem State.writeBack_converting (s : State) (x c : Nat) (l : List Line) :
    (s.writeBack x c l).converting = s.converting :=
  State.charge_converting ..

theorem State.creelSector_converting (s : State) (ctx c a : Nat) (w p na : Bool) :
    (s.creelSector ctx c a w p na).converting = s.converting :=
  State.creelSector_keeps (P := fun t => t.converting = s.converting) (fun _ _ _ _ h => h) (fun _ _ h => h)
    (fun _ _ h => h) (fun t ctx n h => (t.charge_converting ctx 0 n).trans h)
    (fun t ctx c l h => (t.writeBack_converting ctx c l).trans h) rfl ..

theorem State.touch_converting (s : State) (ctx a n : Nat) (w na : Bool) :
    (s.touch ctx a n w na).converting = s.converting := by
  unfold State.touch
  split
  · split
    · rfl
    · exact State.creelSector_converting ..
  · exact State.charge_converting ..
  · split <;> rfl
  · exact s.charge_converting ctx 3 n
  · rfl

theorem State.noteUe_converting (s : State) (a : Nat) : (s.noteUe a).converting = s.converting := by
  unfold State.noteUe
  split
  · split
    · rfl
    · unfold State.setPending
      split <;> rfl
  · split <;> rfl
  · rfl
  · rfl

theorem State.mergeNote_converting (s : State) (a n : Nat) : (s.mergeNote a n).converting = s.converting := by
  unfold State.mergeNote
  split
  · exact State.noteUe_converting ..
  · rfl

theorem State.storePiece_converting (s : State) (a : Nat) (bs : List Byte) :
    (s.storePiece a bs).converting = s.converting := by
  have hset : (s.setBytes a bs).converting = s.converting := by
    rw [State.setBytes_eq]
    rfl
  unfold State.storePiece
  dsimp only
  split <;> exact hset

theorem writePieces_converting (ctx : Nat) (na : Bool) (ps : List (Nat × Nat)) (bs : List Byte) (r : Wr) :
    (writePieces ctx na ps bs r).s.converting = r.s.converting := by
  induction ps generalizing bs r with
  | nil => rfl
  | cons p ps ih =>
    obtain ⟨a, n⟩ := p
    unfold writePieces
    split
    · rw [ih, State.storePiece_converting, State.touch_converting, State.mergeNote_converting]
    · rfl

/-- The status of a write depends on the registers of the map and the ways being converted. -/
theorem State.writeStatus_of_map {s t : State} (hr : ∀ f ∈ mapFlds, ∀ i, t.rg f i = s.rg f i)
    (hc : t.converting = s.converting) (a : Nat) : t.writeStatus a = s.writeStatus a := by
  have hfail := SameMap.rb_of_regs hr (f := R.hampChanStateFailed) (by decide)
  have hlive : t.liveHamper = s.liveHamper := by
    simp only [State.liveHamper, SameMap.rb_of_regs hr (f := R.hampChanStateLive) (by decide)]
  simp only [State.writeStatus, SameMap.region_of_regs hr hc, State.hamperOf, hlive, hfail]

/-- A write leaves the status of every write. -/
theorem State.pwrite_writeStatus (s : State) (ctx a : Nat) (bs : List Byte) (na : Bool) (x : Nat) :
    (s.pwrite ctx a bs na).s.writeStatus x = s.writeStatus x :=
  State.writeStatus_of_map ((keptByWrites_regs mapFlds_off_access s).pwrite (fun _ _ _ => rfl) ctx a bs na)
    (writePieces_converting ..) x

end Sys2Proof.Machine
end

section
/-!
SUPPORT. Mirror windows, banks and restores (R704 to R716): the rules of the receive region, a rule for each command in each
of its cases, and the obligation that these rules settle.
-/

namespace Sys2Proof.Machine

/-! ### The receive region (R704) -/

/-- The register fields that the receive region, its status and the restores that arrive depend on and count in. -/
def bankFlds : List Fld :=
  [R.fltMirrorRxBaseBase, R.fltMirrorRxLenLength, R.fltMirrorStatusValid, R.fltRestoreRxErrorsCount]

/-- t has the receive region's registers of s. -/
def SameRegion (s t : State) : Prop := ∀ f ∈ bankFlds, ∀ i, t.rg f i = s.rg f i

/-- Accesses of memory leave the receive region's registers. -/
theorem keptByWrites_sameRegion (s : State) : KeptByWrites (SameRegion s) := keptByWrites_regs (by decide) s

/-- Accesses of memory leave the fault unit. -/
theorem keptByWrites_flt (s : State) : KeptByWrites (fun t => t.flt = s.flt) :=
  ⟨⟨fun _ h => h, id, id, id, id, id⟩, id⟩

theorem SameRegion.bankAt {s t : State} (h : SameRegion s t) (b : Nat) : t.bankAt b = s.bankAt b := by
  simp only [State.bankAt, State.bankLen, h R.fltMirrorRxBaseBase (by decide), h R.fltMirrorRxLenLength (by decide)]

theorem SameRegion.rb {s t : State} (h : SameRegion s t) {f : Fld} (hf : f ∈ bankFlds) (i : Nat) :
    t.rb f i = s.rb f i := by
  rw [State.rb, State.rb, h f hf]

/-- Taking a message changes the ports alone. -/
theorem State.takeMsg_eq (s : State) (m : Msg) : s.takeMsg m = { s with wale := (s.takeMsg m).wale } := by
  unfold State.takeMsg State.oweCredit
  split <;> rfl

@[simp] theorem State.takeMsg_rg (s : State) (m : Msg) (f : Fld) (i : Nat) : (s.takeMsg m).rg f i = s.rg f i := by
  rw [State.takeMsg_eq]
  rfl

@[simp] theorem State.takeMsg_rb (s : State) (m : Msg) (f : Fld) (i : Nat) : (s.takeMsg m).rb f i = s.rb f i := by
  rw [State.takeMsg_eq]
  rfl

@[simp] theorem State.takeMsg_flt (s : State) (m : Msg) : (s.takeMsg m).flt = s.flt := by rw [State.takeMsg_eq]

@[simp] theorem State.takeMsg_mem (s : State) (m : Msg) : (s.takeMsg m).mem = s.mem := by rw [State.takeMsg_eq]

@[simp] theorem State.takeMsg_byte (s : State) (m : Msg) (a : Nat) : (s.takeMsg m).byte a = s.byte a := by
  rw [State.takeMsg_eq]
  rfl

@[simp] theorem State.takeMsg_bankAt (s : State) (m : Msg) (b : Nat) : (s.takeMsg m).bankAt b = s.bankAt b :=
  SameRegion.bankAt (fun f _ i => s.takeMsg_rg m f i) b

@[simp] theorem State.takeMsg_bankLen (s : State) (m : Msg) : (s.takeMsg m).bankLen = s.bankLen := by
  rw [State.takeMsg_eq]
  rfl

theorem State.takeMsg_sameView (s : State) (m : Msg) : SameView s (s.takeMsg m) := by
  rw [State.takeMsg_eq]
  exact .of_eq rfl rfl rfl rfl

/-- What is stored once a message is taken is stored. -/
theorem Stored.of_takeMsg {s t : State} {m : Msg} {a : Nat} {l : List Byte} (h : Stored (s.takeMsg m) t a l) :
    Stored s t a l := by
  obtain ⟨hin, hout⟩ := h
  exact ⟨hin, fun x hx => (hout x hx).trans (s.takeMsg_byte m x)⟩

/-! ### Windows (R708) -/

/-- A window whose COMMIT messages are accepted ends (R708). -/
theorem exec_mirrorWindowFinish_of_accepted {s : State} {i k : Nat} {w : Nat × Nat × List Nat}
    (hw : s.flt.windows.find? (fun x => x.1 == i && x.2.1 == k) = some w) (hall : ∀ id ∈ w.2.2, s.accepted id = true) :
    exec (.mirrorWindowFinish i k) s = .next (({ s with flt := { s.flt with
      windows := s.flt.windows.filter (fun x => !(x.1 == i && x.2.1 == k)) } }.finishEntry i k).checkRunEnd) := by
  have hacc : w.2.2.all (fun id => s.accepted id) = true := List.all_eq_true.mpr hall
  show execMirrorWindowFinish i k s = _
  simp only [execMirrorWindowFinish, hw, hacc, not_true_eq_false, if_false]

/-! ### Bank headers (R705) -/

/-- The header of a bank (R705). -/
def bankHeader (epoch committed sender round count : Nat) : Nat :=
  0x5252494D + epoch % 2 ^ 32 * 2 ^ 32 + committed * 2 ^ 64 + sender * 2 ^ 80 + round * 2 ^ 96 + count * 2 ^ 160

theorem State.putBank_eq (s : State) (b ep c x r n : Nat) :
    s.putBank b ep c x r n = (s.pwrite noCtx (s.bankAt b) (natLe 64 (bankHeader ep c x r n)) true).s := rfl

section
variable (s : State) (b ep c x r n : Nat)

theorem State.putBank_flt : (s.putBank b ep c x r n).flt = s.flt := (keptByWrites_flt s).pwrite rfl ..

theorem State.putBank_sameRegion : SameRegion s (s.putBank b ep c x r n) :=
  (keptByWrites_sameRegion s).pwrite (fun _ _ _ => rfl) _ _ _ _

theorem State.putBank_writeStatus (a : Nat) : (s.putBank b ep c x r n).writeStatus a = s.writeStatus a :=
  State.pwrite_writeStatus ..

/-- A header that is written reads back. -/
theorem State.putBank_num (ha : s.bankAt b % 64 = 0) (hw : s.writeStatus (s.bankAt b) = 0) :
    (s.putBank b ep c x r n).num (s.bankAt b) 64 = bankHeader ep c x r n % 256 ^ 64 := by
  have hst : Stored s (s.putBank b ep c x r n) (s.bankAt b) (natLe 64 (bankHeader ep c x r n)) := by
    rw [State.putBank_eq]
    exact State.pwrite_stored (by simp) (by simp [ha]) hw
  simpa [leNat_natLe] using hst.num

end

/-- The header of an epoch that begins holds the epoch and the sender, and no commit (R709). -/
theorem bankHeader_begun {ep x : Nat} (hep : ep < 2 ^ 32) (hx : x < 65536) :
    bankHeader ep 0 x 0 0 % 256 ^ 64 = 0x5252494D + ep * 2 ^ 32 + x * 2 ^ 80 := by
  unfold bankHeader
  omega

/-- The header of a committed bank holds the magic number, the epoch and the commit (R705). -/
theorem bankHeader_committed {ep : Nat} (hep : ep < 2 ^ 32) (x r n : Nat) :
    bits (bankHeader ep 1 x r n % 256 ^ 64) 0 32 = 0x5252494D ∧ bits (bankHeader ep 1 x r n % 256 ^ 64) 32 32 = ep ∧
      bit (bankHeader ep 1 x r n % 256 ^ 64) 64 = true := by
  simp only [bits, bit, bankHeader, beq_iff_eq]
  omega

theorem bits_lt (v lo w : Nat) : bits v lo w < 2 ^ w := Nat.mod_lt _ (Nat.two_pow_pos w)

/-! ### The first message of an epoch (R709) -/

/-- The commits that a bank has had for an epoch. -/
def State.commitsOf (s : State) (ep : Nat) : List Nat := if s.flt.rxEpoch = some ep then s.flt.rxCommits else []

/-- A receiver that is in an epoch goes on with it. -/
theorem State.beginEpoch_of_begun {s : State} {ep : Nat} (h : s.flt.rxEpoch = some ep) (x : Nat) : s.beginEpoch ep x = s :=
  if_pos h

theorem State.beginEpoch_of_new {s : State} {ep : Nat} (h : s.flt.rxEpoch ≠ some ep) (x : Nat) :
    s.beginEpoch ep x =
      { s with flt := { s.flt with rxEpoch := some ep, rxCommits := [] } }.putBank (ep % 2) ep 0 x 0 0 :=
  if_neg h

section
variable (s : State) (ep x : Nat)

theorem State.beginEpoch_flt :
    (s.beginEpoch ep x).flt = { s.flt with rxEpoch := some ep, rxCommits := s.commitsOf ep } := by
  by_cases h : s.flt.rxEpoch = some ep
  · rw [State.beginEpoch_of_begun h, State.commitsOf, if_pos h, ← h]
  · rw [State.beginEpoch_of_new h, State.commitsOf, if_neg h, State.putBank_flt]

theorem State.beginEpoch_sameRegion : SameRegion s (s.beginEpoch ep x) := by
  by_cases h : s.flt.rxEpoch = some ep
  · rw [State.beginEpoch_of_begun h]
    exact fun _ _ _ => rfl
  · rw [State.beginEpoch_of_new h]
    exact fun f hf i => (State.putBank_sameRegion _ _ _ _ _ _ _ f hf i).trans rfl

theorem State.beginEpoch_writeStatus (a : Nat) : (s.beginEpoch ep x).writeStatus a = s.writeStatus a := by
  by_cases h : s.flt.rxEpoch = some ep
  · rw [State.beginEpoch_of_begun h]
  · rw [State.beginEpoch_of_new h, State.putBank_writeStatus]
    rfl

end

/-- A new epoch's header stands in its bank (R709). -/
theorem State.beginEpoch_num {s : State} {ep x : Nat} (h : s.flt.rxEpoch ≠ some ep) (hep : ep < 2 ^ 32) (hx : x < 65536)
    (ha : s.bankAt (ep % 2) % 64 = 0) (hw : s.writeStatus (s.bankAt (ep % 2)) = 0) :
    (s.beginEpoch ep x).num (s.bankAt (ep % 2)) 64 = 0x5252494D + ep * 2 ^ 32 + x * 2 ^ 80 := by
  rw [State.beginEpoch_of_new h, ← bankHeader_begun hep hx]
  exact State.putBank_num _ _ _ _ _ _ _ ha hw

/-! ### Writing into a bank (R705) -/

/-- Bytes before or after the reserved range are written as they are. -/
theorem State.writeBank_of_outside {b off : Nat} {bs : List Byte} (h : off + bs.length ≤ 131200 ∨ 262144 ≤ off)
    (s : State) : s.writeBank b off bs = (s.pwrite noCtx (s.bankAt b + off) bs true).s := by
  unfold State.writeBank
  rcases h with h | h
  · have hall : bs.take (131200 - off) = bs := List.take_of_length_le (by omega)
    have hrest : bs.drop (262144 - off) = [] := List.drop_eq_nil_of_le (by omega)
    simp only [hall, hrest, State.pwrite_nil]
  · have hnone : 131200 - off = 0 := by omega
    have hall : 262144 - off = 0 := by omega
    simp only [hnone, hall, List.take_zero, List.drop_zero, State.pwrite_nil, Nat.max_eq_left h]

/-- Bytes of the reserved range are not written. -/
theorem State.writeBank_of_reserved {b off : Nat} {bs : List Byte} (hlo : 131200 ≤ off) (hhi : off + bs.length ≤ 262144)
    (s : State) : s.writeBank b off bs = s := by
  have hnone : 131200 - off = 0 := by omega
  have hrest : bs.drop (262144 - off) = [] := List.drop_eq_nil_of_le (by omega)
  simp only [State.writeBank, hnone, hrest, List.take_zero, State.pwrite_nil]

theorem State.writeBank_flt (s : State) (b off : Nat) (bs : List Byte) : (s.writeBank b off bs).flt = s.flt :=
  (keptByWrites_flt s).pwrite ((keptByWrites_flt s).pwrite rfl ..) ..

/-- The bytes of a bank before the offset stay. -/
theorem State.writeBank_byte_below (s : State) {b off x : Nat} (bs : List Byte) (h : x < s.bankAt b + off) :
    (s.writeBank b off bs).byte x = s.byte x := by
  have hkeep : SameRegion s (s.pwrite noCtx (s.bankAt b + off) (bs.take (131200 - off)) true).s :=
    (keptByWrites_sameRegion s).pwrite (fun _ _ _ => rfl) _ _ _ _
  unfold State.writeBank
  dsimp only
  rw [hkeep.bankAt, State.pwrite_byte_below _ _ _ _ (by omega), State.pwrite_byte_below _ _ _ _ h]

/-! ### DATA and DIRECTORY (R709) -/

/-- The commands of the parts DATA and DIRECTORY take a message into its bank. -/
theorem exec_mirrorPart {c : Instr} {n part : Nat} (h : (c, part) ∈ [(Instr.mirrorData n, 0), (.mirrorDirectory n, 1)])
    (s : State) : exec c s = .next (s.takeMirror n part) := by
  simp only [List.mem_cons, Prod.mk.injEq, List.not_mem_nil, or_false] at h
  obtain ⟨rfl, rfl⟩ | ⟨rfl, rfl⟩ := h <;> rfl

section
variable {s : State} {n part : Nat} {m : Msg} (hnext : s.nextMirror n part = some m)
  (hhalt : s.rb R.fltStatusJobHalted 0 = false) (hlen : s.rg R.fltMirrorRxLenLength 0 ≠ 0)
include hnext hhalt hlen

/-- A plain message within its bank begins its epoch and is written at its offset. -/
theorem State.takeMirror_of_plain (hok : msgMalformed m [(128, 32), (160, 2), (162, 2)] = false)
    (hfit : bits m.header 32 48 + bits m.header 80 40 ≤ s.bankLen) (hplain : bit m.header 4 = false) :
    s.takeMirror n part = ((s.takeMsg m).beginEpoch (bits m.header 128 32) m.src).writeBank
      (bits m.header 128 32 % 2) (bits m.header 32 48) m.data := by
  have hrun : ¬(s.rb R.fltStatusJobHalted 0 = true ∨ s.rg R.fltMirrorRxLenLength 0 = 0) := by simp [hhalt, hlen]
  have hgood : ¬(msgMalformed m [(128, 32), (160, 2), (162, 2)] = true ∨
      s.bankLen < bits m.header 32 48 + bits m.header 80 40) := by simp [hok, hfit]
  simp only [State.takeMirror, hnext, State.takeMsg_rb, State.takeMsg_rg, State.takeMsg_bankLen, if_neg hrun, if_neg hgood,
    State.msgImage_of_plain hplain]

end

section
variable {s : State} {m : Msg} {ep off : Nat}

/-- In an epoch that has begun, bytes outside the reserved range are stored in the bank. -/
theorem State.writeBank_stored (hep : s.flt.rxEpoch = some ep) (x : Nat) (hn : 0 < m.data.length)
    (hsector : (s.bankAt (ep % 2) + off) % 64 + m.data.length ≤ 64) (hst : s.writeStatus (s.bankAt (ep % 2) + off) = 0)
    (hout : off + m.data.length ≤ 131200 ∨ 262144 ≤ off) :
    Stored s (((s.takeMsg m).beginEpoch ep x).writeBank (ep % 2) off m.data) (s.bankAt (ep % 2) + off) m.data := by
  rw [State.beginEpoch_of_begun (by rwa [State.takeMsg_flt]), State.writeBank_of_outside hout, State.takeMsg_bankAt]
  exact (State.pwrite_stored hn hsector (((s.takeMsg_sameView m).writeStatus _).trans hst)).of_takeMsg

/-- In an epoch that has begun, bytes of the reserved range change no memory. -/
theorem State.writeBank_mem_of_reserved (hep : s.flt.rxEpoch = some ep) (x : Nat) (hlo : 131200 ≤ off)
    (hhi : off + m.data.length ≤ 262144) :
    (((s.takeMsg m).beginEpoch ep x).writeBank (ep % 2) off m.data).mem = s.mem := by
  rw [State.beginEpoch_of_begun (by rwa [State.takeMsg_flt]), State.writeBank_of_reserved hlo hhi, State.takeMsg_mem]

/-- Bytes written behind the header of a new epoch leave the header. -/
theorem State.writeBank_num {x : Nat} (hnew : s.flt.rxEpoch ≠ some ep) (hep : ep < 2 ^ 32) (hx : x < 65536)
    (ha : s.bankAt (ep % 2) % 64 = 0) (hw : s.writeStatus (s.bankAt (ep % 2)) = 0) (hoff : 64 ≤ off) :
    (((s.takeMsg m).beginEpoch ep x).writeBank (ep % 2) off m.data).num (s.bankAt (ep % 2)) 64 =
      0x5252494D + ep * 2 ^ 32 + x * 2 ^ 80 := by
  have hbank : ((s.takeMsg m).beginEpoch ep x).bankAt (ep % 2) = s.bankAt (ep % 2) :=
    ((s.takeMsg m).beginEpoch_sameRegion ep x).bankAt _ |>.trans (s.takeMsg_bankAt m _)
  rw [State.num_of_bytes fun y _ hy => State.writeBank_byte_below _ _ (by rw [hbank]; omega), ← s.takeMsg_bankAt m]
  exact State.beginEpoch_num (by rwa [State.takeMsg_flt]) hep hx (by rwa [State.takeMsg_bankAt])
    (by rwa [State.takeMsg_bankAt, (s.takeMsg_sameView m).writeStatus])

end

/-! ### COMMIT (R709) -/

/-- The state once the COMMIT of a port is noted. -/
def State.noteCommit (s : State) (n : Nat) (m : Msg) : State :=
  let s := (s.takeMsg m).beginEpoch (bits m.header 128 32) m.src
  { s with flt := { s.flt with rxCommits := n :: s.flt.rxCommits } }

section
variable (s : State) (n : Nat) (m : Msg)

theorem State.noteCommit_flt :
    (s.noteCommit n m).flt = { s.flt with
      rxEpoch := some (bits m.header 128 32), rxCommits := n :: s.commitsOf (bits m.header 128 32) } := by
  simp [State.noteCommit, State.beginEpoch_flt, State.commitsOf]

theorem State.noteCommit_sameRegion : SameRegion s (s.noteCommit n m) := fun f hf i =>
  ((s.takeMsg m).beginEpoch_sameRegion _ _ f hf i).trans (s.takeMsg_rg m f i)

theorem State.noteCommit_writeStatus (a : Nat) : (s.noteCommit n m).writeStatus a = s.writeStatus a :=
  ((s.takeMsg m).beginEpoch_writeStatus ..).trans ((s.takeMsg_sameView m).writeStatus a)

end

/-- The bank of an epoch is committed and shown (R709). -/
def State.commitBank (s : State) (ep x : Nat) : State :=
  let s := s.putBank (ep % 2) ep 1 x s.round (bits (s.own (s.bankAt (ep % 2) + 64) 64) 32 16)
  ((({ s with flt := { s.flt with rxEpoch := none } }).rset R.fltMirrorStatusEpoch 0 ep).rset R.fltMirrorStatusBank 0
    (ep % 2)).rset R.fltMirrorStatusValid 0 1

section
variable (s : State) (ep x : Nat)

theorem State.commitBank_rxEpoch : (s.commitBank ep x).flt.rxEpoch = none := rfl

theorem State.commitBank_epoch (h : ep < 2 ^ 32) : (s.commitBank ep x).rg R.fltMirrorStatusEpoch 0 = ep := by
  unfold State.commitBank
  dsimp only
  rw [State.rset_rg_off _ (by decide), State.rset_rg_off _ (by decide), State.rset_rg_same]
  exact Nat.mod_eq_of_lt h

theorem State.commitBank_bank : (s.commitBank ep x).rg R.fltMirrorStatusBank 0 = ep % 2 := by
  unfold State.commitBank
  dsimp only
  rw [State.rset_rg_off _ (by decide), State.rset_rg_same]
  exact Nat.mod_mod ep 2

theorem State.commitBank_valid : (s.commitBank ep x).rb R.fltMirrorStatusValid 0 = true := State.rset_rb_same _ rfl 0

/-- The header of a bank that is committed holds its epoch and the commit. -/
theorem State.commitBank_num (hep : ep < 2 ^ 32) (ha : s.bankAt (ep % 2) % 64 = 0)
    (hw : s.writeStatus (s.bankAt (ep % 2)) = 0) :
    bits ((s.commitBank ep x).num (s.bankAt (ep % 2)) 64) 0 32 = 0x5252494D ∧
      bits ((s.commitBank ep x).num (s.bankAt (ep % 2)) 64) 32 32 = ep ∧
      bit ((s.commitBank ep x).num (s.bankAt (ep % 2)) 64) 64 = true := by
  have hnum := s.putBank_num (ep % 2) ep 1 x s.round (bits (s.own (s.bankAt (ep % 2) + 64) 64) 32 16) ha hw
  rw [show (s.commitBank ep x).num (s.bankAt (ep % 2)) 64 = _ from hnum]
  exact bankHeader_committed hep ..

end

section
variable {s : State} {n : Nat} {m : Msg} (hnext : s.nextMirror n 2 = some m)
  (hhalt : s.rb R.fltStatusJobHalted 0 = false) (hlen : s.rg R.fltMirrorRxLenLength 0 ≠ 0) (hok : commitBad m = false)
include hnext hhalt hlen hok

/-- A COMMIT is noted, and commits the bank once each port that it names has had one (R709). -/
theorem exec_mirrorCommit_of_ok :
    exec (.mirrorCommit n) s = .next (
      if ¬ (mirrorPorts (bits m.header 162 2)).all (fun p => (s.noteCommit n m).flt.rxCommits.contains p) then
        s.noteCommit n m
      else (s.noteCommit n m).commitBank (bits m.header 128 32) m.src) := by
  have hrun : ¬(s.rb R.fltStatusJobHalted 0 = true ∨ s.rg R.fltMirrorRxLenLength 0 = 0) := by simp [hhalt, hlen]
  have hgood : ¬commitBad m = true := by simp [hok]
  rw [apply_ite Host.Outcome.next]
  show execMirrorCommit n s = _
  simp only [execMirrorCommit, hnext, State.takeMsg_rb, State.takeMsg_rg, if_neg hrun, if_neg hgood]
  rfl

theorem exec_mirrorCommit_of_last
    (hall : ∀ p ∈ mirrorPorts (bits m.header 162 2), p = n ∨ p ∈ s.commitsOf (bits m.header 128 32)) :
    exec (.mirrorCommit n) s = .next ((s.noteCommit n m).commitBank (bits m.header 128 32) m.src) := by
  rw [exec_mirrorCommit_of_ok hnext hhalt hlen hok, if_neg]
  rw [not_not, List.all_eq_true, State.noteCommit_flt]
  exact fun p hp => List.contains_iff_mem.mpr (List.mem_cons.mpr (hall p hp))

theorem exec_mirrorCommit_of_missing {p : Nat} (hp : p ∈ mirrorPorts (bits m.header 162 2)) (hne : p ≠ n)
    (hmiss : p ∉ s.commitsOf (bits m.header 128 32)) : exec (.mirrorCommit n) s = .next (s.noteCommit n m) := by
  rw [exec_mirrorCommit_of_ok hnext hhalt hlen hok, if_pos]
  rw [List.all_eq_true, State.noteCommit_flt]
  intro hall
  exact (List.mem_cons.mp (List.contains_iff_mem.mp (hall p hp))).elim hne hmiss

end

/-! ### RESTORE messages (R716) -/

/-- A write in a context without a table meets no page, and is counted (R520, R560). -/
theorem State.vwrite_of_noRoot {s : State} {rq : Rq} (hroot : s.rb R.ctxPtRootValid rq.ctx = false) (va : Nat)
    {bs : List Byte} (hn : 0 < bs.length) :
    s.vwrite rq va bs = ⟨s.countXlt rq stXltNotPresent, stXltNotPresent, 0⟩ := by
  have hspan : ∃ k l, spans 4096 va bs.length = (va, k) :: l := by
    unfold spans
    rw [spansF, if_neg (Nat.ne_of_gt hn)]
    exact ⟨_, _, rfl⟩
  obtain ⟨k, l, hspan⟩ := hspan
  have hx : s.xlate rq va true = ⟨s.countXlt rq stXltNotPresent, stXltNotPresent, 0, false, none⟩ :=
    if_pos (.inr (by simp [hroot]))
  simp only [State.vwrite, hspan, vwritePieces, hx]

theorem State.countXlt_mem (s : State) (rq : Rq) (st : Status) : (s.countXlt rq st).mem = s.mem := by
  unfold State.countXlt
  split <;> rfl

theorem State.countXlt_sameRegion (s : State) (rq : Rq) (st : Status) : SameRegion s (s.countXlt rq st) :=
  (keptByWrites_sameRegion s).countXlt (fun _ _ _ => rfl) rq st

section
variable {s : State} {n : Nat} {m : Msg} (hnext : s.nextMirror n 3 = some m)
include hnext

/-- A module that takes no RESTORE messages discards them. -/
theorem exec_mirrorRestore_of_off (hoff : s.rb R.fltMirrorCfgRestoreRx 0 = false) :
    exec (.mirrorRestore n) s = .next (s.takeMsg m) := by
  show execMirrorRestore n s = _
  simp only [execMirrorRestore, hnext, State.takeMsg_rb, hoff, Bool.false_eq_true, not_false_eq_true, if_true]

variable (hon : s.rb R.fltMirrorCfgRestoreRx 0 = true)
include hon

/-- A malformed message is counted. -/
theorem exec_mirrorRestore_of_malformed (hbad : msgMalformed m [(128, 32), (160, 2), (162, 2)] = true) :
    exec (.mirrorRestore n) s = .next ((s.takeMsg m).radd R.fltRestoreRxErrorsCount 0 1) := by
  show execMirrorRestore n s = _
  simp only [execMirrorRestore, hnext, State.takeMsg_rb, hon, hbad, not_true_eq_false, if_false, if_true]

variable (hok : msgMalformed m [(128, 32), (160, 2), (162, 2)] = false)
include hok

/-- A message whose blocks cannot be expanded is counted. -/
theorem exec_mirrorRestore_of_noImage {v : State} {d : Done}
    (himg : (s.takeMsg m).msgImage m (s.rg R.fltMirrorCfgRestoreCtx 0) (borderSet (portDie n)) = (v, .error d)) :
    exec (.mirrorRestore n) s = .next (v.radd R.fltRestoreRxErrorsCount 0 1) := by
  show execMirrorRestore n s = _
  simp only [execMirrorRestore, hnext, State.takeMsg_rb, State.takeMsg_rg, hon, hok, not_true_eq_false, if_false,
    Bool.false_eq_true, himg]

/-- A message's image is written in restore_ctx, and a write that fails is counted. -/
theorem exec_mirrorRestore_of_image {v : State} {bs : List Byte} {w : Wr}
    (himg : (s.takeMsg m).msgImage m (s.rg R.fltMirrorCfgRestoreCtx 0) (borderSet (portDie n)) = (v, .ok bs))
    (hw : w = v.vwrite ⟨s.rg R.fltMirrorCfgRestoreCtx 0, 16 + portDie n⟩ (bits m.header 32 48) bs) :
    exec (.mirrorRestore n) s = .next (if w.st = 0 then w.s else w.s.radd R.fltRestoreRxErrorsCount 0 1) := by
  subst hw
  show execMirrorRestore n s = _
  simp only [execMirrorRestore, hnext, State.takeMsg_rb, State.takeMsg_rg, hon, hok, not_true_eq_false, if_false,
    Bool.false_eq_true, himg]

variable (hplain : bit m.header 4 = false)
include hplain

/-- A plain message that restore_ctx may write is stored, and not counted. -/
theorem exec_mirrorRestore_of_writable {pa : Nat} (hw : s.WritableAt ⟨s.rg R.fltMirrorCfgRestoreCtx 0, 16 + portDie n⟩
    (bits m.header 32 48) m.data.length pa) :
    ∃ t, exec (.mirrorRestore n) s = .next t ∧ Stored s t pa m.data ∧
      t.rg R.fltRestoreRxErrorsCount 0 = s.rg R.fltRestoreRxErrorsCount 0 := by
  have hdie : portDie n < 2 := Nat.mod_lt _ (by decide)
  obtain ⟨hst, hstored⟩ := State.vwrite_of_writableAt ((s.takeMsg_sameView m).writableAt hw)
    (Nat.add_lt_add_left hdie 16)
  have hkeep : SameRegion (s.takeMsg m) ((s.takeMsg m).vwrite ⟨s.rg R.fltMirrorCfgRestoreCtx 0, 16 + portDie n⟩
      (bits m.header 32 48) m.data).s := (keptByWrites_sameRegion _).vwrite (fun _ _ _ => rfl) _ _ _
  refine ⟨_, exec_mirrorRestore_of_image hnext hon hok (State.msgImage_of_plain hplain ..) rfl, ?_, ?_⟩
  · rw [if_pos hst]
    exact hstored.of_takeMsg
  · rw [if_pos hst, hkeep _ (by decide), State.takeMsg_rg]

/-- A plain message to a context without a table is counted, and not stored. -/
theorem exec_mirrorRestore_of_noRoot (hroot : s.rb R.ctxPtRootValid (s.rg R.fltMirrorCfgRestoreCtx 0) = false)
    (hn : 0 < m.data.length) :
    ∃ t, exec (.mirrorRestore n) s = .next t ∧ t.mem = s.mem ∧ t.rg R.fltRestoreRxErrorsCount 0 =
      (s.rg R.fltRestoreRxErrorsCount 0 + 1) % 2 ^ R.fltRestoreRxErrorsCount.width := by
  have hw := State.vwrite_of_noRoot (s := s.takeMsg m) (rq := ⟨s.rg R.fltMirrorCfgRestoreCtx 0, 16 + portDie n⟩)
    ((s.takeMsg_rb ..).trans hroot) (bits m.header 32 48) hn
  have hfail : stXltNotPresent ≠ 0 := by decide
  refine ⟨_, exec_mirrorRestore_of_image hnext hon hok (State.msgImage_of_plain hplain ..) hw.symm, ?_, ?_⟩
  · rw [if_neg hfail, State.radd_mem, State.countXlt_mem, State.takeMsg_mem]
  · rw [if_neg hfail, State.radd, State.rset_rg_same, State.countXlt_sameRegion _ _ _ _ (by decide),
      State.takeMsg_rg]

end

/-! ### Sending a bank back (R715) -/

/-- The register fields that banks and Pairing ports depend on. -/
def pairFlds : List Fld :=
  [R.fltMirrorRxBaseBase, R.fltMirrorRxLenLength, R.walePairEnable, R.walePairPartner, R.walePortStatusState,
    R.walePortStatusPairMismatch]

/-- t has the memory, the receive region and the Pairing ports of s. -/
structure SameBanks (s t : State) : Prop extends SameMap s t where
  pair : ∀ f ∈ pairFlds, ∀ i, t.rg f i = s.rg f i

namespace SameBanks

variable {s t : State}

/-- Writing a field that neither depends on keeps them. -/
theorem rset (h : SameBanks s t) {f : Fld} {i v : Nat} (hf : offFlds (mapFlds ++ pairFlds) f = true) :
    SameBanks s (t.rset f i v) where
  toSameMap := h.toSameMap.trans (.of_regs (fun _ hg j => t.rset_rg_of_offFlds hf (List.mem_append_left _ hg) i j v)
    rfl rfl rfl)
  pair _ hg j := (t.rset_rg_of_offFlds hf (List.mem_append_right _ hg) i j v).trans (h.pair _ hg j)

theorem refl (s : State) : SameBanks s s := ⟨.refl s, fun _ _ _ => rfl⟩

variable (h : SameBanks s t)
include h

theorem pair_rb {f : Fld} (hf : f ∈ pairFlds) (i : Nat) : t.rb f i = s.rb f i := by
  rw [State.rb, State.rb, h.pair f hf]

theorem pairReady (p : Nat) : t.pairReady p = s.pairReady p := by
  simp only [State.pairReady, State.isUp, State.portState, h.pair_rb (f := R.walePairEnable) (by decide),
    h.pair_rb (f := R.walePortStatusPairMismatch) (by decide), h.pair R.walePortStatusState (by decide)]

theorem bankAt (b : Nat) : t.bankAt b = s.bankAt b := by
  simp only [State.bankAt, State.bankLen, h.pair R.fltMirrorRxBaseBase (by decide),
    h.pair R.fltMirrorRxLenLength (by decide)]

theorem bankEntry (b i : Nat) : t.bankEntry b i = s.bankEntry b i := by
  rw [State.bankEntry, State.bankEntry, h.bankAt, h.own]

theorem bankGood (b : Nat) : t.bankGood b = s.bankGood b := by
  simp only [State.bankGood, h.bankAt, h.own, h.readStatus, h.bankEntry, h.pair R.fltMirrorRxLenLength (by decide)]

theorem goodAt {a n : Nat} (hg : s.GoodAt a n) : t.GoodAt a n := by
  unfold State.GoodAt at *
  simpa only [h.bad, h.badWords, h.readStatus] using hg

end SameBanks

/-- What a write of FLT_RESTORE stores: the bank, and done, which is RW1C (R14, R718). -/
def State.askRestore (s : State) (v : Nat) : State :=
  if bit v 3 then (s.rset R.fltRestoreBank 0 (bits v 1 1)).rset R.fltRestoreDone 0 0
  else s.rset R.fltRestoreBank 0 (bits v 1 1)

section
variable (s : State) (v : Nat)

theorem State.askRestore_eq : s.askRestore v = { s with regs := (s.askRestore v).regs } := by
  unfold State.askRestore
  split <;> rfl

theorem State.askRestore_mem : (s.askRestore v).mem = s.mem := by rw [State.askRestore_eq]

theorem State.askRestore_out : (s.askRestore v).out = s.out := by rw [State.askRestore_eq]

theorem State.askRestore_wale : (s.askRestore v).wale = s.wale := by rw [State.askRestore_eq]

theorem State.askRestore_rg {f : Fld} (hb : offFlds [f] R.fltRestoreBank = true) (hd : offFlds [f] R.fltRestoreDone = true)
    (i : Nat) : (s.askRestore v).rg f i = s.rg f i := by
  unfold State.askRestore
  split
  · rw [State.rset_rg_off _ hd, State.rset_rg_off _ hb]
  · rw [State.rset_rg_off _ hb]

theorem State.askRestore_sameBanks : SameBanks s (s.askRestore v) := by
  have hbank : SameBanks s (s.rset R.fltRestoreBank 0 (bits v 1 1)) := (SameBanks.refl s).rset (by decide)
  unfold State.askRestore
  split
  · exact hbank.rset (by decide)
  · exact hbank

theorem State.endRestore_busy (st : Nat) : (s.endRestore st).rb R.fltRestoreBusy 0 = false := by
  rw [State.rb, State.endRestore, State.rset_rg_off _ (by decide), State.rset_rg_off _ (by decide), State.rset_rg_same]
  rfl

theorem State.endRestore_done (st : Nat) : (s.endRestore st).rb R.fltRestoreDone 0 = true := by
  rw [State.rb, State.endRestore, State.rset_rg_off _ (by decide), State.rset_rg_same]
  rfl

theorem State.endRestore_status {st : Nat} (h : st < 2 ^ 16) : (s.endRestore st).rg R.fltRestoreStatus 0 = st :=
  (State.rset_rg_same ..).trans (Nat.mod_eq_of_lt h)

end

/-- An entry that meets R706 names bytes. -/
theorem meLen_pos {e : Nat} (h : meMalformed e = false) : 0 < meLen e := by
  simp only [meMalformed, Bool.or_eq_false_iff, beq_eq_false_iff_ne] at h
  obtain ⟨⟨-, hlen⟩, -⟩ := h
  exact Nat.pos_of_ne_zero hlen

/-- Every entry of a bank that may be sent back meets R706. -/
theorem State.bankEntry_of_good {s : State} {b i : Nat} (h : s.bankGood b = true)
    (hi : i < bits (s.own (s.bankAt b + 64) 64) 32 16) : meMalformed (s.bankEntry b i) = false := by
  simp only [State.bankGood, Bool.and_eq_true, List.all_eq_true] at h
  obtain ⟨-, hall⟩ := h
  obtain ⟨-, hentry⟩ := hall i (by simpa [below_eq_range] using hi)
  simpa using hentry

/-- A message to the Pairing partner as it waits on its port (R589). -/
def State.mirrorMsg (s : State) (port ctx hd : Nat) (bs : List Byte) : Msg :=
  ⟨s.wale.nextMsg, port, 47, s.rg R.walePairPartner 0, s.ownId, hd, bs, ctx, true, 0, 0⟩

@[simp] theorem State.send_regs (s : State) (m : Msg) : (s.send m).1.regs = s.regs := by
  unfold State.send
  dsimp only
  split <;> rfl

theorem State.sendMirror_rb (s : State) (port ctx hd : Nat) (bs : List Byte) (f : Fld) (i : Nat) :
    (s.sendMirror port ctx hd bs).1.rb f i = s.rb f i := by
  simp only [State.sendMirror, State.rb, State.rg, State.send_regs]

/-- A message to a partner that is not the module itself takes the next number and waits on its port, behind those sent
before (R591). -/
theorem State.sendMirror_sends {s : State} (h : s.rg R.walePairPartner 0 ≠ s.ownId) (port ctx hd : Nat) (bs : List Byte) :
    Sends s (s.sendMirror port ctx hd bs).1 port (s.mirrorMsg port ctx hd bs) ∧
      (s.sendMirror port ctx hd bs).2 = s.wale.nextMsg :=
  State.send_sends h

/-- Where the first object of a bank lies. -/
def State.firstAt (s : State) (b : Nat) : Nat := s.bankAt b + 262144 + meDst (s.bankEntry b 0)

/-- The header of the RESTORE message of a bank's first object (R715). -/
def State.firstHeader (s : State) (b : Nat) : Nat :=
  mirrorHeader false (meSrc (s.bankEntry b 0)) (meLen (s.bankEntry b 0)) (bits (s.own (s.bankAt b) 64) 32 32) 3 0

/-- The bytes of a bank's first object. -/
def State.firstBytes (s : State) (b : Nat) : List Byte := s.bytes (s.firstAt b) (meLen (s.bankEntry b 0))

/-- The RESTORE message of a bank's first object on a port (R715). -/
def State.firstMsg (s : State) (port b : Nat) : Msg := s.mirrorMsg port noCtx (s.firstHeader b) (s.firstBytes b)

/-- The state once the first object of a bank is read. -/
def State.readFirst (s : State) (b : Nat) : State :=
  s.touch noCtx (s.firstAt b) (meLen (s.bankEntry b 0)) false true

theorem SameBanks.firstAt {s t : State} (h : SameBanks s t) (b : Nat) : t.firstAt b = s.firstAt b := by
  rw [State.firstAt, State.firstAt, h.bankAt, h.bankEntry]

theorem SameBanks.firstMsg {s t : State} (h : SameBanks s t) (hw : t.wale = s.wale) (port b : Nat) :
    t.firstMsg port b = s.firstMsg port b := by
  simp only [State.firstMsg, State.mirrorMsg, State.firstHeader, State.firstBytes, h.firstAt, h.bankAt, h.bankEntry, h.own,
    h.bytes, h.ownId, h.pair R.walePairPartner (by decide), hw]

/-- A bank of one object is sent back with the message that its object gives. -/
theorem State.sendBank_of_sent {s z : State} {port b id : Nat} {r : Rd}
    (hone : bits (s.own (s.bankAt b + 64) 64) 32 16 = 1)
    (hread : s.pread noCtx (s.bankAt b + 262144 + meDst (s.bankEntry b 0)) (meLen (s.bankEntry b 0)) true = r)
    (hsent : r.sendObject port noCtx (bits (s.own (s.bankAt b) 64) 32 32) 3 (meSrc (s.bankEntry b 0))
      (mePlait (s.bankEntry b 0)) = (z, some (0, 0, id))) : s.sendBank port b = (z, [id], 0) := by
  have hlist : below 1 = [0] := rfl
  simp only [State.sendBank, hone, hlist, List.foldl_cons, List.foldl_nil, hread, hsent]
  rfl

/-- An object that is read is sent as it is where its entry does not ask for coding (R706). -/
theorem Rd.sendObject_of_plain {r : Rd} (h : r.st = 0) (port ctx ep part addr : Nat) :
    r.sendObject port ctx ep part addr false =
      ((r.s.sendMirror port ctx (mirrorHeader false addr r.bs.length ep part 0) r.bs).1,
        some (0, 0, (r.s.sendMirror port ctx (mirrorHeader false addr r.bs.length ep part 0) r.bs).2)) :=
  if_neg (not_not_intro h)

/-- The message of a bank's first object waits on its port, behind those sent before. -/
theorem State.sendFirst_sends {s : State} (port b : Nat) (hgood : s.NoBad)
    (hpartner : s.rg R.walePairPartner 0 ≠ s.ownId) :
    Sends s ((s.readFirst b).sendMirror port noCtx (s.firstHeader b) (s.firstBytes b)).1 port (s.firstMsg port b) ∧
      ((s.readFirst b).sendMirror port noCtx (s.firstHeader b) (s.firstBytes b)).2 = s.wale.nextMsg := by
  have hwork : (s.readFirst b).work = s.work := s.touch_work ..
  have hwale : (s.readFirst b).wale = s.wale := State.wale_of_work hwork
  have hpair : (s.readFirst b).rg R.walePairPartner 0 = s.rg R.walePairPartner 0 := State.touch_rg_off (by decide) ..
  have hown : (s.readFirst b).ownId = s.ownId := (State.touch_sameView hgood ..).ownId
  have hmsg : (s.readFirst b).mirrorMsg port noCtx (s.firstHeader b) (s.firstBytes b) = s.firstMsg port b := by
    simp only [State.firstMsg, State.mirrorMsg, hwale, hpair, hown]
  obtain ⟨⟨hout, hmem, hcoll, hrnd⟩, hid⟩ := State.sendMirror_sends (hpair.trans_ne (hpartner.trans_eq hown.symm))
    port noCtx (s.firstHeader b) (s.firstBytes b)
  refine ⟨⟨?_, hmem.trans (s.touch_mem ..).1, hcoll.trans (State.coll_of_work hwork),
    hrnd.trans (State.rnd_of_work hwork)⟩, hid.trans (congrArg WaleSt.nextMsg hwale)⟩
  rw [hout, hmsg, State.port, hwale]
  rfl

/-- Reading the first object leaves the restore busy. -/
theorem State.readFirst_busy (s : State) (b : Nat) : (s.readFirst b).rb R.fltRestoreBusy 0 = s.rb R.fltRestoreBusy 0 :=
  congrArg (· != 0) (State.touch_rg_off (by decide) ..)

/-- A bank whose one object is plain, good and within one sector is sent back with one message. -/
theorem State.sendBank_of_one {s : State} {b : Nat} (port : Nat) (hone : bits (s.own (s.bankAt b + 64) 64) 32 16 = 1)
    (hplain : mePlait (s.bankEntry b 0) = false) (hn : 0 < meLen (s.bankEntry b 0))
    (hsector : s.firstAt b % 64 + meLen (s.bankEntry b 0) ≤ 64) (hgood : s.GoodAt (s.firstAt b) (meLen (s.bankEntry b 0)))
    (hpartner : s.rg R.walePairPartner 0 ≠ s.ownId) :
    ∃ z, s.sendBank port b = (z, [s.wale.nextMsg], 0) ∧ Sends s z port (s.firstMsg port b) ∧
      z.rb R.fltRestoreBusy 0 = s.rb R.fltRestoreBusy 0 := by
  obtain ⟨hbad, hwords, hst⟩ := hgood
  have hread := hst _ (by rw [spans_one hn hsector]; exact List.mem_singleton.mpr rfl)
  obtain ⟨hsends, hid⟩ := State.sendFirst_sends port b ⟨hbad, hwords⟩ hpartner
  refine ⟨_, State.sendBank_of_sent hone (s.pread_one noCtx (s.firstAt b) _ true hn hsector hread) ?_, hsends,
    (State.sendMirror_rb ..).trans (s.readFirst_busy b)⟩
  rw [hplain, Rd.sendObject_of_plain rfl, ← hid]
  simp only [State.firstHeader, State.readFirst, State.firstBytes, State.length_bytes]

section
variable {s : State} {v : Nat} (hbar : s.barOpen 0xE00000 = true) (hask : bit v 0 = true) (htab : s.tableOn = false)
  (hidle : s.rb R.fltRestoreBusy 0 = false)
include hbar hask htab hidle

/-- A request of the physical function looks for a port and checks its bank (R715). -/
theorem exec_restoreStart_of_idle :
    exec (.restoreStart v 0) s = match [7, 15].find? (fun p => s.pairReady p) with
      | none => .next ((s.askRestore v).endRestore stCmdMalformed)
      | some port =>
        if ¬ s.bankGood (bits v 1 1) then .next ((s.askRestore v).endRestore stCmdMalformed)
        else
          let r := ((s.askRestore v).rset R.fltRestoreBusy 0 1).sendBank port (bits v 1 1)
          .next (if r.2.2 = 0 then { r.1 with flt := { r.1.flt with restore := r.2.1 } } else r.1.endRestore r.2.2) := by
  have hsame := s.askRestore_sameBanks v
  have hgo : ¬((s.askRestore v).tableOn = true ∨ (s.askRestore v).rb R.fltRestoreBusy 0 = true) := by
    rw [State.tableOn, State.rb, State.askRestore_rg _ _ (by decide) (by decide),
      State.askRestore_rg _ _ (by decide) (by decide)]
    exact not_or.mpr ⟨ne_true_of_eq_false htab, ne_true_of_eq_false hidle⟩
  have hfn : ¬((0 : Nat) ≠ 0 ∨ ¬bit v 0 = true) := by simp [hask]
  show execRestoreStart v 0 s = _
  rw [execRestoreStart, if_neg (not_not_intro hbar), if_neg hfn]
  simp only [← hsame.pairReady, ← hsame.bankGood]
  exact if_neg hgo

/-- Where no Pairing port is ready or the bank may not be sent back, the restore ends with ST_CMD_MALFORMED. -/
theorem exec_restoreStart_of_refused
    (h : (s.pairReady 7 = false ∧ s.pairReady 15 = false) ∨ s.bankGood (bits v 1 1) = false) :
    exec (.restoreStart v 0) s = .next ((s.askRestore v).endRestore stCmdMalformed) := by
  rw [exec_restoreStart_of_idle hbar hask htab hidle]
  split
  · rfl
  · next port hport =>
    refine if_pos (ne_true_of_eq_false (h.resolve_left ?_))
    rintro ⟨h7, h15⟩
    simp [List.find?, h7, h15] at hport

/-- Otherwise its objects are sent, and the restore waits for their messages. -/
theorem exec_restoreStart_of_good {port : Nat} (hport : [7, 15].find? (fun p => s.pairReady p) = some port)
    (hgood : s.bankGood (bits v 1 1) = true)
    (hsent : (((s.askRestore v).rset R.fltRestoreBusy 0 1).sendBank port (bits v 1 1)).2.2 = 0) :
    exec (.restoreStart v 0) s = .next
      { (((s.askRestore v).rset R.fltRestoreBusy 0 1).sendBank port (bits v 1 1)).1 with
        flt := { (((s.askRestore v).rset R.fltRestoreBusy 0 1).sendBank port (bits v 1 1)).1.flt with
          restore := (((s.askRestore v).rset R.fltRestoreBusy 0 1).sendBank port (bits v 1 1)).2.1 } } := by
  rw [exec_restoreStart_of_idle hbar hask htab hidle, hport]
  simp only [hgood, not_true_eq_false, if_false, hsent, if_true]

/-- A committed bank of one object sends that object back (R715). -/
theorem exec_restoreStart_of_one {port b : Nat} (hb : b = bits v 1 1)
    (hport : [7, 15].find? (fun p => s.pairReady p) = some port) (hgood : s.bankGood b = true)
    (hone : bits (s.own (s.bankAt b + 64) 64) 32 16 = 1) (hplain : mePlait (s.bankEntry b 0) = false)
    (hpartner : s.rg R.walePairPartner 0 ≠ s.ownId) (hsector : s.firstAt b % 64 + meLen (s.bankEntry b 0) ≤ 64)
    (hat : s.GoodAt (s.firstAt b) (meLen (s.bankEntry b 0))) :
    ∃ t, exec (.restoreStart v 0) s = .next t ∧ t.rb R.fltRestoreBusy 0 = true ∧ t.flt.restore = [s.wale.nextMsg] ∧
      (t.port port).out = (s.port port).out ++ [s.firstMsg port b] ∧ t.mem = s.mem := by
  subst hb
  have hn : 0 < meLen (s.bankEntry (bits v 1 1) 0) := meLen_pos (State.bankEntry_of_good hgood (by omega))
  have hsame : SameBanks s ((s.askRestore v).rset R.fltRestoreBusy 0 1) := (s.askRestore_sameBanks v).rset (by decide)
  have hwale : ((s.askRestore v).rset R.fltRestoreBusy 0 1).wale = s.wale := s.askRestore_wale v
  obtain ⟨z, hsend, ⟨hout, hmem, -, -⟩, hbusy⟩ := State.sendBank_of_one
    (s := (s.askRestore v).rset R.fltRestoreBusy 0 1) (b := bits v 1 1) port
    (by rwa [hsame.bankAt, hsame.own]) (by rwa [hsame.bankEntry]) (by rwa [hsame.bankEntry])
    (by rwa [hsame.firstAt, hsame.bankEntry]) (by rw [hsame.firstAt, hsame.bankEntry]; exact hsame.goodAt hat)
    (by rwa [hsame.pair R.walePairPartner (by decide), hsame.ownId])
  refine ⟨_, exec_restoreStart_of_good hbar hask htab hidle hport hgood (by rw [hsend]), ?_⟩
  rw [hsend]
  refine ⟨hbusy.trans (State.rset_rb_same _ rfl 0), congrArg (fun w => [WaleSt.nextMsg w]) hwale, ?_,
    hmem.trans hsame.mem⟩
  refine hout.trans ?_
  rw [hsame.firstMsg hwale, State.port, hwale]
  rfl

end

/-- Once its messages are accepted a restore is done (R715). -/
theorem exec_restoreDone_of_accepted {s : State} (hbusy : s.rb R.fltRestoreBusy 0 = true)
    (hall : ∀ id ∈ s.flt.restore, s.accepted id = true) :
    exec .restoreDone s = .next ({ s with flt := { s.flt with restore := [] } }.endRestore stOk) :=
  if_pos ⟨hbusy, List.all_eq_true.mpr hall⟩

/-! ### The mirrors' statement -/

/-- Settles O55: each clause is the rule of its command in that case; that a header reads back rests on what a write by
physical address leaves of the bytes below it and of the map. -/
theorem mirrorWindowsBanksAndRestores : Obligations.MirrorWindowsBanksAndRestores := by
  unfold Obligations.MirrorWindowsBanksAndRestores
  refine ⟨?window, ?part, ?commit, ?restore, ?start, ?done⟩
  case window =>
    intro s i k w hw hall
    exact exec_mirrorWindowFinish_of_accepted hw hall
  case part =>
    rintro s n part ep a off m c hnext hhalt hlen rfl rfl rfl hc hok hfit hplain
    rw [exec_mirrorPart hc, State.takeMirror_of_plain hnext hhalt hlen hok hfit hplain]
    refine ⟨fun hep => ?begun, fun hep ha hw hsrc hoff => ?new⟩
    case begun =>
      refine ⟨fun hn hsector hst hout => ⟨_, rfl, ?_⟩, fun hlo hhi => ⟨_, rfl, ?_⟩⟩
      · exact State.writeBank_stored hep m.src hn hsector hst hout
      · exact State.writeBank_mem_of_reserved hep m.src hlo hhi
    case new =>
      refine ⟨_, rfl, ?_, ?_, State.writeBank_num hep (bits_lt ..) hsrc ha hw hoff⟩
      · rw [State.writeBank_flt, State.beginEpoch_flt]
      · rw [State.writeBank_flt, State.beginEpoch_flt]
        exact if_neg (by rwa [State.takeMsg_flt])
  case commit =>
    rintro s n ep a m l hnext hhalt hlen rfl rfl hok rfl
    have hep : bits m.header 128 32 < 2 ^ 32 := bits_lt ..
    refine ⟨fun hall => ?committed, ?waiting⟩
    case committed =>
      refine ⟨_, exec_mirrorCommit_of_last hnext hhalt hlen hok hall, State.commitBank_epoch _ _ _ hep,
        State.commitBank_bank .., State.commitBank_valid .., State.commitBank_rxEpoch .., fun ha hw => ?_⟩
      have hbank := (s.noteCommit_sameRegion n m).bankAt (bits m.header 128 32 % 2)
      rw [← hbank] at ha hw ⊢
      exact State.commitBank_num _ _ _ hep ha ((s.noteCommit_writeStatus ..).trans hw)
    case waiting =>
      rintro ⟨p, hp, hne, hmiss⟩
      exact ⟨_, exec_mirrorCommit_of_missing hnext hhalt hlen hok hp hne hmiss,
        congrArg FaultSt.rxEpoch (s.noteCommit_flt n m), congrArg FaultSt.rxCommits (s.noteCommit_flt n m),
        (s.noteCommit_sameRegion n m).rb (by decide) 0⟩
  case restore =>
    rintro s n c pa m hnext rfl
    refine ⟨fun hon hok hplain => ⟨?written, ?noRoot⟩, fun hon hok => ⟨?image, ?noImage⟩, ?malformed, ?discarded⟩
    case written => exact exec_mirrorRestore_of_writable hnext hon hok hplain
    case noRoot => exact exec_mirrorRestore_of_noRoot hnext hon hok hplain
    case image => exact fun v bs w himg hw => exec_mirrorRestore_of_image hnext hon hok himg hw
    case noImage => exact fun v d himg => exec_mirrorRestore_of_noImage hnext hon hok himg
    case malformed => exact exec_mirrorRestore_of_malformed hnext
    case discarded => exact exec_mirrorRestore_of_off hnext
  case start =>
    rintro s v b hbar hask htab hidle rfl
    refine ⟨fun hbad => ?refused, ?sent⟩
    case refused =>
      exact ⟨_, exec_restoreStart_of_refused hbar hask htab hidle hbad, State.endRestore_busy ..,
        State.endRestore_done .., State.endRestore_status _ (by decide), s.askRestore_mem v,
        s.askRestore_out v⟩
    case sent =>
      rintro port e a n hport hgood hone rfl hplain hpartner rfl rfl hsector hat
      exact exec_restoreStart_of_one hbar hask htab hidle rfl hport hgood hone hplain hpartner hsector hat
  case done =>
    intro s hbusy hall
    exact ⟨_, exec_restoreDone_of_accepted hbusy hall, State.endRestore_busy .., State.endRestore_done ..,
      State.endRestore_status _ (by decide), rfl, rfl⟩

end Sys2Proof.Machine
end
